-- ==== Sys2Proof/Word.lean ====
section
/-!
DEFINITION. The word types of the TJ-740 and the two small containers that the records are kept in: one value
for each link, and one value for each port (spec/00_scope.md, Conventions; names of ports, links, tenants and sets).
-/

namespace Sys2Proof

/-- One byte of a frame. -/
abbrev Byte := BitVec 8

/-- An Ethernet address, its first byte the most significant. -/
abbrev Mac := BitVec 48

/-- A value of the elapsed counter (R101): 64 bits of whole nanoseconds above a 16-bit fraction. -/
abbrev Instant := BitVec 80

/-- A value of the elapsed counter in whole nanoseconds, its fraction dropped. -/
abbrev Ns := BitVec 64

/-- The two backhaul links; L0 is attached to BH0 and L1 to BH1. -/
inductive Link where
  | l0
  | l1
deriving DecidableEq, Repr, Inhabited

/-- The other link. -/
def Link.other : Link → Link
  | .l0 => .l1
  | .l1 => .l0

/-- The number of a link. -/
def Link.num : Link → Nat
  | .l0 => 0
  | .l1 => 1

/-- The eleven ports: access ports AP0 to AP7, the site port, and the backhaul port of each link. -/
inductive Port where
  | ap (i : Fin 8)
  | sp
  | bh (l : Link)
deriving DecidableEq, Repr, Inhabited

/-- A tenant, T0 to T7. -/
abbrev Tenant := Fin 8

/-- A share set, S0 to S3. -/
abbrev SetId := Fin 4

/-- One value for each link. -/
structure PerLink (α : Type) where
  l0 : α
  l1 : α
deriving DecidableEq, Repr, Inhabited

/-- The value a link holds. -/
def PerLink.get {α : Type} (v : PerLink α) : Link → α
  | .l0 => v.l0
  | .l1 => v.l1

/-- One link's value replaced. -/
def PerLink.set {α : Type} (v : PerLink α) (l : Link) (x : α) : PerLink α :=
  match l with
  | .l0 => ⟨x, v.l1⟩
  | .l1 => ⟨v.l0, x⟩

/-- The same value for both links. -/
def PerLink.both {α : Type} (x : α) : PerLink α := ⟨x, x⟩

/-- The value at an index of a fixed table. -/
def tget {α : Type} {n : Nat} (v : Vector α n) (i : Fin n) : α := v[i.val]

/-- One entry of a fixed table replaced. -/
def tset {α : Type} {n : Nat} (v : Vector α n) (i : Fin n) (x : α) : Vector α n := v.set i.val x

/-- One value for each port. -/
structure PerPort (α : Type) where
  ap : Vector α 8
  sp : α
  bh : PerLink α
deriving DecidableEq, Repr

/-- The value a port holds. -/
def PerPort.get {α : Type} (v : PerPort α) : Port → α
  | .ap i => tget v.ap i
  | .sp => v.sp
  | .bh l => v.bh.get l

/-- One port's value replaced. -/
def PerPort.set {α : Type} (v : PerPort α) (p : Port) (x : α) : PerPort α :=
  match p with
  | .ap i => { v with ap := tset v.ap i x }
  | .sp => { v with sp := x }
  | .bh l => { v with bh := v.bh.set l x }

/-- The same value for every port. -/
def PerPort.all {α : Type} (x : α) : PerPort α :=
  { ap := Vector.replicate 8 x, sp := x, bh := .both x }

/-- The ports in the order of their codes (12.5): AP0 to AP7, SP, BH0, BH1. -/
def Port.list : List Port :=
  (List.finRange 8).map Port.ap ++ [.sp, .bh .l0, .bh .l1]

end Sys2Proof
end

