-- ==== Sys2Proof/Syntax.lean ====
section
/-!
DEFINITION. The commands of the TJ-740: one constructor for each row of spec/opcode_table.json. The spec's events
are its commands: what arrives on a port, what management asks, what a pin or a supply does, and the expiries of the
device's own timers. Management rows carry what a request frame carries (12.1): a header, a selector and a body of
fields.
-/

namespace Sys2Proof

/-- What a management request frame carries beside its selector and body (R157, R158, 12.1): the port it arrived on,
the source address and the VLAN tag that its response repeats, and its tag. -/
structure Header where
  /-- The arrival port. -/
  port : Port
  /-- The source address of the request. -/
  src : Mac
  /-- The two bytes after 0x8100, when the request is tagged. -/
  vlanTag : Option (BitVec 16)
  /-- The request's tag. -/
  tag : BitVec 16
deriving DecidableEq, Repr

/-- The selector of a request (R177): its type byte and its six-byte value. -/
structure Selector where
  kind : BitVec 8
  value : BitVec 48
deriving DecidableEq, Repr

/-- One field of a request body (R178): an identifier and the bytes of its value. -/
structure Field where
  id : Nat
  value : List Byte
deriving DecidableEq, Repr

/-- The buckets of the Departure Scheduler (R83). -/
inductive BucketId where
  | tenant (t : Tenant)
  | timing
  | reflect (l : Link)
  | pacing (l : Link)
deriving DecidableEq, Repr

/-- The four kinds of reset that assert reset-out (R176). -/
inductive ResetKind where
  | powerOn
  | supplyLow
  | pin
  | restartFull
deriving DecidableEq, Repr

/-- What ends a reset (R176): for power-on, the supply monitor, when the core supply has been above the threshold plus
the hysteresis for aboveNs. -/
inductive Release where
  | powerOn (aboveNs : Nat)
  | supplyLow
  | pin
  | restartFull
deriving DecidableEq, Repr

/-- The levels on the strap pins (R174, 12.6). -/
structure Straps where
  /-- SLOTSEL1 and SLOTSEL0, SLOTSEL1 the high bit. -/
  slotSel : Fin 4
  /-- BRINGUP, high is 1. -/
  bringup : Bool
deriving DecidableEq, Repr

/-- The commands. -/
inductive Instr where
  /-- FRAME_RECEPTION_BEGINS (R120): the first byte of a frame arrives on a port. -/
  | frameReceptionBegins (p : Port)
  /-- FRAME_RECEIVED (R5): the reception of a frame ends; the bytes run from the destination address through the FCS. -/
  | frameReceived (p : Port) (bytes : List Byte)
  /-- PORT_WRITE (R2). -/
  | portWrite (h : Header) (sel : Selector) (body : List Field)
  /-- FLOW_WRITE (R25). -/
  | flowWrite (h : Header) (sel : Selector) (body : List Field)
  /-- FLOW_DELETE (R26). -/
  | flowDelete (h : Header) (sel : Selector) (body : List Field)
  /-- TENANT_WRITE (R61). -/
  | tenantWrite (h : Header) (sel : Selector) (body : List Field)
  /-- SHARE_SET_WRITE (R64): a WRITE of the SHARE_SET class. -/
  | shareSetWrite (h : Header) (sel : Selector) (body : List Field)
  /-- PARAMETERS_WRITE (R68): a WRITE of the SHARE_SET class that names the index PARAMETERS. -/
  | parametersWrite (h : Header) (body : List Field)
  /-- LINK_WRITE (R36). -/
  | linkWrite (h : Header) (sel : Selector) (body : List Field)
  /-- PROFILE_WRITE (R37). -/
  | profileWrite (h : Header) (sel : Selector) (body : List Field)
  /-- STEP_WRITE (R139). -/
  | stepWrite (h : Header) (sel : Selector) (body : List Field)
  /-- SCHEDULE_WRITE (R130). -/
  | scheduleWrite (h : Header) (sel : Selector) (body : List Field)
  /-- SCHEDULE_DELETE (R131). -/
  | scheduleDelete (h : Header) (sel : Selector) (body : List Field)
  /-- TIMING_WRITE (R104). -/
  | timingWrite (h : Header) (sel : Selector) (body : List Field)
  /-- PULSE_OUTPUT_WRITE (R115). -/
  | pulseOutputWrite (h : Header) (sel : Selector) (body : List Field)
  /-- NOTICE_CONFIG_WRITE (R163). -/
  | noticeConfigWrite (h : Header) (sel : Selector) (body : List Field)
  /-- ACTIVATE_SET (R66). -/
  | activateSet (h : Header) (sel : Selector) (body : List Field)
  /-- SET_TIME (R114). -/
  | setTime (h : Header) (sel : Selector) (body : List Field)
  /-- RETEST (R55). -/
  | retest (h : Header) (sel : Selector) (body : List Field)
  /-- ADMIT (R56). -/
  | admitLink (h : Header) (sel : Selector) (body : List Field)
  /-- STOP (R57). -/
  | stopRun (h : Header) (sel : Selector) (body : List Field)
  /-- CLEAR_CONDITIONS (R164). -/
  | clearConditions (h : Header) (sel : Selector) (body : List Field)
  /-- CLEAR_RESET_CAUSE (R176). -/
  | clearResetCause (h : Header) (sel : Selector) (body : List Field)
  /-- ERASE_SLOT (R170). -/
  | eraseSlot (h : Header) (sel : Selector) (body : List Field)
  /-- SAVE_SLOT (R171). -/
  | saveSlot (h : Header) (sel : Selector) (body : List Field)
  /-- LOAD_SLOT (R172). -/
  | loadSlot (h : Header) (sel : Selector) (body : List Field)
  /-- INVALIDATE_SLOT (R170). -/
  | invalidateSlot (h : Header) (sel : Selector) (body : List Field)
  /-- WRITE_INFO (R173). -/
  | writeInfo (h : Header) (sel : Selector) (body : List Field)
  /-- ERASE_INFO (R173). -/
  | eraseInfo (h : Header) (sel : Selector) (body : List Field)
  /-- RESTART_FULL (R176): a RESTART whose first field is FULL; body holds its other fields. -/
  | restartFull (h : Header) (sel : Selector) (body : List Field)
  /-- RESTART_TRAFFIC (R176): a RESTART whose first field is TRAFFIC; body holds its other fields. -/
  | restartTraffic (h : Header) (sel : Selector) (body : List Field)
  /-- FLOW_DOWN (R4): the physical link of a port goes down. -/
  | flowDown (p : Port)
  /-- PORT_LINK_UP (R4): the physical link of a port comes up. -/
  | portLinkUp (p : Port)
  /-- ACCESS_TRANSMISSION_END (R18): a transmission ends on an access port or SP. -/
  | accessTransmissionEnd (p : Port)
  /-- BACKHAUL_TRANSMISSION_END (R99): a transmission ends on the backhaul port of a link. -/
  | backhaulTransmissionEnd (l : Link)
  /-- CREDIT_REACHES_ZERO (R91): a pacing, timing or tenant bucket's negative credit reaches 0. -/
  | creditReachesZero (b : BucketId)
  /-- DEMAND_WINDOW_EXPIRY (R69). -/
  | demandWindowExpiry
  /-- SUPERVISION_EXPIRY (R48). -/
  | supervisionExpiry (l : Link)
  /-- PENDING_TIMEOUT (R45). -/
  | pendingTimeout (l : Link)
  /-- HOLD_OFF_EXPIRY (R52). -/
  | holdOffExpiry (l : Link)
  /-- PPS_EDGE (R106): a rising edge of PPSIN, which was low for lowNs before it (R179). -/
  | ppsEdge (lowNs : Nat)
  /-- PULSE_MISSING_EXPIRY (R112). -/
  | pulseMissingExpiry
  /-- HOLDOVER_LIMIT_EXPIRY (R113). -/
  | holdoverLimitExpiry
  /-- SLEW_END (R110). -/
  | slewEnd
  /-- PULSE_OUTPUT_RISE (R116): running site time reaches an output's rise point. -/
  | pulseOutputRise (k : Fin 4)
  /-- PULSE_OUTPUT_FALL (R116). -/
  | pulseOutputFall (k : Fin 4)
  /-- SCHEDULE_FIRE (R132). -/
  | scheduleFire
  /-- SITE_SECONDS_WRAP (R102, R134). -/
  | siteSecondsWrap
  /-- PHASE_END (R145). -/
  | phaseEnd (l : Link)
  /-- TEST_FRAME_DUE (R146). -/
  | testFrameDue (l : Link)
  /-- NOTICE_DUE (R165). -/
  | noticeDue
  /-- STORE_ERASE_END (R169): an erase ends; readBackOk says whether the bytes read back as intended. -/
  | storeEraseEnd (readBackOk : Bool)
  /-- STORE_BLOCK_PROGRAMMED (R171): a block program ends; readBackOk says whether the bytes read back as intended. -/
  | storeBlockProgrammed (readBackOk : Bool)
  /-- STORE_RECOVERY_END (R169). -/
  | storeRecoveryEnd
  /-- POWER_ON_RESET (R176). -/
  | powerOnReset
  /-- SUPPLY_LOW_RESET (R176): the core supply has been below the threshold for lowNs. -/
  | supplyLowReset (lowNs : Nat)
  /-- PIN_RESET (R179): RSTIN_N has been low for lowNs. -/
  | pinReset (lowNs : Nat)
  /-- RESET_RELEASE (R174, R176): one reset is released, with the levels then on the strap pins. -/
  | resetRelease (k : Release) (straps : Straps)
  /-- BUFFER_GROUP_TESTED (R174): the test of the group under test ends; bad says whether it was found bad. -/
  | bufferGroupTested (bad : Bool)
  /-- STARTUP_SLOT_LOADED (R174). -/
  | startupSlotLoaded
deriving DecidableEq, Repr

end Sys2Proof
end

