-- ==== Sys2Proof/Machine/Records.lean ====
section
/-!
DEFINITION. The records of the TJ-740, block by block, as the chapters of spec/ list them. Counters that wrap at a
stated width are bit vectors of that width; quantities that never wrap are natural numbers; absent values (NONE) are
none.
-/

namespace Sys2Proof.Machine

/-! ## Ports, queues and descriptors (chapter 1) -/

/-- The counters of a port record, in the order of R3. -/
inductive PortCounter where
  | framesReceived
  | bytesReceived
  | lengthErrors
  | checkErrors
  | tagErrors
  | notRunning
  | misdirected
  | flowMisses
  | actionDiscards
  | inactiveTenant
  | timingQueueDrops
  | reflectDrops
  | egressDrops
  | linkDownDiscards
  | mgmtRefusals
  | correctionOffsetErrors
  | framesTransmitted
  | bytesTransmitted
deriving DecidableEq, Repr

/-- The place of a counter in R3's table, from 0. -/
def PortCounter.idx : PortCounter → Fin 18
  | .framesReceived => 0
  | .bytesReceived => 1
  | .lengthErrors => 2
  | .checkErrors => 3
  | .tagErrors => 4
  | .notRunning => 5
  | .misdirected => 6
  | .flowMisses => 7
  | .actionDiscards => 8
  | .inactiveTenant => 9
  | .timingQueueDrops => 10
  | .reflectDrops => 11
  | .egressDrops => 12
  | .linkDownDiscards => 13
  | .mgmtRefusals => 14
  | .correctionOffsetErrors => 15
  | .framesTransmitted => 16
  | .bytesTransmitted => 17

/-- The role of a port (R1). -/
inductive Role where
  | access
  | site
  | backhaul
deriving DecidableEq, Repr

/-- The configurable fields of a port record (R1). A backhaul port carries no default tenant, and only an access port
carries a downstream queue limit: in the other records those fields keep their factory value and are never read. -/
structure PortConfig where
  defaultTenant : Tenant
  mgmt : Bool
  noticeDest : Bool
  maxLen : Nat
  downLimit : Nat
deriving DecidableEq, Repr

/-- The class of a descriptor (R11). -/
inductive FrameClass where
  | tenant
  | timing
  | test
  | reflected
  | downstream
deriving DecidableEq, Repr

/-- A link preference (R21). -/
inductive Pref where
  | any
  | preferL0
  | preferL1
deriving DecidableEq, Repr

/-- A frame descriptor (R11), with the bytes that its cells hold. -/
structure Descriptor where
  cls : FrameClass
  cells : List Nat
  length : Nat
  arrival : Instant
  tenant : Option Tenant
  pref : Option Pref
  link : Option Link
  slot : Option Nat
  offset : Option Nat
  ingress : Option Instant
  airDelay : Option Nat
  frame : List Byte
deriving DecidableEq, Repr

/-! ## The Flow Table (chapter 2) -/

/-- The key of a flow entry or of a frame (R22): the ingress port and the VLAN, none for UNTAGGED. -/
structure FlowKey where
  port : Port
  vlan : Option Nat
deriving DecidableEq, Repr

/-- A flow action (R21). -/
inductive FlowAction where
  | forward
  | timing
  | reflect
  | discard
  | testReturn
deriving DecidableEq, Repr

/-- The owner of a flow entry (R21). -/
inductive Owner where
  | management
  | test
deriving DecidableEq, Repr

/-- What a writer gives a flow entry (R21), and what a slot body holds of it (R32). -/
structure FlowSpec where
  key : FlowKey
  action : FlowAction
  tenant : Option Tenant
  egress : Option Port
  pref : Option Pref
  offset : Option Nat
deriving DecidableEq, Repr

/-- A flow entry (R21). The last link is read only in TIMING entries of an access port or SP (R23). -/
structure FlowEntry where
  spec : FlowSpec
  owner : Owner
  hits : BitVec 64
  lastHit : Option Ns
  lastLink : Option Link
deriving DecidableEq, Repr

/-- A table from slot numbers, ascending, to what the slots hold. -/
abbrev SlotTable (α : Type) := List (Nat × α)

/-! ## Backhaul links (chapter 3) -/

/-- The state of a link (R35). -/
inductive LinkState where
  | down
  | qualifying
  | inService
  | faded
  | barred
deriving DecidableEq, Repr

/-- The programme causes and bar causes (R35, R141, 12.5). -/
inductive Cause where
  | none
  | stepFailed
  | carrier
  | noticeLost
  | stopped
  | tableFull
  | keyInUse
  | programmeInvalid
  | capacity
  | restart
deriving DecidableEq, Repr

/-- The configurable fields of a link record (R35); times in ms. -/
structure LinkConfig where
  startIndex : Option (Fin 32)
  testVlan : Nat
  holdOff : Nat
  supervision : Nat
  pendingTimeout : Nat
  reflectAllowance : Nat
deriving DecidableEq, Repr

/-- A profile table entry (R37): rate in kbit/s, overhead in per mille, air delay in ns. -/
structure Profile where
  valid : Bool
  rate : Nat
  overhead : Nat
  airDelay : Nat
deriving DecidableEq, Repr

/-- The source of the profile in force (R38). -/
inductive ProfileSource where
  | current
  | pending
  | fallback
deriving DecidableEq, Repr

/-- The counters of a link record (R35). -/
structure LinkCounters where
  currentTaken : BitVec 32
  pendingTaken : BitVec 32
  pendingIgnored : BitVec 32
  malformed : BitVec 32
  pendingTimeouts : BitVec 32
  fades : BitVec 32
  staleOnsets : BitVec 32
deriving DecidableEq, Repr

/-- The fields of a link record that Link Control keeps (R35). A timer is none when stopped. -/
structure LinkUnit where
  state : LinkState
  carrier : Bool
  current : Fin 16
  pending : Option (Fin 16)
  stale : Bool
  level : Option (BitVec 8)
  barCause : Cause
  admitted : Bool
  supTimer : Option Instant
  pendTimer : Option Instant
  holdTimer : Option Instant
  counters : LinkCounters
deriving DecidableEq, Repr

/-! ## Capacity sharing (chapter 4) -/

/-- The configurable fields of a tenant record (R60): cells, ms and bytes. -/
structure TenantConfig where
  active : Bool
  queueLimit : Nat
  maxAge : Nat
  depth : Nat
deriving DecidableEq, Repr

/-- What the device keeps for a tenant: the demand byte count (R14) and the read-only fields of R60. -/
structure TenantUnit where
  demandBytes : Nat
  demand : Nat
  allocation : Nat
  accepted : BitVec 64
  dropped : BitVec 64
  aged : BitVec 64
  departed : BitVec 64
deriving DecidableEq, Repr

/-- A tenant's values in a share set (R63): per mille, weight, kbit/s; a cap of 0 is no cap. -/
structure Share where
  guarantee : Nat
  weight : Nat
  cap : Nat
deriving DecidableEq, Repr

/-- A share set (R63). -/
abbrev ShareSet := Vector Share 8

/-- The calculator parameters (R68). -/
structure Params where
  windowMs : Nat
  tRes : Nat
deriving DecidableEq, Repr

/-- The demand window under way (R69): the length it was given, and its expiry. -/
structure Window where
  lengthMs : Nat
  ends : Instant
deriving DecidableEq, Repr

/-- A link's row of the allocation table (R79). -/
structure AllocLink where
  inService : Bool
  el : Nat
  testRate : Nat
  reflectPresent : Bool
  allowance : Nat
  xl : Nat
deriving DecidableEq, Repr

/-- A tenant's row of the allocation table (R79). -/
structure AllocTenant where
  active : Bool
  demand : Nat
  guarantee : Nat
  allocation : Nat
deriving DecidableEq, Repr

/-- The allocation table (R79), without the cells and groups that a READ adds to it. -/
structure AllocTable where
  u : Nat
  g : Nat
  tRes : Nat
  x : Nat
  links : PerLink AllocLink
  activeSet : SetId
  tenants : Vector AllocTenant 8
  unassigned : Nat
  computedAt : Option Ns
  computations : BitVec 32
deriving DecidableEq, Repr

/-- The Share Calculator's own state (R69, R72, R79). -/
structure Calc where
  testRate : PerLink Nat
  reflectPresent : PerLink Bool
  window : Option Window
  table : AllocTable
deriving DecidableEq, Repr

/-! ## Departure scheduling (chapter 5) -/

/-- A bucket (R83): kbit/s, bits, bits, millionths of a bit, ns. -/
structure Bucket where
  rate : Nat
  depth : Nat
  credit : Int
  residue : Nat
  last : Ns
deriving DecidableEq, Repr

/-- The Departure Scheduler's state: the buckets (R83) and the round-robin pointers (R94). -/
structure Departure where
  tenant : Vector Bucket 8
  timing : Bucket
  reflect : PerLink Bucket
  pacing : PerLink Bucket
  pointer : PerLink Tenant
deriving DecidableEq, Repr

/-! ## Site time and pulse outputs (chapter 6) -/

/-- The servo state (R105). -/
inductive ServoState where
  | freeRun
  | acquiring
  | locked
  | holdover
deriving DecidableEq, Repr

/-- The timing configuration record (R104). -/
structure TimingConfig where
  comp : Nat
  stepLimit : Nat
  lockThreshold : Nat
  lockCount : Nat
  unlockCount : Nat
  gainShift : Nat
  holdoverLimit : Nat
deriving DecidableEq, Repr

/-- The servo record (R105): f and slew in ppb, the phase error in ns. -/
structure Servo where
  state : ServoState
  f : Int
  slew : Int
  slewEnd : Option Ns
  reference : Option Ns
  phaseError : Option Int
  lockCtr : Nat
  unlockCtr : Nat
  holdoverStart : Option Ns
  /-- The expiry of the holdover limit's timer while it runs (R113, R118). -/
  holdoverEnds : Option Ns
  accepted : BitVec 32
  rejected : BitVec 32
  steps : BitVec 32
deriving DecidableEq, Repr

/-- Site time (R102): seconds, nanoseconds, and a fraction in units of 2^-32 ns. -/
structure SiteTime where
  seconds : Nat
  nanos : Nat
  frac : Nat
deriving DecidableEq, Repr

/-- The squelch policy of a pulse output (R115). -/
inductive Squelch where
  | always
  | lockedOrHoldover
deriving DecidableEq, Repr

/-- The configurable fields of a pulse-output record (R115): ns, ms. -/
structure PulseConfig where
  advance : Nat
  width : Nat
  policy : Squelch
deriving DecidableEq, Repr

/-- The read-only fields of a pulse-output record (R115); the pin follows the level (R179). -/
structure PulseUnit where
  high : Bool
  fall : Option Instant
  pulses : BitVec 32
deriving DecidableEq, Repr

/-- The Time Unit's state (R101 to R105, R115). -/
structure TimeUnit where
  elapsed : Instant
  site : SiteTime
  valid : Bool
  servo : Servo
  pulses : Vector PulseUnit 4
deriving DecidableEq, Repr

/-! ## The share schedule (chapter 8) -/

/-- A schedule entry (R129). -/
structure ScheduleEntry where
  time : Nat
  set : SetId
  tag : Nat
deriving DecidableEq, Repr

/-- The record of one event of firing (R129). -/
structure Firing where
  count : Nat
  time : Nat
  set : SetId
  tag : Nat
  siteSeconds : Nat
  siteNanos : Nat
  elapsed : Ns
deriving DecidableEq, Repr

/-- The firing record (R129). -/
structure FiringRecord where
  fired : BitVec 32
  last : Option Firing
deriving DecidableEq, Repr

/-! ## Path qualification (chapter 9) -/

/-- The kind of a step (R139). -/
inductive StepKind where
  | load
  | probe
  | wait
deriving DecidableEq, Repr

/-- A step record (R139). -/
structure StepRecord where
  kind : StepKind
  length : Nat
  rate : Nat
  interval : Nat
  settle : Nat
  measure : Nat
  recover : Nat
  maxLoss : Nat
  maxRoundTrip : Nat
  maxVariation : Nat
  last : Bool
deriving DecidableEq, Repr

/-- The state of a programme context (R141). -/
inductive RunState where
  | idle
  | settle
  | measure
  | recover
  | passed
  | failed
  | aborted
deriving DecidableEq, Repr

/-- The generator of a run (R146): none, the credit account of a LOAD step, or the next probe time. The residue of the
account counts 2^-16 ns of a kbit/s: the counter's own unit, so that the due times are exact. -/
inductive Generator where
  | none
  | load (credit residue : Nat) (last : Instant)
  | probe (next : Instant)
deriving DecidableEq, Repr

/-- A programme context (R141). -/
structure Context where
  state : RunState
  runNo : BitVec 8
  inService : Bool
  cause : Cause
  first : Option (Fin 32)
  last : Option (Fin 32)
  current : Option (Fin 32)
  step : Option StepRecord
  testKey : Option FlowKey
  slot : Option Nat
  phaseEnd : Option Instant
  gen : Generator
  nextSeq : BitVec 32
  range : Option (BitVec 32 × BitVec 32)
  sent : BitVec 32
  returned : BitVec 32
  minRt : Option Nat
  maxRt : Option Nat
  sumRt : BitVec 64
deriving DecidableEq, Repr

/-- A result record (R142). -/
structure StepResult where
  link : Link
  runNo : BitVec 8
  kind : StepKind
  sent : BitVec 32
  returned : BitVec 32
  excess : Nat
  loss : Nat
  minRt : Option Nat
  meanRt : Option Nat
  maxRt : Option Nat
  pass : Bool
  writtenAt : Ns
deriving DecidableEq, Repr

/-- The Qualification Engine's state beside the step table (R141, R142). -/
structure Qual where
  ctx : PerLink Context
  results : Vector (Option StepResult) 32
deriving DecidableEq, Repr

/-! ## Management and notices (chapter 10) -/

/-- A condition with its qualifier (R162), in the order of R162's table. -/
inductive Cond where
  | linkDown (l : Link)
  | linkFaded (l : Link)
  | linkAdmitted (l : Link)
  | linkBarred (l : Link)
  | stale (l : Link)
  | profileUnknown (l : Link)
  | qualifyDone (l : Link)
  | retestFailed (l : Link)
  | queueOverflow (t : Tenant)
  | agedDiscard (t : Tenant)
  | capacityChanged
  | shareSetChanged
  | timeLocked
  | timeHoldover
  | timeFreeRun
  | timeStepped
  | ppsRejected
  | correctionSaturated
  | timingPathChanged
  | mgmtRefused
  | storeDone
  | storeFailed
  | storeInvalid
  | bufferRetired
deriving DecidableEq, Repr

/-- A condition latch (R162). -/
structure Latch where
  latched : Bool
  occurrences : Nat
  first : Option Ns
  last : Option Ns
  detail : Option Nat
deriving DecidableEq, Repr

/-- The notice configuration record (R163): the level of each kind, in the order of R162's table. -/
structure NoticeConfig where
  levels : Vector Nat 24
  interval : Nat
  address : Mac
deriving DecidableEq, Repr

/-- The notice state (R165). -/
structure NoticeState where
  last : Option Ns
  pending : Bool
  due : Option Ns
  built : BitVec 32
  refused : BitVec 32
deriving DecidableEq, Repr

/-- The Management Engine's state: the latches in the order of R166, and the notice state. -/
structure Mgmt where
  latches : Vector Latch 46
  notice : NoticeState
deriving DecidableEq, Repr

/-- A response status (R161). -/
inductive Status where
  | ok
  | accepted
  | notFound
  | tableFull
  | invalidValue
  | duplicate
  | shareExceeded
  | busy
  | notPermitted
  | notErased
  | invalidSlot
  | fault
deriving DecidableEq, Repr

/-- A latch with its name and its kind's level, as notices and CONDITION responses carry it (12.4). -/
structure LatchRecord where
  cond : Cond
  level : Nat
  latch : Latch
deriving DecidableEq, Repr

/-- The value of a response field (R178): a number, a signed number, a one-byte enumeration, bytes, or NONE. -/
inductive Val where
  | num (n : Nat)
  | int (i : Int)
  | enum (n : Nat)
  | bytes (b : List Byte)
  | none
deriving DecidableEq, Repr

/-- A part of a response body: a field, or the latch records of a CONDITION response. -/
inductive Item where
  | field (id : Nat) (v : Val)
  | latches (rs : List LatchRecord)
deriving DecidableEq, Repr

/-- A response frame (R158, 12.1). -/
structure Response where
  dst : Mac
  src : Mac
  vlanTag : Option (BitVec 16)
  kind : BitVec 8
  tag : BitVec 16
  code : BitVec 16
  sel : Selector
  status : Status
  body : List Item
deriving DecidableEq, Repr

/-- A link's part of a notice (R166). -/
structure LinkSummary where
  state : LinkState
  current : Fin 16
  stale : Bool
  level : Option (BitVec 8)
deriving DecidableEq, Repr

/-- A notice frame (R166, 12.4); site is none for "invalid". -/
structure Notice where
  dst : Mac
  src : Mac
  label : List Byte
  site : Option (Nat × Nat)
  elapsed : Ns
  links : PerLink LinkSummary
  u : Nat
  latches : List LatchRecord
deriving DecidableEq, Repr

/-- A frame of a local queue (R17). -/
inductive LocalFrame where
  | response (r : Response)
  | notice (n : Notice)
deriving DecidableEq, Repr

/-! ## Transmitters and the Queue Set -/

/-- What is being transmitted: a frame of the pool, or a frame of the local store. -/
inductive TxItem where
  | pool (d : Descriptor)
  | store (f : LocalFrame)
deriving DecidableEq, Repr

/-- A transmission under way (R18, R90): what it is, its bytes as sent, and the moment it ends. -/
structure Transmission where
  item : TxItem
  bytes : List Byte
  ends : Instant
deriving DecidableEq, Repr

/-- What a port block keeps beside its configuration (R1, R3, R5, R18). -/
structure PortUnit where
  linkUp : Bool
  counters : Vector (BitVec 64) 18
  rx : Option Instant
  tx : Option Transmission
deriving DecidableEq, Repr

/-- The Queue Set (R12): down is an access port's downstream queue and SP's site queue; a backhaul port has none. -/
structure QueueSet where
  tenant : Vector (List Descriptor) 8
  timing : List Descriptor
  test : PerLink (List Descriptor)
  down : PerPort (List Descriptor)
  locals : PerPort (List LocalFrame)
deriving DecidableEq, Repr

/-- The buffer pool (R15, R16): the free cells and the retired groups. -/
structure Pool where
  free : List Nat
  retired : List Nat
deriving DecidableEq, Repr

/-! ## The store and start-up (chapter 11) -/

/-- The classes that a slot body holds and the device runs on (R168), all but the flow entries. -/
structure Classes where
  ports : PerPort PortConfig
  tenants : Vector TenantConfig 8
  sets : Vector ShareSet 4
  activeSet : SetId
  params : Params
  links : PerLink LinkConfig
  profiles : PerLink (Vector Profile 16)
  steps : Vector StepRecord 32
  timing : TimingConfig
  pulses : Vector PulseConfig 4
  notice : NoticeConfig
  schedule : List ScheduleEntry
deriving DecidableEq, Repr

/-- A slot body (R168): the classes of its fixed part and its flow part (R32). -/
structure SlotBody where
  classes : Classes
  flows : SlotTable FlowSpec
deriving DecidableEq, Repr

/-- The header of a slot beside its marker (R168). -/
structure SlotHeader where
  check : BitVec 32
  saveCount : Nat
deriving DecidableEq, Repr

/-- What a slot of the store holds (R168). body is some when the body blocks hold one whole body, header when the
header block is whole; erased says that every byte reads as ones. -/
structure SlotImage where
  erased : Bool
  body : Option SlotBody
  header : Option SlotHeader
  marker : Byte
deriving DecidableEq, Repr

/-- What the information page holds (R168): the address and the label when its first block is whole, and the marker. -/
structure InfoImage where
  erased : Bool
  content : Option (Mac × List Byte)
  marker : Byte
deriving DecidableEq, Repr

/-- The report of a slot or of the page (R168, R169). -/
inductive Report where
  | erased
  | valid
  | invalid
deriving DecidableEq, Repr

/-- The store timing record (R169), in ms. -/
structure StoreTimes where
  slotErase : Nat
  program : Nat
  recovery : Nat
  infoErase : Nat
deriving DecidableEq, Repr

/-- A store operation (R170, R171, R173); a save holds its copy of the body and its save count. -/
inductive StoreJob where
  | eraseSlot (k : Fin 4)
  | saveSlot (k : Fin 4) (body : SlotBody) (count : Nat)
  | invalidateSlot (k : Fin 4)
  | eraseInfo
  | writeInfo (addr : Mac) (label : List Byte)
deriving DecidableEq, Repr

/-- The phase of a store operation (R169). -/
inductive StorePhase where
  | erase
  | program
  | recovery
deriving DecidableEq, Repr

/-- The operation under way (R169); ends is the end of the erase, of the block being programmed, or of the recovery. -/
structure StoreOp where
  job : StoreJob
  phase : StorePhase
  done : Nat
  total : Nat
  ends : Instant
deriving DecidableEq, Repr

/-- What an erase that did not complete leaves (R169): ones throughout, the old contents, or bytes that are neither. -/
inductive EraseLeftover where
  | allOnes
  | untouched
  | damaged (marker : Byte)
deriving DecidableEq, Repr, Inhabited

/-- The name of a store operation (R169). -/
inductive StoreOpName where
  | eraseSlot
  | saveSlot
  | invalidateSlot
  | eraseInfo
  | writeInfo
deriving DecidableEq, Repr

/-- The last result of the store (R169): done or failed, with its operation and slot. -/
structure LastResult where
  done : Bool
  op : StoreOpName
  slot : Option (Fin 4)
deriving DecidableEq, Repr

/-- The Store Controller's state (R168, R169). -/
structure Store where
  slots : Vector SlotImage 4
  info : InfoImage
  runAddr : Mac
  runLabel : List Byte
  op : Option StoreOp
  last : Option LastResult
  times : StoreTimes
deriving DecidableEq, Repr

/-- The start-up state (R174). -/
inductive StartState where
  | reset
  | checking
  | loading
  | running
  | fault
deriving DecidableEq, Repr

/-- The Start-up Controller's state (R174, R176). causes holds the flags at the bits of 12.5, and resetOut is the
reset-out pin: asserted while RSTOUT_N is driven low (R179). -/
structure Startup where
  state : StartState
  resetOut : Bool
  straps : Straps
  pins : Straps
  held : List ResetKind
  causes : BitVec 5
  restartEnds : Option Instant
  group : Option (Nat × Instant)
  loadEnds : Option Instant
deriving DecidableEq, Repr

/-- The model's own work list of one event: the ports whose arbiter the event calls, and the notices it has built and
not yet offered. It is empty between commands. -/
structure EventWork where
  kick : PerPort Bool
  outbox : List Notice
deriving DecidableEq, Repr

end Sys2Proof.Machine
end

