-- ==== Sys2Proof/Config.lean ====
section
/-!
DEFINITION. What the spec leaves open and the model leaves free: constants with no body, so that a statement holds
whatever they are. Each is read at a counter of the state (freeCount) or at what it depends on. See the assumption log.
-/

namespace Sys2Proof.Config

open Sys2Proof.Machine

/-- The bytes of a slot body, in order (R168 names the classes and gives no layout). -/
opaque bodyBytes : SlotBody → List Byte

/-- Which arbiter passes first when both may pass (R97): true for BH1. -/
opaque firstArbiterIsBh1 : Nat → Bool

/-- Which of the device's own events of one moment is taken next, of those due and those that site time reaches (R81,
R116, R136, R165). -/
opaque dueChoice : Nat → Nat

/-- How many bytes the device gives the number of a response field, by class code and identifier (R178). -/
opaque fieldWidth : Nat → Nat → Nat

/-- What an erase that did not complete leaves (R169). -/
opaque eraseLeftover : Nat → EraseLeftover

/-- Which of the 253 damaged values a marker reads after a program of it that did not complete (R168, R170). -/
opaque cutMarker : Nat → Fin 253

/-- Whether a program of a marker that did not complete left it unmarked (R171, R173). -/
opaque cutUnmarked : Nat → Bool

/-- What the information page holds after an erase that did not complete and left a page marker in it (R169). -/
opaque cutPage : Nat → Mac × Vector Byte 32

/-- Whether an erase or a program reads back as intended (R169). -/
opaque readBackOk : Nat → Bool

/-- Whether the test of a buffer group finds it bad (R174). -/
opaque groupBad : Nat → Bool

/-- How many blocks the start-up controller reads from a slot that holds no whole body (R174). -/
opaque loadBlocks : Nat → Nat

end Sys2Proof.Config
end

