-- ==== Sys2Proof/Machine/Defaults.lean ====
section
/-!
DEFINITION. The factory defaults of every class, and the value of each record right after a reset, as the tables of
the chapters give them.
-/

namespace Sys2Proof.Machine

/-! ## Factory defaults of the classes of a slot body -/

/-- R1: management permitted and notice destination by port, 9,216 bytes, 1,024 cells, T0. -/
def factoryPort (mgmt noticeDest : Bool) : PortConfig :=
  { defaultTenant := 0, mgmt, noticeDest, maxLen := 9216, downLimit := 1024 }

/-- R1. -/
def factoryPorts : PerPort PortConfig :=
  { ap := Vector.replicate 8 (factoryPort false false)
    sp := factoryPort true true
    bh := .both (factoryPort true false) }

/-- R60: only T0 is active. -/
def factoryTenants : Vector TenantConfig 8 :=
  Vector.ofFn fun i => { active := decide (i = (0 : Fin 8)), queueLimit := 512, maxAge := 50, depth := 65536 }

/-- R63. -/
def factorySet : ShareSet := Vector.replicate 8 { guarantee := 0, weight := 1, cap := 0 }

/-- R35. -/
def factoryLink (vlan : Nat) : LinkConfig :=
  { startIndex := none, testVlan := vlan, holdOff := 300, supervision := 1000, pendingTimeout := 500,
    reflectAllowance := 10000 }

/-- R37: only entry 0 is valid. -/
def factoryProfiles : Vector Profile 16 :=
  Vector.ofFn fun i =>
    if i = (0 : Fin 16) then { valid := true, rate := 10000, overhead := 0, airDelay := 0 }
    else { valid := false, rate := 0, overhead := 0, airDelay := 0 }

/-- R139. -/
def factoryStep : StepRecord :=
  { kind := .wait, length := 64, rate := 64, interval := 1000, settle := 0, measure := 1, recover := 0,
    maxLoss := 0, maxRoundTrip := 0, maxVariation := 0, last := false }

/-- R104. -/
def factoryTiming : TimingConfig :=
  { comp := 0, stepLimit := 10000, lockThreshold := 100, lockCount := 16, unlockCount := 4, gainShift := 4,
    holdoverLimit := 14400 }

/-- R115. -/
def factoryPulse : PulseConfig := { advance := 0, width := 100, policy := .lockedOrHoldover }

/-- R162: the default level of each kind, in the order of the table. -/
def factoryLevels : Vector Nat 24 :=
  #v[2, 2, 2, 3, 1, 1, 1, 1, 1, 1, 1, 1, 2, 2, 2, 1, 1, 1, 1, 1, 1, 1, 3, 1]

/-- R163: the broadcast address. -/
def factoryNotice : NoticeConfig :=
  { levels := factoryLevels, interval := 100, address := 0xFFFFFFFFFFFF#48 }

/-- The classes of a slot body at their factory defaults. -/
def factoryClasses : Classes :=
  { ports := factoryPorts
    tenants := factoryTenants
    sets := Vector.replicate 4 factorySet
    activeSet := 0
    params := { windowMs := 100, tRes := 1000 }
    links := ⟨factoryLink 4000, factoryLink 4001⟩
    profiles := .both factoryProfiles
    steps := Vector.replicate 32 factoryStep
    timing := factoryTiming
    pulses := Vector.replicate 4 factoryPulse
    notice := factoryNotice
    schedule := [] }

/-! ## The records after a reset that asserts reset-out -/

/-- R20: link up no, counters 0; the reset ends any reception and any transmission. -/
def resetPort : PortUnit :=
  { linkUp := false, counters := Vector.replicate 18 0, rx := none, tx := none }

/-- R20: every queue is empty. -/
def emptyQueues : QueueSet :=
  { tenant := Vector.replicate 8 [], timing := [], test := .both [], down := .all [], locals := .all [] }

/-- All 8,192 cells (R15). -/
def allCells : List Nat := List.range 8192

/-- R15: the cells that belong to no retired group. -/
def cellsWithout (retired : List Nat) : List Nat := allCells.filter fun c => !retired.contains (c / 256)

/-- R20, R82. -/
def resetTenant : TenantUnit :=
  { demandBytes := 0, demand := 0, allocation := 0, accepted := 0, dropped := 0, aged := 0, departed := 0 }

/-- R59. -/
def resetLink : LinkUnit :=
  { state := .down, carrier := false, current := 0, pending := none, stale := false, level := none,
    barCause := .none, admitted := false, supTimer := none, pendTimer := none, holdTimer := none,
    counters := { currentTaken := 0, pendingTaken := 0, pendingIgnored := 0, malformed := 0,
                  pendingTimeouts := 0, fades := 0, staleOnsets := 0 } }

/-- R82: every value of the table reads 0 and computed at reads NONE. -/
def emptyTable : AllocTable :=
  { u := 0, g := 0, tRes := 0, x := 0
    links := .both { inService := false, el := 0, testRate := 0, reflectPresent := false, allowance := 0, xl := 0 }
    activeSet := 0
    tenants := Vector.replicate 8 { active := false, demand := 0, guarantee := 0, allocation := 0 }
    unassigned := 0, computedAt := none, computations := 0 }

/-- R82: test rates 0; no window before RUNNING. -/
def resetCalc : Calc :=
  { testRate := .both 0, reflectPresent := .both false, window := none, table := emptyTable }

/-- The depth of the timing, reflect and pacing buckets (R83): 18,432 bytes. -/
def fixedDepth : Nat := 147456

/-- A bucket right after a reset (R88): credit, residue and last update 0. -/
def freshBucket (rate depth : Nat) : Bucket := { rate, depth, credit := 0, residue := 0, last := 0 }

/-- R88: the buckets and pointers for given classes and the E_L of each link. -/
def resetDeparture (c : Classes) (el : PerLink Nat) : Departure :=
  { tenant := Vector.ofFn fun i => freshBucket 0 ((tget c.tenants i).depth * 8)
    timing := freshBucket 0 fixedDepth
    reflect := ⟨freshBucket c.links.l0.reflectAllowance fixedDepth, freshBucket c.links.l1.reflectAllowance fixedDepth⟩
    pacing := ⟨freshBucket el.l0 fixedDepth, freshBucket el.l1 fixedDepth⟩
    pointer := .both 7 }

/-- R105. -/
def resetServo : Servo :=
  { state := .freeRun, f := 0, slew := 0, slewEnd := none, reference := none, phaseError := none, lockCtr := 0,
    unlockCtr := 0, holdoverStart := none, holdoverEnds := none, accepted := 0, rejected := 0, steps := 0 }

/-- R101, R102, R103, R105, R115. -/
def resetTime : TimeUnit :=
  { elapsed := 0, site := { seconds := 0, nanos := 0, frac := 0 }, valid := false, servo := resetServo
    pulses := Vector.replicate 4 { high := false, fall := none, pulses := 0 } }

/-- R138. -/
def resetFiring : FiringRecord := { fired := 0, last := none }

/-- R141. -/
def resetContext : Context :=
  { state := .idle, runNo := 0, inService := false, cause := .none, first := none, last := none, current := none,
    step := none, testKey := none, slot := none, phaseEnd := none, gen := .none, nextSeq := 0, range := none,
    sent := 0, returned := 0, minRt := none, maxRt := none, sumRt := 0 }

/-- R155. -/
def resetQual : Qual := { ctx := .both resetContext, results := Vector.replicate 32 none }

/-- A latch that is not latched (R162, R164). -/
def clearLatch : Latch := { latched := false, occurrences := 0, first := none, last := none, detail := none }

/-- R167. -/
def resetMgmt : Mgmt :=
  { latches := Vector.replicate 46 clearLatch
    notice := { last := none, pending := false, due := none, built := 0, refused := 0 } }

/-- An erased slot (R168): every byte reads as ones. -/
def erasedSlot : SlotImage := { erased := true, body := none, header := none, marker := 0xFF#8 }

/-- An erased information page (R168). -/
def erasedInfo : InfoImage := { erased := true, content := none, marker := 0xFF#8 }

/-- The default management address of a page without a valid marker, 02-00-00-00-07-40 (R168). -/
def defaultAddress : Mac := 0x020000000740#48

/-- An empty site label: 32 spaces (R168, R173). -/
def emptyLabel : List Byte := List.replicate 32 0x20#8

/-- R169: the store timing record at every reset. -/
def factoryTimes : StoreTimes := { slotErase := 400, program := 2, recovery := 1, infoErase := 100 }

/-- The empty work list of an event. -/
def noWork : EventWork := { kick := .all false, outbox := [] }

end Sys2Proof.Machine
end

