-- ==== Sys2Proof/Machine/State.lean ====
section
/-!
DEFINITION. The state of the TJ-740 as plain data, the ways a step can stop, and the state right after reset. Each
field is owned by one functional block of spec/00_scope.md; INVENTORY.md lists every piece with its rule.
-/

namespace Sys2Proof.Machine

/-- The ways the machine stops with a fault: none. Every event the spec describes ends in a next state; the FAULT
start-up state of R175 is a state. (An empty type is safe: it lets no step stop.) -/
inductive Fault where
deriving DecidableEq, Repr

/-- The ways a step refuses a command. -/
inductive Refusal where
  /-- Raised by exec for a command that has no meaning yet. Safe: no next state is claimed. No arm of this model raises
  it. -/
  | notModelled (mnemonic : String)
deriving DecidableEq, Repr

/-- The state of the block. -/
structure State where
  /-- The running classes of a slot body (R168). -/
  cfg : Classes
  /-- The Flow Table (R21): occupied slots in ascending order. -/
  flows : List (Nat × FlowEntry)
  /-- The port blocks (R1, R3). -/
  ports : PerPort PortUnit
  /-- The Queue Set (R12). -/
  queues : QueueSet
  /-- The Buffer Manager (R15, R16). -/
  pool : Pool
  /-- Demand counts and the read-only tenant fields (R14, R60). -/
  tenants : Vector TenantUnit 8
  /-- The Share Calculator (R69, R72, R79). -/
  share : Calc
  /-- The Departure Scheduler (R83, R94). -/
  sched : Departure
  /-- Link Control (R35). -/
  links : PerLink LinkUnit
  /-- The Time Unit (R101 to R105, R115). -/
  time : TimeUnit
  /-- The firing record of the Schedule Unit (R129). -/
  firing : FiringRecord
  /-- The Qualification Engine (R141, R142). -/
  qual : Qual
  /-- The Management Engine (R162, R165). -/
  mgmt : Mgmt
  /-- The Store Controller (R168, R169). -/
  store : Store
  /-- The Start-up Controller (R174, R176). -/
  startup : Startup
  /-- The model's own: what the event under way still has to do. Empty between commands. -/
  ev : EventWork
  /-- The model's own: where the free values of Config are read next. -/
  freeCount : Nat
  /-- The commands that are waiting, first in, first out. -/
  pending : List Instr
deriving DecidableEq, Repr

/-- The machine right after reset: a power-on reset has just begun (R176), and nothing is released yet. -/
def State.reset : State :=
  { cfg := factoryClasses
    flows := []
    ports := .all resetPort
    queues := emptyQueues
    pool := { free := allCells, retired := [] }
    tenants := Vector.replicate 8 resetTenant
    share := resetCalc
    sched := resetDeparture factoryClasses (.both 10000)
    links := .both resetLink
    time := resetTime
    firing := resetFiring
    qual := resetQual
    mgmt := resetMgmt
    store := { slots := Vector.replicate 4 erasedSlot, info := erasedInfo, runAddr := defaultAddress
               runLabel := emptyLabel, op := none, last := none, times := factoryTimes }
    startup := { state := .reset, resetOut := true, straps := ⟨0, false⟩, pins := ⟨0, false⟩, held := [.powerOn], causes := 1#5
                 restartEnds := none, group := none, loadEnds := none }
    ev := noWork
    freeCount := 0
    pending := [] }

end Sys2Proof.Machine
end

