-- ==== Sys2Proof/Machine/Bits.lean ====
section
/-!
DEFINITION. Byte order, the frame check sequence, and arithmetic on the elapsed counter.
-/

namespace Sys2Proof.Machine

/-! ## Bytes, most significant first (12) -/

/-- The unsigned number that bytes spell, most significant byte first. -/
def bytesToNat (bs : List Byte) : Nat := bs.foldl (fun n b => n * 256 + b.toNat) 0

/-- The low n bytes of a number, most significant byte first. -/
def natToBytes : Nat → Nat → List Byte
  | 0, _ => []
  | n + 1, v => natToBytes n (v / 256) ++ [BitVec.ofNat 8 v]

/-- The n bytes of a signed number in two's complement, most significant byte first. -/
def intToBytes (n : Nat) (v : Int) : List Byte := natToBytes n (v % (2 ^ (8 * n) : Nat)).toNat

/-- The signed number that eight bytes spell in two's complement (R124). -/
def bytesToInt64 (bs : List Byte) : Int := (BitVec.ofNat 64 (bytesToNat bs)).toInt

/-- n bytes of a frame from an offset on. -/
def slice (off n : Nat) (bs : List Byte) : List Byte := (bs.drop off).take n

/-- A frame with bytes replaced from an offset on. -/
def patch (off : Nat) (new bs : List Byte) : List Byte := bs.take off ++ new ++ bs.drop (off + new.length)

/-! ## The frame check sequence (R126) -/

/-- One bit of the register: the generator polynomial 0x04C11DB7 with its bits reversed, since each byte is taken
least significant bit first. -/
def crcBit (r : BitVec 32) : BitVec 32 := if r.getLsbD 0 then (r >>> 1) ^^^ 0xEDB88320#32 else r >>> 1

/-- One byte of the register. -/
def crcByte (r : BitVec 32) (b : Byte) : BitVec 32 :=
  crcBit (crcBit (crcBit (crcBit (crcBit (crcBit (crcBit (crcBit (r ^^^ b.setWidth 32))))))))

/-- The 32-bit check over bytes (R126): the register starts at all ones and is complemented at the end. -/
def crc32 (bs : List Byte) : BitVec 32 := ~~~(bs.foldl crcByte 0xFFFFFFFF#32)

/-- A check as it is placed in a frame: least significant byte first (R126). -/
def fcsBytes (c : BitVec 32) : List Byte := (natToBytes 4 c.toNat).reverse

/-- A frame with its last four bytes replaced by the FCS over the bytes before them (R126). -/
def withFcs (bs : List Byte) : List Byte :=
  let front := bs.take (bs.length - 4)
  front ++ fcsBytes (crc32 front)

/-- The received FCS matches the FCS computed over the frame (R5). -/
def fcsOk (bs : List Byte) : Bool := withFcs bs == bs

/-! ## Elapsed time (R101) -/

/-- The whole nanoseconds of an elapsed time. -/
def wholeNs (t : Instant) : Ns := t.extractLsb' 16 64

/-- The elapsed time n nanoseconds later. -/
def afterNs (t : Instant) (n : Nat) : Instant := t + BitVec.ofNat 80 (n * 65536)

/-- Milliseconds in nanoseconds. -/
def msNs (ms : Nat) : Nat := ms * 1000000

/-- The elapsed time ms milliseconds later. -/
def afterMs (t : Instant) (ms : Nat) : Instant := afterNs t (msNs ms)

/-- The counter has reached an expiry (R101). The counter wraps, so an expiry counts as reached while it lies less than
half the counter's range in the past. -/
def reached (now due : Instant) : Bool := decide ((now - due).toNat < 2 ^ 79)

/-- The counter in whole nanoseconds has reached an expiry. -/
def reachedNs (now due : Ns) : Bool := decide ((now - due).toNat < 2 ^ 63)

/-- The elapsed nanoseconds from one moment to a later one. -/
def sinceNs (now start : Ns) : Nat := (now - start).toNat

/-- The end of a transmission of n bytes that starts now (R18): 0.8 ns a byte at 10 Gbit/s, 8 ns a byte at 1 Gbit/s,
rounded up to the counter's unit. -/
def txEnd (now : Instant) (gigabit : Bool) (n : Nat) : Instant :=
  now + BitVec.ofNat 80 (if gigabit then n * 8 * 65536 else (n * 4 * 65536 + 4) / 5)

end Sys2Proof.Machine
end

