-- ==== Sys2Proof/Machine/Ops.lean ====
section
/-!
DEFINITION. The named operations over the state that every chapter shares: reading the clock, the records of a port,
counting, calling an arbiter, taking and freeing cells (R15), and joining the local queues (R17).
-/

namespace Sys2Proof.Machine

/-! ## The clock and the records -/

/-- The elapsed counter (R101). -/
def State.now (s : State) : Instant := s.time.elapsed

/-- The elapsed counter in whole nanoseconds. -/
def State.nowNs (s : State) : Ns := wholeNs s.time.elapsed

/-- A port's record beside its configuration. -/
def State.port (s : State) (p : Port) : PortUnit := s.ports.get p

/-- A port's record replaced. -/
def State.setPort (s : State) (p : Port) (u : PortUnit) : State := { s with ports := s.ports.set p u }

/-- A link's record. -/
def State.link (s : State) (l : Link) : LinkUnit := s.links.get l

/-- A link's record replaced. -/
def State.setLink (s : State) (l : Link) (u : LinkUnit) : State := { s with links := s.links.set l u }

/-- A tenant's configuration. -/
def State.tenantCfg (s : State) (t : Tenant) : TenantConfig := tget s.cfg.tenants t

/-- What the device keeps for a tenant. -/
def State.tenant (s : State) (t : Tenant) : TenantUnit := tget s.tenants t

/-- A tenant's unit replaced. -/
def State.setTenant (s : State) (t : Tenant) (u : TenantUnit) : State := { s with tenants := tset s.tenants t u }

/-- A link's programme context. -/
def State.ctx (s : State) (l : Link) : Context := s.qual.ctx.get l

/-- A link's programme context replaced. -/
def State.setCtx (s : State) (l : Link) (c : Context) : State :=
  { s with qual := { s.qual with ctx := s.qual.ctx.set l c } }

/-- The role of a port (R1). -/
def roleOf : Port → Role
  | .ap _ => .access
  | .sp => .site
  | .bh _ => .backhaul

/-- The code of a port (12.5). -/
def codeOf : Port → Nat
  | .ap i => i.val
  | .sp => 8
  | .bh .l0 => 9
  | .bh .l1 => 10

/-- The port of a code (12.5). -/
def portOfCode (n : Nat) : Option Port :=
  if h : n < 8 then some (.ap ⟨n, h⟩) else if n = 8 then some .sp else if n = 9 then some (.bh .l0)
  else if n = 10 then some (.bh .l1) else none

/-- The link of a number. -/
def linkOfNum (n : Nat) : Option Link := if n = 0 then some .l0 else if n = 1 then some .l1 else none

/-- Steps a counter of a port record by n; it wraps at 64 bits (R3). -/
def count (p : Port) (c : PortCounter) (n : Nat) (s : State) : State :=
  let u := s.port p
  s.setPort p { u with counters := tset u.counters c.idx (tget u.counters c.idx + BitVec.ofNat 64 n) }

/-- The next value of the free values, and the counter moved on. -/
def takeFree (s : State) : Nat × State := (s.freeCount, { s with freeCount := s.freeCount + 1 })

/-! ## Calling the arbiters -/

/-- The event under way calls a port's arbiter: a frame has joined one of its queues, or one of the events of R91. -/
def kick (p : Port) (s : State) : State := { s with ev := { s.ev with kick := s.ev.kick.set p true } }

/-- The event under way calls both backhaul arbiters (R91). -/
def kickBackhaul (s : State) : State := kick (.bh .l1) (kick (.bh .l0) s)

/-! ## Cells (R13, R15) -/

/-- The cells that a frame of n bytes occupies. -/
def cellsFor (n : Nat) : Nat := (n + 255) / 256

/-- The occupancy of a queue (R12). -/
def occupancy (q : List Descriptor) : Nat := (q.map (fun d => d.cells.length)).sum

/-- A frame of n bytes is accepted by a queue with this limit (R13). -/
def fits (s : State) (q : List Descriptor) (limit n : Nat) : Bool :=
  decide (occupancy q + cellsFor n ≤ limit ∧ cellsFor n ≤ s.pool.free.length)

/-- The descriptor as it joins a queue: with its cells and its arrival time (R13). -/
def withCells (s : State) (d : Descriptor) : Descriptor :=
  { d with cells := s.pool.free.take (cellsFor d.length), arrival := s.now }

/-- The pool without the cells that a frame of n bytes takes (R15). -/
def takeCells (n : Nat) (s : State) : State :=
  { s with pool := { s.pool with free := s.pool.free.drop (cellsFor n) } }

/-- The cells of a frame return to the free set (R15). -/
def freeCells (d : Descriptor) (s : State) : State :=
  { s with pool := { s.pool with free := d.cells ++ s.pool.free } }

/-- The cells of several frames return to the free set. -/
def freeAll (ds : List Descriptor) (s : State) : State :=
  { s with pool := { s.pool with free := (ds.map (fun d => d.cells)).flatten ++ s.pool.free } }

/-! ## Local queues (R17) -/

/-- A port's local queue. -/
def State.localQ (s : State) (p : Port) : List LocalFrame := s.queues.locals.get p

/-- A port's local queue replaced. -/
def State.setLocalQ (s : State) (p : Port) (q : List LocalFrame) : State :=
  { s with queues := { s.queues with locals := s.queues.locals.set p q } }

/-- What is transmitted is a frame of the local store. -/
def TxItem.isLocal : TxItem → Bool
  | .store _ => true
  | .pool _ => false

/-- The place that a local frame under transmission holds until its end (R17). -/
def State.sendingPlace (s : State) (p : Port) : Nat := if (s.port p).tx.any fun x => x.item.isLocal then 1 else 0

/-- The places of a port's local store that frames hold: one for each frame of the local queue, and one for the local
frame under transmission (R17). -/
def State.placesTaken (s : State) (p : Port) : Nat := (s.localQ p).length + s.sendingPlace p

/-- A local queue takes a frame: a place of the 16 is free, and the port's link is up (R17; log entry 34). -/
def localRoom (s : State) (p : Port) : Bool := decide (s.placesTaken p < 16) && (s.port p).linkUp

/-- A frame offered to a port's local queue joins its tail or is refused; the first part says whether it joined. -/
def offerLocal (p : Port) (f : LocalFrame) (s : State) : Bool × State :=
  if localRoom s p then (true, kick p (s.setLocalQ p (s.localQ p ++ [f]))) else (false, s)

end Sys2Proof.Machine
end

