-- ==== Sys2Proof/Machine/Flags.lean ====
section
/-!
DEFINITION. The flags of the device: the 46 condition latches (R162) and what a latching does, the notices (R165, R166).
-/

namespace Sys2Proof.Machine

/-! ## The conditions of R162 -/

/-- The place of a condition's kind in R162's table, from 0; its code is one more (12.5). -/
def Cond.kind : Cond → Fin 24
  | .linkDown _ => 0
  | .linkFaded _ => 1
  | .linkAdmitted _ => 2
  | .linkBarred _ => 3
  | .stale _ => 4
  | .profileUnknown _ => 5
  | .qualifyDone _ => 6
  | .retestFailed _ => 7
  | .queueOverflow _ => 8
  | .agedDiscard _ => 9
  | .capacityChanged => 10
  | .shareSetChanged => 11
  | .timeLocked => 12
  | .timeHoldover => 13
  | .timeFreeRun => 14
  | .timeStepped => 15
  | .ppsRejected => 16
  | .correctionSaturated => 17
  | .timingPathChanged => 18
  | .mgmtRefused => 19
  | .storeDone => 20
  | .storeFailed => 21
  | .storeInvalid => 22
  | .bufferRetired => 23

/-- The place of a per-link latch: two for each of the eight per-link kinds. -/
def linkLatch (k : Fin 8) (l : Link) : Fin 46 :=
  match l with
  | .l0 => ⟨2 * k.val, by omega⟩
  | .l1 => ⟨2 * k.val + 1, by omega⟩

/-- The place of a per-tenant latch: eight for each of the two per-tenant kinds. -/
def tenantLatch (k : Fin 2) (t : Tenant) : Fin 46 := ⟨16 + 8 * k.val + t.val, by omega⟩

/-- The place of a latch: the order of R162's table, and within a kind the order of its qualifier (R166). -/
def Cond.idx : Cond → Fin 46
  | .linkDown l => linkLatch 0 l
  | .linkFaded l => linkLatch 1 l
  | .linkAdmitted l => linkLatch 2 l
  | .linkBarred l => linkLatch 3 l
  | .stale l => linkLatch 4 l
  | .profileUnknown l => linkLatch 5 l
  | .qualifyDone l => linkLatch 6 l
  | .retestFailed l => linkLatch 7 l
  | .queueOverflow t => tenantLatch 0 t
  | .agedDiscard t => tenantLatch 1 t
  | .capacityChanged => 32
  | .shareSetChanged => 33
  | .timeLocked => 34
  | .timeHoldover => 35
  | .timeFreeRun => 36
  | .timeStepped => 37
  | .ppsRejected => 38
  | .correctionSaturated => 39
  | .timingPathChanged => 40
  | .mgmtRefused => 41
  | .storeDone => 42
  | .storeFailed => 43
  | .storeInvalid => 44
  | .bufferRetired => 45

/-- The qualifier of a condition as frames carry it (R177): link, tenant, or 0xFF. -/
def Cond.qualifier : Cond → Nat
  | .linkDown l | .linkFaded l | .linkAdmitted l | .linkBarred l | .stale l | .profileUnknown l
  | .qualifyDone l | .retestFailed l => l.num
  | .queueOverflow t | .agedDiscard t => t.val
  | _ => 255

/-- The conditions of a kind, in ascending order of qualifier. -/
def condsOfKind (k : Nat) : List Cond :=
  let links (f : Link → Cond) : List Cond := [f .l0, f .l1]
  let tenants (f : Tenant → Cond) : List Cond := (List.finRange 8).map f
  match k with
  | 0 => links .linkDown
  | 1 => links .linkFaded
  | 2 => links .linkAdmitted
  | 3 => links .linkBarred
  | 4 => links .stale
  | 5 => links .profileUnknown
  | 6 => links .qualifyDone
  | 7 => links .retestFailed
  | 8 => tenants .queueOverflow
  | 9 => tenants .agedDiscard
  | 10 => [.capacityChanged]
  | 11 => [.shareSetChanged]
  | 12 => [.timeLocked]
  | 13 => [.timeHoldover]
  | 14 => [.timeFreeRun]
  | 15 => [.timeStepped]
  | 16 => [.ppsRejected]
  | 17 => [.correctionSaturated]
  | 18 => [.timingPathChanged]
  | 19 => [.mgmtRefused]
  | 20 => [.storeDone]
  | 21 => [.storeFailed]
  | 22 => [.storeInvalid]
  | 23 => [.bufferRetired]
  | _ => []

/-- Every condition, in the order of R162's table. -/
def allConds : List Cond := ((List.range 24).map condsOfKind).flatten

/-- A condition's latch. -/
def State.latch (s : State) (c : Cond) : Latch := tget s.mgmt.latches c.idx

/-- The level of a condition's kind (R163). -/
def State.level (s : State) (c : Cond) : Nat := tget s.cfg.notice.levels c.kind

/-- A latch with its name and level. -/
def State.latchRecord (s : State) (c : Cond) : LatchRecord :=
  { cond := c, level := s.level c, latch := s.latch c }

/-- The reportable latches, ordered by level from 3 down to 1 and then as R162's table (R166). -/
def reportable (s : State) : List LatchRecord :=
  let at1 (lvl : Nat) : List LatchRecord :=
    (allConds.filter fun c => (s.latch c).latched && decide (s.level c = lvl)).map s.latchRecord
  at1 3 ++ at1 2 ++ at1 1

/-! ## Notices (R165, R166) -/

/-- A link's part of a notice (R166). -/
def linkSummary (u : LinkUnit) : LinkSummary :=
  { state := u.state, current := u.current, stale := u.stale, level := u.level }

/-- The notice as it stands when it is built (R166). -/
def noticeNow (s : State) : Notice :=
  { dst := s.cfg.notice.address
    src := s.store.runAddr
    label := s.store.runLabel
    site := if s.time.valid then some (s.time.site.seconds, s.time.site.nanos) else none
    elapsed := s.nowNs
    links := ⟨linkSummary s.links.l0, linkSummary s.links.l1⟩
    u := s.share.table.u
    latches := reportable s }

/-- The notice state replaced. -/
def State.setNotice (s : State) (n : NoticeState) : State := { s with mgmt := { s.mgmt with notice := n } }

/-- A notice is built (R165). Its copies are offered when the event under way has offered its response (R157). -/
def buildNotice (s : State) : State :=
  let n := s.mgmt.notice
  let s1 := { s with ev := { s.ev with outbox := s.ev.outbox ++ [noticeNow s] } }
  s1.setNotice { n with last := some s.nowNs, pending := false, due := none, built := n.built + 1 }

/-- The interval has passed since the last notice, or none was built (R165). -/
def intervalPassed (s : State) : Bool :=
  match s.mgmt.notice.last with
  | none => true
  | some t => decide (msNs s.cfg.notice.interval ≤ sinceNs s.nowNs t)

/-- The moment a pending notice falls due: the last notice time plus the interval (R165). -/
def noticeDueAt (s : State) : Option Ns :=
  s.mgmt.notice.last.map fun t => t + BitVec.ofNat 64 (msNs s.cfg.notice.interval)

/-- What a new latching of a kind of level 1 or above does (R165). -/
def judgeLatching (level : Nat) (s : State) : State :=
  let n := s.mgmt.notice
  match s.startup.state with
  | .running | .fault =>
    if level = 3 || intervalPassed s then buildNotice s
    else if n.pending then s
    else s.setNotice { n with pending := true, due := noticeDueAt s }
  | _ => s.setNotice { n with pending := true }

/-- A pending notice falls due (R165). -/
def noticeFallsDue (s : State) : State :=
  let s1 := s.setNotice { s.mgmt.notice with pending := false, due := none }
  if (reportable s1).isEmpty then s1 else buildNotice s1

/-- What entry to RUNNING or FAULT does with the flag that CHECKING and LOADING left (R165). -/
def noticeAtEntry (s : State) : State :=
  if s.mgmt.notice.pending then noticeFallsDue s else s

/-- A latch after its cause has occurred (R162). -/
def Latch.occur (x : Latch) (t : Ns) (detail : Option Nat) : Latch :=
  if x.latched then { x with occurrences := min (x.occurrences + 1) 65535, last := some t, detail }
  else { latched := true, occurrences := 1, first := some t, last := some t, detail }

/-- The cause of a condition occurs (R162); a new latching is judged (R165). -/
def raise (c : Cond) (detail : Option Nat) (s : State) : State :=
  let old := s.latch c
  let s1 := { s with mgmt := { s.mgmt with latches := tset s.mgmt.latches c.idx (old.occur s.nowNs detail) } }
  if !old.latched && decide (1 ≤ s.level c) then judgeLatching (s.level c) s1 else s1

/-- One notice's copies are offered to the local queue of each notice destination; each refusal is counted (R166). -/
def offerCopies (n : Notice) (s : State) : State :=
  Port.list.foldl (fun s p =>
    if (s.cfg.ports.get p).noticeDest then
      match offerLocal p (.notice n) s with
      | (true, s') => s'
      | (false, s') => s'.setNotice { s'.mgmt.notice with refused := s'.mgmt.notice.refused + 1 }
    else s) s

/-- The notices that the event has built are offered. -/
def offerNotices (s : State) : State :=
  s.ev.outbox.foldl (fun s n => offerCopies n s) { s with ev := { s.ev with outbox := [] } }

end Sys2Proof.Machine
end

