-- ==== Sys2Proof/Machine/Buckets.lean ====
section
/-!
DEFINITION. The credit accounts of the Departure Scheduler: bringing up to date, charging, and changing rate or depth
(R83 to R88).
-/

namespace Sys2Proof.Machine

/-- A bucket brought up to date at a moment (R84). -/
def Bucket.refresh (t : Ns) (b : Bucket) : Bucket :=
  let sum := b.rate * sinceNs t b.last + b.residue
  { b with
    credit := min (b.credit + (sum / 1000000 : Nat)) b.depth
    residue := sum % 1000000
    last := t }

/-- A bucket charged a frame of n bytes (R85). -/
def Bucket.charge (n : Nat) (b : Bucket) : Bucket := { b with credit := b.credit - ((n * 8 : Nat) : Int) }

/-- A bucket with a new rate (R86): it has been brought up to date at the old one. -/
def Bucket.withRate (r : Nat) (b : Bucket) : Bucket := { b with rate := r }

/-- A bucket with a new depth, in bits; a credit above it is cut to it (R87). -/
def Bucket.withDepth (d : Nat) (b : Bucket) : Bucket := { b with depth := d, credit := min b.credit d }

/-- A bucket zeroed at a moment, its rate and depth kept (R88). -/
def Bucket.zero (t : Ns) (b : Bucket) : Bucket := { b with credit := 0, residue := 0, last := t }

/-- A negative credit reaches 0 between two values of one bucket (R91). -/
def crossesZero (old new : Bucket) : Bool := decide (old.credit < 0 ∧ 0 ≤ new.credit)

/-- A bucket by its name (R83). -/
def State.bucket (s : State) : BucketId → Bucket
  | .tenant t => tget s.sched.tenant t
  | .timing => s.sched.timing
  | .reflect l => s.sched.reflect.get l
  | .pacing l => s.sched.pacing.get l

/-- A bucket replaced. -/
def State.setBucket (s : State) (i : BucketId) (b : Bucket) : State :=
  { s with
    sched :=
      match i with
      | .tenant t => { s.sched with tenant := tset s.sched.tenant t b }
      | .timing => { s.sched with timing := b }
      | .reflect l => { s.sched with reflect := s.sched.reflect.set l b }
      | .pacing l => { s.sched with pacing := s.sched.pacing.set l b } }

/-- The arbiters that a bucket's credit reaching 0 calls (R91): both for a tenant or timing bucket, the link's own for
its pacing bucket, none for a reflect bucket. -/
def kickForBucket (i : BucketId) (s : State) : State :=
  match i with
  | .tenant _ | .timing => kickBackhaul s
  | .pacing l => kick (.bh l) s
  | .reflect _ => s

/-- A bucket brought up to date now (R84). Its negative credit reaching 0 calls the arbiters (R91). -/
def touch (i : BucketId) (s : State) : State :=
  let b := s.bucket i
  let b' := b.refresh s.nowNs
  let s1 := s.setBucket i b'
  if crossesZero b b' then kickForBucket i s1 else s1

/-- A bucket brought up to date and charged a frame of n bytes (R85). -/
def charge (i : BucketId) (n : Nat) (s : State) : State :=
  let s1 := touch i s
  s1.setBucket i ((s1.bucket i).charge n)

/-- A bucket brought up to date and given a new rate (R86). -/
def setRate (i : BucketId) (r : Nat) (s : State) : State :=
  let s1 := touch i s
  s1.setBucket i ((s1.bucket i).withRate r)

/-- A tenant's bucket brought up to date and given the depth of its record, in bytes (R87). -/
def setDepth (t : Tenant) (bytes : Nat) (s : State) : State :=
  let s1 := touch (.tenant t) s
  s1.setBucket (.tenant t) ((s1.bucket (.tenant t)).withDepth (bytes * 8))

/-- The tenant and timing buckets brought up to date and given the rates of a computation (R79, R86). -/
def setShareRates (a : Vector AllocTenant 8) (tRes : Nat) (s : State) : State :=
  let t := s.nowNs
  let tenant := Vector.ofFn fun i => ((tget s.sched.tenant i).refresh t).withRate (tget a i).allocation
  let timing := (s.sched.timing.refresh t).withRate tRes
  let crossed :=
    (List.finRange 8).any (fun i => crossesZero (tget s.sched.tenant i) (tget tenant i)) || crossesZero s.sched.timing timing
  let s1 := { s with sched := { s.sched with tenant, timing } }
  if crossed then kickBackhaul s1 else s1

/-- Every bucket zeroed now, and both pointers at T7 (R88, R94: RESTART TRAFFIC). -/
def zeroBuckets (s : State) : State :=
  let t := s.nowNs
  { s with
    sched :=
      { tenant := s.sched.tenant.map (Bucket.zero t)
        timing := s.sched.timing.zero t
        reflect := ⟨s.sched.reflect.l0.zero t, s.sched.reflect.l1.zero t⟩
        pacing := ⟨s.sched.pacing.l0.zero t, s.sched.pacing.l1.zero t⟩
        pointer := .both 7 } }

end Sys2Proof.Machine
end

