-- ==== Sys2Proof/Machine/Share.lean ====
section
/-!
DEFINITION. The Share Calculator: the usable capacity (R71 to R73), the five steps of a computation (R74 to R79) and
what follows it (R81).
-/

namespace Sys2Proof.Machine

/-! ## The capacity of a link (R38, R39) -/

/-- The rate of a profile entry, 0 when it is invalid (R38: only entry 0 can be used while invalid). -/
def rateOf (ps : Vector Profile 16) (i : Fin 16) : Nat := if (tget ps i).valid then (tget ps i).rate else 0

/-- The entry used where a case names entry i: entry 0 in place of an invalid one (R38). -/
def usable (ps : Vector Profile 16) (i : Fin 16) : Fin 16 := if (tget ps i).valid then i else 0

/-- The profile in force for a link's capacity, and its source (R38). -/
def profileInForce (u : LinkUnit) (ps : Vector Profile 16) : Fin 16 × ProfileSource :=
  if u.stale then (0, .fallback)
  else
    let c := usable ps u.current
    match u.pending with
    | none => (c, .current)
    | some p =>
      let q := usable ps p
      if rateOf ps q < rateOf ps c then (q, .pending) else (c, .current)

/-- C_L, the rate of the profile in force (R38). -/
def capacityC (u : LinkUnit) (ps : Vector Profile 16) : Nat := rateOf ps (profileInForce u ps).1

/-- E_L, the effective capacity (R38); the overhead of an invalid entry 0 is used as 0. -/
def capacityE (u : LinkUnit) (ps : Vector Profile 16) : Nat :=
  let i := (profileInForce u ps).1
  let c := rateOf ps i
  let o := if (tget ps i).valid then (tget ps i).overhead else 0
  c - c * o / 1000

/-- The air delay in use (R39). -/
def airDelayOf (u : LinkUnit) (ps : Vector Profile 16) : Nat :=
  let i := usable ps u.current
  if (tget ps i).valid then (tget ps i).airDelay else 0

/-- E_L of a link as it stands (R38). -/
def State.el (s : State) (l : Link) : Nat := capacityE (s.link l) (s.cfg.profiles.get l)

/-- The air delay in use of a link as it stands (R39). -/
def State.airDelay (s : State) (l : Link) : Nat := airDelayOf (s.link l) (s.cfg.profiles.get l)

/-- A link is IN_SERVICE. -/
def State.inService (s : State) (l : Link) : Bool := decide ((s.link l).state = .inService)

/-! ## Usable capacity (R71 to R73) -/

/-- X_L (R72): the test rate, and the reflect allowance while a REFLECT entry is present. -/
def State.xl (s : State) (l : Link) : Nat :=
  s.share.testRate.get l +
    (if s.share.reflectPresent.get l then (s.cfg.links.get l).reflectAllowance else 0)

/-- A link's row of the allocation table (R79). -/
def allocLink (s : State) (l : Link) : AllocLink :=
  { inService := s.inService l, el := s.el l, testRate := s.share.testRate.get l
    reflectPresent := s.share.reflectPresent.get l, allowance := (s.cfg.links.get l).reflectAllowance, xl := s.xl l }

/-- G (R71). -/
def gOf (ls : PerLink AllocLink) : Nat :=
  (if ls.l0.inService then ls.l0.el else 0) + (if ls.l1.inService then ls.l1.el else 0)

/-- X (R72). -/
def xOf (ls : PerLink AllocLink) : Nat :=
  (if ls.l0.inService then ls.l0.xl else 0) + (if ls.l1.inService then ls.l1.xl else 0)

/-- U (R73). -/
def uOf (g tRes x : Nat) : Nat := g - (tRes + x)

/-! ## The water-fill (R76, R77) -/

/-- A tenant in a water-fill: in S or not, its weight, what it can still be granted (none for no limit), and what it
holds. -/
structure FillRow where
  inS : Bool
  weight : Nat
  limit : Option Nat
  held : Nat
deriving DecidableEq, Repr

/-- A limit is above 0. -/
def limitAbove0 : Option Nat → Bool
  | none => true
  | some n => decide (0 < n)

/-- A share is greater than a limit. -/
def overLimit (share : Nat) : Option Nat → Bool
  | none => false
  | some n => decide (n < share)

/-- The row granted n, which its limit allows. -/
def FillRow.grant (n : Nat) (r : FillRow) : FillRow :=
  { r with held := r.held + n, limit := r.limit.map fun x => x - n }

/-- W, the sum of the weights of S (R76). -/
def weightSum (rows : List FillRow) : Nat := (rows.map fun r => if r.inS then r.weight else 0).sum

/-- share_i (R76). -/
def shareOf (p w : Nat) (r : FillRow) : Nat := if r.inS then p * r.weight / w else 0

/-- What the rows of a round of the second kind are granted: their whole limit (R76). -/
def overGrant (p w : Nat) (r : FillRow) : Nat :=
  if r.inS && overLimit (shareOf p w r) r.limit then r.limit.getD 0 else 0

/-- One pass of the remainder over the tenants in ascending order (R77): what is left of p, and the rows. -/
def remainderPass : Nat → List FillRow → Nat × List FillRow
  | p, [] => (p, [])
  | p, r :: rs =>
    if 0 < p ∧ r.inS = true ∧ limitAbove0 r.limit = true then
      let (p', rs') := remainderPass (p - 1) rs
      (p', r.grant 1 :: rs')
    else
      let (p', rs') := remainderPass p rs
      (p', r :: rs')

/-- The remainder given out one kbit/s at a time until p is 0 or no tenant of S has a limit above 0 (R77). A pass that
gives nothing ends it, and a pass that gives something lowers p, so p passes are enough. -/
def remainder : Nat → Nat → List FillRow → Nat × List FillRow
  | 0, p, rows => (p, rows)
  | fuel + 1, p, rows =>
    let (p', rows') := remainderPass p rows
    if p' = p then (p, rows) else remainder fuel p' rows'

/-- The rounds of a water-fill (R76). Each round of the second kind takes a tenant out of S, so nine rounds are
enough for eight tenants. -/
def waterFill : Nat → Nat → List FillRow → Nat × List FillRow
  | 0, p, rows => (p, rows)
  | fuel + 1, p, rows =>
    if p = 0 || !rows.any (fun r => r.inS) then (p, rows)
    else
      let w := weightSum rows
      if rows.any (fun r => r.inS && overLimit (shareOf p w r) r.limit) then
        let granted := (rows.map (overGrant p w)).sum
        let rows' := rows.map fun r =>
          if r.inS && overLimit (shareOf p w r) r.limit then { r.grant (overGrant p w r) with inS := false } else r
        waterFill fuel (p - granted) rows'
      else
        let granted := (rows.map (shareOf p w)).sum
        let left := p - granted
        remainder left left (rows.map fun r => r.grant (shareOf p w r))

/-! ## The computation (R74 to R79) -/

/-- What a computation reads of one tenant (R74). -/
structure ShareInput where
  active : Bool
  share : Share
  demand : Nat
deriving DecidableEq, Repr

/-- A demand cut to the cap, where a cap of 0 is no cap (R74). -/
def capped (cap n : Nat) : Nat := if cap = 0 then n else min n cap

/-- G_i (R75). DESIGN CHOICE (log entry 41): 0 for an inactive tenant. -/
def guaranteeOf (u : Nat) (t : ShareInput) : Nat :=
  if t.active then capped t.share.cap (u * t.share.guarantee / 1000) else 0

/-- The tenant's row of the third step (R76): need_i is the limit. -/
def needRow (u : Nat) (t : ShareInput) : FillRow :=
  let g := guaranteeOf u t
  let need := capped t.share.cap t.demand - g
  { inS := t.active && decide (0 < need) && decide (0 < t.share.weight), weight := t.share.weight
    limit := some need, held := g }

/-- The tenant's row of the fourth step (R78): headroom_i is the limit. -/
def headroomRow (t : ShareInput) (held : Nat) : FillRow :=
  let room : Option Nat := if t.share.cap = 0 then none else some (t.share.cap - held)
  { inS := t.active && decide (0 < t.share.weight) && limitAbove0 room, weight := t.share.weight, limit := room, held }

/-- The third and fourth steps (R76, R78): the unassigned remainder, and each tenant's allocation. -/
def allocate (u : Nat) (ts : List ShareInput) : Nat × List Nat :=
  let p := u - (ts.map (guaranteeOf u)).sum
  let third := waterFill 9 p (ts.map (needRow u))
  let fourth := waterFill 9 third.1 (List.zipWith (fun t r => headroomRow t r.held) ts third.2)
  (fourth.1, fourth.2.map fun r => r.held)

/-- What the computation reads of a tenant (R74). -/
def shareInput (s : State) (i : Tenant) : ShareInput :=
  { active := (s.tenantCfg i).active, share := tget (tget s.cfg.sets s.cfg.activeSet) i
    demand := (s.tenant i).demand }

/-- The table that a computation made now publishes (R79). -/
def computeTable (s : State) : AllocTable :=
  let links : PerLink AllocLink := ⟨allocLink s .l0, allocLink s .l1⟩
  let g := gOf links
  let x := xOf links
  let u := uOf g s.cfg.params.tRes x
  let res := allocate u ((List.finRange 8).map (shareInput s))
  { u, g, tRes := s.cfg.params.tRes, x, links, activeSet := s.cfg.activeSet
    tenants := Vector.ofFn fun i =>
      { active := (s.tenantCfg i).active, demand := (s.tenant i).demand, guarantee := guaranteeOf u (shareInput s i)
        allocation := res.2.getD i.val 0 }
    unassigned := res.1, computedAt := some s.nowNs, computations := s.share.table.computations + 1 }

/-- The table published: it replaces the table, each A_i goes to the tenant's record, and the rates go to the buckets
(R79). -/
def publish (t : AllocTable) (s : State) : State :=
  let s1 :=
    { s with
      share := { s.share with table := t }
      tenants := Vector.ofFn fun i => { s.tenant i with allocation := (tget t.tenants i).allocation } }
  setShareRates t.tenants t.tRes s1

/-- A computation (R74 to R79); CAPACITY_CHANGED latches when U differs from the U of the computation before (R81). -/
def recompute (s : State) : State :=
  let t := computeTable s
  let s1 := publish t s
  if t.u = s.share.table.u then s1 else raise .capacityChanged none s1

/-- The Qualification Engine reports a link's test rate (R72, R148): a rate already held changes nothing, and a change
recomputes while the link is IN_SERVICE. -/
def reportTestRate (l : Link) (r : Nat) (s : State) : State :=
  if s.share.testRate.get l = r then s
  else
    let s1 := { s with share := { s.share with testRate := s.share.testRate.set l r } }
    if s.inService l then recompute s1 else s1

/-- The Flow Table reports whether a link has a REFLECT entry (R31, R72). DESIGN CHOICE (log entry 25): the report of an
IN_SERVICE link recomputes also where the allowance is 0 and X_L does not change. -/
def reportReflect (l : Link) (present : Bool) (s : State) : State :=
  if s.share.reflectPresent.get l = present then s
  else
    let s1 := { s with share := { s.share with reflectPresent := s.share.reflectPresent.set l present } }
    if s.inService l then recompute s1 else s1

/-- The demand of a byte count over a window (R69). -/
def demandOf (bytes windowMs : Nat) : Nat := bytes * 8 / windowMs

/-- A demand window starts now with the length held (R69, R70). -/
def startWindow (s : State) : State :=
  { s with
    share := { s.share with window := some { lengthMs := s.cfg.params.windowMs
                                             ends := afterMs s.now s.cfg.params.windowMs } } }

/-- The share-sum law for one set (R65): the guarantees of the active tenants sum to at most 1,000 per mille. -/
def guaranteeSum (tenants : Vector TenantConfig 8) (set : ShareSet) : Nat :=
  ((List.finRange 8).map fun i => if (tget tenants i).active then (tget set i).guarantee else 0).sum

/-- The share-sum law (R65). -/
def shareLaw (tenants : Vector TenantConfig 8) (sets : Vector ShareSet 4) : Bool :=
  (List.finRange 4).all fun k => decide (guaranteeSum tenants (tget sets k) ≤ 1000)

end Sys2Proof.Machine
end

