-- ==== Sys2Proof/Machine/Flows.lean ====
section
/-!
DEFINITION. The Flow Table: slots, keys, lookup, hits, placing and removing entries (R21 to R33).
-/

namespace Sys2Proof.Machine

/-- The entry of a slot. -/
def slotEntry (slot : Nat) (t : List (Nat × FlowEntry)) : Option FlowEntry := (t.find? fun x => x.1 == slot).map (·.2)

/-- The slot and entry that hold a key (R22). -/
def findKey (k : FlowKey) (t : List (Nat × FlowEntry)) : Option (Nat × FlowEntry) := t.find? fun x => x.2.spec.key == k

/-- The lowest slot from n on that a table in ascending order leaves free (R21). -/
def lowestFreeFrom : Nat → List (Nat × FlowEntry) → Nat
  | n, [] => n
  | n, x :: rest => if x.1 = n then lowestFreeFrom (n + 1) rest else n

/-- The lowest-numbered free slot of the 1,024, or none (R21). -/
def lowestFree (t : List (Nat × FlowEntry)) : Option Nat :=
  let n := lowestFreeFrom 0 t
  if n < 1024 then some n else none

/-- An entry placed in a free slot, the order kept. -/
def placeEntry (slot : Nat) (e : FlowEntry) : List (Nat × FlowEntry) → List (Nat × FlowEntry)
  | [] => [(slot, e)]
  | x :: rest => if slot < x.1 then (slot, e) :: x :: rest else x :: placeEntry slot e rest

/-- The entry of a slot changed. -/
def updateSlot (slot : Nat) (f : FlowEntry → FlowEntry) (t : List (Nat × FlowEntry)) : List (Nat × FlowEntry) :=
  t.map fun x => if x.1 = slot then (x.1, f x.2) else x

/-- A slot made free. -/
def freeSlot (slot : Nat) (t : List (Nat × FlowEntry)) : List (Nat × FlowEntry) := t.filter fun x => x.1 != slot

/-- A new entry: counts 0, times and links NONE (R21). -/
def newEntry (spec : FlowSpec) (owner : Owner) : FlowEntry :=
  { spec, owner, hits := 0, lastHit := none, lastLink := none }

/-- An entry after a lookup has matched it (R28). -/
def FlowEntry.hit (t : Ns) (e : FlowEntry) : FlowEntry := { e with hits := e.hits + 1, lastHit := some t }

/-- An entry keeps a last link: TIMING, from an access port or SP (R23). -/
def FlowEntry.hasLastLink (e : FlowEntry) : Bool :=
  decide (e.spec.action = .timing) && !decide (roleOf e.spec.key.port = .backhaul)

/-- The number of REFLECT entries of a link (R31). -/
def reflectCount (l : Link) (t : List (Nat × FlowEntry)) : Nat :=
  (t.filter fun x => decide (x.2.spec.action = .reflect) && decide (x.2.spec.key.port = .bh l)).length

/-- The table reports for each link whether it now has a REFLECT entry (R31). DESIGN CHOICE (log entry 35): L0 before L1. -/
def reportReflects (s : State) : State :=
  let s1 := reportReflect .l0 (decide (0 < reflectCount .l0 s.flows)) s
  reportReflect .l1 (decide (0 < reflectCount .l1 s1.flows)) s1

/-- The table with new contents, its REFLECT counts reported within the same event (R31). -/
def setFlows (t : List (Nat × FlowEntry)) (s : State) : State := reportReflects { s with flows := t }

/-- A frame's lookup (R8, R28): the matching slot and entry as they stood, and the hit recorded at the moment the
frame's reception ended. -/
def lookup (k : FlowKey) (s : State) : Option (Nat × FlowEntry) × State :=
  match findKey k s.flows with
  | none => (none, s)
  | some (slot, e) => (some (slot, e), { s with flows := updateSlot slot (FlowEntry.hit s.nowNs) s.flows })

/-- What the table answers to the Qualification Engine's request for a TEST_RETURN entry (R30). -/
inductive InstallResult where
  | keyInUse
  | tableFull
  | installed (slot : Nat)
deriving DecidableEq, Repr

/-- The TEST_RETURN entry of a key (R30). -/
def testEntry (k : FlowKey) : FlowEntry :=
  newEntry { key := k, action := .testReturn, tenant := none, egress := none, pref := none, offset := none } .test

/-- The installation of a TEST_RETURN entry (R30). -/
def installTest (k : FlowKey) (s : State) : InstallResult × State :=
  match findKey k s.flows with
  | some _ => (.keyInUse, s)
  | none =>
    match lowestFree s.flows with
    | none => (.tableFull, s)
    | some n => (.installed n, { s with flows := placeEntry n (testEntry k) s.flows })

/-- The removal of a TEST entry (R30): a slot that holds none leaves the table unchanged. -/
def removeTest (slot : Option Nat) (s : State) : State :=
  match slot with
  | none => s
  | some n => { s with flows := s.flows.filter fun x => !(x.1 == n && decide (x.2.owner = .test)) }

/-- The flow part of a slot body: the MANAGEMENT entries as a writer gave them (R32). -/
def managementFlows (t : List (Nat × FlowEntry)) : List (Nat × FlowSpec) :=
  (t.filter fun x => decide (x.2.owner = .management)).map fun x => (x.1, x.2.spec)

/-- The table that a load leaves: the stored entries in their slots, and every other slot free (R33). -/
def loadedFlows (t : List (Nat × FlowSpec)) : List (Nat × FlowEntry) := t.map fun x => (x.1, newEntry x.2 .management)

end Sys2Proof.Machine
end

