-- ==== Sys2Proof/Machine/Links.lean ====
section
/-!
DEFINITION. Aborting a run (R152), Link Control's report (R40), and the entries into the states of a link (R54). The
Qualification Engine's starts and verdicts, and the link state machine that calls them, stand in Machine/Qualify.lean.
-/

namespace Sys2Proof.Machine

/-- A run is under way (R141). -/
def Context.underWay (c : Context) : Bool := decide (c.state = .settle ∨ c.state = .measure ∨ c.state = .recover)

/-- A context whose run has ended in a state with a cause (R151, R152). DESIGN CHOICE (log entry 43): its generator and
its step copy are NONE with the current step. -/
def Context.ended (st : RunState) (cause : Cause) (c : Context) : Context :=
  { c with state := st, cause, current := none, step := none, phaseEnd := none, gen := .none, slot := none, testKey := none }

/-- The counts of the current step discarded (R152), and its measure range with them (DEDUCED, log entry 36). -/
def Context.dropCounts (c : Context) : Context :=
  { c with range := none, sent := 0, returned := 0, minRt := none, maxRt := none, sumRt := 0 }

/-- A run under way on a link is aborted with a cause (R152); a request that finds no run changes nothing. -/
def abortRun (l : Link) (cause : Cause) (s : State) : State :=
  let c := s.ctx l
  if c.underWay then
    let s1 := s.setCtx l (c.ended .aborted cause).dropCounts
    reportTestRate l 0 (removeTest c.slot s1)
  else s

/-- The running LOAD step of an in-service run is compared with E_L (R148): an E_L below its rate aborts the run. -/
def capacityCheck (l : Link) (s : State) : State :=
  let c := s.ctx l
  match c.step with
  | some r =>
    if c.inService && decide (c.state = .settle ∨ c.state = .measure) && decide (r.kind = .load)
        && decide (s.el l < r.rate) then
      abortRun l .capacity s
    else s
  | none => s

/-- Link Control's report (R40) of a link whose E_L was el0 and which was IN_SERVICE or not (svc0) before: a changed
E_L goes to the pacing bucket (R86), a change of either recomputes (R81), and the new E_L of an IN_SERVICE link goes to
the Qualification Engine (R148). DESIGN CHOICE (log entry 40): the computation comes before the engine's comparison. -/
def reportLink (l : Link) (el0 : Nat) (svc0 : Bool) (s : State) : State :=
  if s.el l = el0 ∧ s.inService l = svc0 then s
  else
    let s1 := if s.el l = el0 then s else setRate (.pacing l) (s.el l) s
    let s2 := recompute s1
    if s2.el l ≠ el0 ∧ s2.inService l = true then capacityCheck l s2 else s2

/-- A change of a link's record or profiles, reported when it changes E_L or the in-service state (R40). -/
def withReport (l : Link) (f : State → State) (s : State) : State := reportLink l (s.el l) (s.inService l) (f s)

/-- A link's record changed. -/
def updLink (l : Link) (f : LinkUnit → LinkUnit) (s : State) : State := s.setLink l (f (s.link l))

/-- The supervision timer started if it was not running (R47, R54). -/
def startSupervision (l : Link) (s : State) : State :=
  updLink l (fun u =>
    { u with supTimer := match u.supTimer with
                         | some t => some t
                         | none => some (afterMs s.now (s.cfg.links.get l).supervision) }) s

/-- Entry into IN_SERVICE (R54); the bar cause is NONE outside BARRED (R53). -/
def enterInService (l : Link) (s : State) : State :=
  withReport l (fun s =>
    let s1 := updLink l (fun u => { u with state := .inService, admitted := true, barCause := .none, holdTimer := none }) s
    raise (.linkAdmitted l) none (kickBackhaul (startSupervision l s1))) s

/-- Entry into BARRED with a bar cause (R53, R54). -/
def enterBarred (l : Link) (cause : Cause) (s : State) : State :=
  withReport l (fun s =>
    let s1 := updLink l (fun u => { u with state := .barred, barCause := cause, supTimer := none }) s
    raise (.linkBarred l) none (kickBackhaul s1)) s

/-- Entry into DOWN (R54), without its report. -/
def enterDown (l : Link) (s : State) : State :=
  let s1 := updLink l (fun u => { u with state := .down, stale := false, supTimer := none, holdTimer := none }) s
  raise (.linkDown l) none (kickBackhaul s1)

/-- Entry into QUALIFYING (R54), before the run is requested. -/
def enterQualifying (l : Link) (s : State) : State :=
  let s1 := updLink l (fun u => { u with state := .qualifying, barCause := .none }) s
  kickBackhaul (startSupervision l s1)

/-- The fade of an IN_SERVICE link (R51), without its report: the fades counter, the timers and LINK_FADED. -/
def enterFaded (l : Link) (s : State) : State :=
  let s1 := updLink l (fun u =>
    { u with
      state := .faded, supTimer := none, holdTimer := some (afterMs s.now (s.cfg.links.get l).holdOff)
      counters := { u.counters with fades := u.counters.fades + 1 } }) s
  raise (.linkFaded l) none (kickBackhaul s1)

/-- Whether the entry that an index names is invalid (R46). -/
def State.unknownProfile (s : State) (l : Link) (i : Fin 16) : Bool := !(tget (s.cfg.profiles.get l) i).valid

end Sys2Proof.Machine
end

