-- ==== Sys2Proof/Machine/Qualify.lean ====
section
/-!
DEFINITION. The Qualification Engine: programmes, starts, phases, verdicts and outcomes (R139 to R151).
-/

namespace Sys2Proof.Machine

/-- The last step of the programme that begins at an index: the first record from it on with END set (R140). -/
def programmeLast (steps : Vector StepRecord 32) (first : Fin 32) : Option (Fin 32) :=
  (List.finRange 32).find? fun i => decide (first ≤ i) && (tget steps i).last

/-- The test rate of a step in SETTLE or MEASURE (R72, R148). -/
def stepRate (r : StepRecord) : Nat :=
  match r.kind with
  | .load => r.rate
  | .probe => r.length * 8 / r.interval
  | .wait => 0

/-- The generator at the start of SETTLE (R146): a LOAD step starts with a credit of one frame, a PROBE step's first
frame falls due at once. -/
def startGenerator (r : StepRecord) (now : Instant) : Generator :=
  match r.kind with
  | .load => .load (r.length * 8) 0 now
  | .probe => .probe now
  | .wait => .none

/-- A step begins (R145, R148): the record is copied, the counts start anew, and SETTLE runs. DESIGN CHOICE (log entry
40): the step's rate is reported before E_L is compared with it. -/
def stepStart (l : Link) (i : Fin 32) (s : State) : State :=
  let r := tget s.cfg.steps i
  let c := { (s.ctx l).dropCounts with
    state := .settle, current := some i, step := some r, phaseEnd := some (afterMs s.now r.settle)
    gen := startGenerator r s.now, nextSeq := 0 }
  capacityCheck l (reportTestRate l (stepRate r) (s.setCtx l c))

/-- RECOVER begins at the end e of the phase before it: nothing is generated, and the test rate is 0 (R145, R148).
DESIGN CHOICE (log entry 43): the generator is NONE. -/
def toRecover (l : Link) (e : Instant) (r : StepRecord) (s : State) : State :=
  reportTestRate l 0 (s.setCtx l { s.ctx l with state := .recover, phaseEnd := some (afterMs e r.recover), gen := .none })

/-- A limit in µs on a measured value in ns: 0 is unchecked, and a set limit fails on no value (R150). -/
def withinLimit (limitUs : Nat) : Option Nat → Bool
  | none => decide (limitUs = 0)
  | some v => decide (limitUs = 0) || decide (v ≤ limitUs * 1000)

/-- The loss of a step in ppm (R150). -/
def lossOf (sent returned : Nat) : Nat := if sent = 0 then 1000000 else (sent - returned) * 1000000 / sent

/-- The variation: maximum less minimum (R150). -/
def variationOf (c : Context) : Option Nat :=
  match c.minRt, c.maxRt with
  | some lo, some hi => some (hi - lo)
  | _, _ => none

/-- The judgement of a step (R150). -/
def judge (l : Link) (c : Context) (r : StepRecord) (t : Ns) : StepResult :=
  match r.kind with
  | .wait =>
    { link := l, runNo := c.runNo, kind := .wait, sent := 0, returned := 0, excess := 0, loss := 0, minRt := none
      meanRt := none, maxRt := none, pass := true, writtenAt := t }
  | k =>
    let sent := c.sent.toNat
    let ret := c.returned.toNat
    let loss := lossOf sent ret
    { link := l, runNo := c.runNo, kind := k, sent := c.sent, returned := c.returned, excess := ret - sent, loss
      minRt := c.minRt, meanRt := if ret = 0 then none else some (c.sumRt.toNat / ret), maxRt := c.maxRt
      pass := decide (0 < sent) && decide (loss ≤ r.maxLoss) && withinLimit r.maxRoundTrip c.maxRt
                && withinLimit r.maxVariation (variationOf c)
      writtenAt := t }

/-- A run ends PASSED or FAILED, and its outcome is taken (R50, R151). -/
def endRun (l : Link) (passed : Bool) (s : State) : State :=
  let c := s.ctx l
  let s1 := s.setCtx l (if passed then c.ended .passed c.cause else c.ended .failed .stepFailed)
  let s2 := raise (.qualifyDone l) none (reportTestRate l 0 (removeTest c.slot s1))
  if c.inService then
    if passed then s2 else raise (.retestFailed l) none s2
  else if (s2.link l).state = .qualifying then
    if passed then enterInService l s2 else enterBarred l .stepFailed s2
  else s2

/-- The verdict at the end of RECOVER, and what follows it (R150). -/
def verdict (l : Link) (i : Fin 32) (r : StepRecord) (s : State) : State :=
  let c := s.ctx l
  let res := judge l c r s.nowNs
  let s1 := { s with qual := { s.qual with results := tset s.qual.results i (some res) } }
  if res.pass then
    if c.last = some i then endRun l true s1 else stepStart l (i + 1) s1
  else endRun l false s1

/-- The end e of the phase under way (R145). -/
def nextPhase (l : Link) (e : Instant) (r : StepRecord) (i : Fin 32) (s : State) : State :=
  match (s.ctx l).state with
  | .settle =>
    if r.kind = .wait then toRecover l e r s
    else s.setCtx l { s.ctx l with state := .measure, phaseEnd := some (afterMs e r.measure) }
  | .measure => toRecover l e r s
  | .recover => verdict l i r s
  | _ => s

/-- Phases end while their end is reached: a phase of 0 ms ends at its own start, within the same event (R145). A
programme has at most 32 steps of three phases, so a hundred rounds are enough. -/
def runPhases : Nat → Link → State → State
  | 0, _, s => s
  | fuel + 1, l, s =>
    let c := s.ctx l
    match c.phaseEnd, c.step, c.current with
    | some e, some r, some i =>
      if c.underWay && reached s.now e then runPhases fuel l (nextPhase l e r i s) else s
    | _, _, _ => s

/-- The phases that have ended by now end (R145). -/
def endPhases (l : Link) (s : State) : State := runPhases 100 l s

/-- The end of the phase under way is reached. -/
def phaseDue (l : Link) (s : State) : Bool :=
  let c := s.ctx l
  match c.phaseEnd, c.step, c.current with
  | some e, some _, some _ => c.underWay && reached s.now e
  | _, _, _ => false

/-- The result records of a range emptied (R142). -/
def emptyResults (first last : Fin 32) (v : Vector (Option StepResult) 32) : Vector (Option StepResult) 32 :=
  Vector.ofFn fun i => if first ≤ i ∧ i ≤ last then none else tget v i

/-- A refused start (R143). -/
def refuseStart (l : Link) (cause : Cause) (s : State) : State :=
  let s1 := s.setCtx l ((s.ctx l).ended .failed cause)
  if s1.inService l then raise (.retestFailed l) none s1
  else if (s1.link l).state = .qualifying then enterBarred l cause s1
  else s1

/-- A start requested by Link Control (R143, R144). -/
def startRun (l : Link) (s : State) : State :=
  let c := s.ctx l
  let s1 := s.setCtx l { c with runNo := c.runNo + 1, inService := s.inService l }
  let cfg := s1.cfg.links.get l
  match cfg.startIndex with
  | none => refuseStart l .programmeInvalid s1
  | some first =>
    match programmeLast s1.cfg.steps first with
    | none => refuseStart l .programmeInvalid s1
    | some last =>
      let key : FlowKey := { port := .bh l, vlan := some cfg.testVlan }
      match installTest key s1 with
      | (.keyInUse, s2) => refuseStart l .keyInUse s2
      | (.tableFull, s2) => refuseStart l .tableFull s2
      | (.installed n, s2) =>
        let s3 := { s2 with qual := { s2.qual with results := emptyResults first last s2.qual.results } }
        let c3 := { s3.ctx l with slot := some n, testKey := some key, first := some first, last := some last, cause := .none }
        endPhases l (stepStart l first (s3.setCtx l c3))

/-! ## Generation (R146, R147) -/

/-- One bit in the unit of a LOAD generator's residue: 1,000,000 ns at 1 kbit/s, in units of 2^-16 ns. -/
def loadUnit : Nat := 1000000 * 65536

/-- The credit of a LOAD generator brought up to date, capped at one frame (R84, R146): credit and residue. Between two
units of the counter less than a bit is added, so a frame falls due with the residue carrying the fraction exactly. -/
def loadCredit (r : StepRecord) (credit residue : Nat) (last now : Instant) : Nat × Nat :=
  let sum := r.rate * (now - last).toNat + residue
  (min (credit + sum / loadUnit) (r.length * 8), sum % loadUnit)

/-- A frame is due now, and the generator once its due time is spent (R146). -/
def generatorDue (r : StepRecord) (g : Generator) (now : Instant) : Option Generator :=
  match g with
  | .none => none
  | .load credit residue last =>
    let (c, res) := loadCredit r credit residue last now
    if r.length * 8 ≤ c then some (.load (c - r.length * 8) res now) else none
  | .probe next => if reached now next then some (.probe (afterMs next r.interval)) else none

/-- The type value of the device's own frames. -/
def ownType : List Byte := [0x88#8, 0xB5#8]

/-- A VLAN tag with the priority bits at 0. -/
def tagBytes (tci : BitVec 16) : List Byte := [0x81#8, 0x00#8] ++ natToBytes 2 tci.toNat

/-- A generated test frame before its departure (R147, 12.3): the stamps and the FCS are written later. -/
def testFrameBytes (s : State) (c : Context) (r : StepRecord) (i : Fin 32) : List Byte :=
  let vlan := (c.testKey.bind fun k => k.vlan).getD 0
  let front := natToBytes 6 s.store.runAddr.toNat ++ natToBytes 6 s.store.runAddr.toNat ++ tagBytes (BitVec.ofNat 16 vlan)
    ++ ownType ++ [0x04#8, c.runNo, BitVec.ofNat 8 i.val, 0#8] ++ natToBytes 4 c.nextSeq.toNat
  front ++ List.replicate (r.length - front.length) 0#8

/-- A frame offered to a link's test queue (R13): whether it is accepted. -/
def offerTest (l : Link) (d : Descriptor) (s : State) : Bool × State :=
  let q := s.queues.test.get l
  if fits s q 128 d.length then
    let s1 := takeCells d.length { s with queues := { s.queues with test := s.queues.test.set l (q ++ [withCells s d]) } }
    (true, kick (.bh l) s1)
  else (false, s)

/-- The measure range with one more sequence (R146). -/
def extendRange (seq : BitVec 32) : Option (BitVec 32 × BitVec 32) → Option (BitVec 32 × BitVec 32)
  | none => some (seq, seq)
  | some (first, _) => some (first, seq)

/-- The context after a test frame has been accepted (R146). -/
def Context.generated (c : Context) : Context :=
  if c.state = .measure then
    { c with nextSeq := c.nextSeq + 1, sent := c.sent + 1, range := extendRange c.nextSeq c.range }
  else { c with nextSeq := c.nextSeq + 1 }

/-- The descriptor of a generated test frame (R11, R147). -/
def testDescriptor (l : Link) (bytes : List Byte) : Descriptor :=
  { cls := .test, cells := [], length := bytes.length, arrival := 0, tenant := none, pref := none, link := some l
    slot := none, offset := none, ingress := none, airDelay := none, frame := bytes }

/-- A frame that falls due is built and offered (R146). A phase end of the same moment comes first. -/
def generateTest (l : Link) (s0 : State) : State :=
  let s := endPhases l s0
  let c := s.ctx l
  match c.step, c.current with
  | some r, some i =>
    if decide (c.state = .settle ∨ c.state = .measure) then
      match generatorDue r c.gen s.now with
      | none => s
      | some g =>
        let s1 := s.setCtx l { c with gen := g }
        match offerTest l (testDescriptor l (testFrameBytes s c r i)) s1 with
        | (true, s2) => s2.setCtx l (s2.ctx l).generated
        | (false, s2) => s2
    else s
  | _, _ => s

/-- A test frame is due (R146). -/
def testFrameIsDue (l : Link) (s : State) : Bool :=
  let c := s.ctx l
  match c.step with
  | some r => decide (c.state = .settle ∨ c.state = .measure) && (generatorDue r c.gen s.now).isSome
  | none => false

/-! ## Returns (R149) -/

/-- The payload of a frame: what follows its type value, the one tag it may carry passed over (12). -/
def payloadOffset (bytes : List Byte) : Nat := if slice 12 2 bytes = [0x81#8, 0x00#8] then 18 else 14

/-- The payload of a frame, up to the FCS. -/
def payload (bytes : List Byte) : List Byte := (bytes.take (bytes.length - 4)).drop (payloadOffset bytes)

/-- A byte of a payload, 0 past its end. -/
def pbyte (p : List Byte) (i : Nat) : Byte := p.getD i 0#8

/-- The round trip of a return in ns: a result below 0 is taken as 0 (R149). -/
def roundTrip (ingress : Ns) (p : List Byte) : Nat :=
  let at8 (off : Nat) : Int := (bytesToNat (slice off 8 p) : Nat)
  (((ingress.toNat : Int) - at8 8) - (at8 24 - at8 16)).toNat

/-- The context after a counted return (R149). -/
def Context.counted (rt : Nat) (c : Context) : Context :=
  { c with
    returned := c.returned + 1
    minRt := some (match c.minRt with | none => rt | some m => min m rt)
    maxRt := some (match c.maxRt with | none => rt | some m => max m rt)
    sumRt := c.sumRt + BitVec.ofNat 64 rt }

/-- A return is counted (R149): its run number, step index and sequence are those of the run under way. -/
def returnCounts (c : Context) (p : List Byte) : Bool :=
  let seq := bytesToNat (slice 4 4 p)
  c.underWay && pbyte p 1 == c.runNo && decide (c.current.map (fun i => i.val) = some (pbyte p 2).toNat) &&
    (match c.range with
     | some (a, b) => decide (a.toNat ≤ seq ∧ seq ≤ b.toNat)
     | none => false)

/-- A return handed to the engine of its arrival link, with its ingress stamp (R149). -/
def takeReturn (l : Link) (bytes : List Byte) (ingress : Instant) (s : State) : State :=
  let p := payload bytes
  let c := s.ctx l
  if returnCounts c p then s.setCtx l (c.counted (roundTrip (wholeNs ingress) p)) else s

end Sys2Proof.Machine
end

