-- ==== Sys2Proof/Machine/Frames.lean ====
section
/-!
DEFINITION. The codes of chapter 12 and the bytes of the frames that the device builds: responses (12.1, R178), latch
records and notices (12.4).
-/

namespace Sys2Proof.Machine

/-! ## Codes (12.5) -/

def codeBool (b : Bool) : Nat := if b then 1 else 0

def codeStatus : Status → Nat
  | .ok => 0
  | .accepted => 1
  | .notFound => 2
  | .tableFull => 3
  | .invalidValue => 4
  | .duplicate => 5
  | .shareExceeded => 6
  | .busy => 7
  | .notPermitted => 8
  | .notErased => 9
  | .invalidSlot => 10
  | .fault => 11

def codeLinkState : LinkState → Nat
  | .down => 0
  | .qualifying => 1
  | .inService => 2
  | .faded => 3
  | .barred => 4

def codeServo : ServoState → Nat
  | .freeRun => 0
  | .acquiring => 1
  | .locked => 2
  | .holdover => 3

def codeRun : RunState → Nat
  | .idle => 0
  | .settle => 1
  | .measure => 2
  | .recover => 3
  | .passed => 4
  | .failed => 5
  | .aborted => 6

def codeCause : Cause → Nat
  | .none => 0
  | .stepFailed => 1
  | .carrier => 2
  | .noticeLost => 3
  | .stopped => 4
  | .tableFull => 5
  | .keyInUse => 6
  | .programmeInvalid => 7
  | .capacity => 8
  | .restart => 9

def codeAction : FlowAction → Nat
  | .forward => 1
  | .timing => 2
  | .reflect => 3
  | .discard => 4
  | .testReturn => 5

def codePref : Pref → Nat
  | .any => 0
  | .preferL0 => 1
  | .preferL1 => 2

def codeOwner : Owner → Nat
  | .management => 0
  | .test => 1

def codeStep : StepKind → Nat
  | .load => 1
  | .probe => 2
  | .wait => 3

def codeSquelch : Squelch → Nat
  | .always => 0
  | .lockedOrHoldover => 1

/-! ## Codes that 12.5 does not give (the model's choice; see the assumption log) -/

def codeRole : Role → Nat
  | .access => 0
  | .site => 1
  | .backhaul => 2

def codeSource : ProfileSource → Nat
  | .current => 0
  | .pending => 1
  | .fallback => 2

def codeReport : Report → Nat
  | .erased => 0
  | .valid => 1
  | .invalid => 2

def codePhase : StorePhase → Nat
  | .erase => 0
  | .program => 1
  | .recovery => 2

def codeStoreOp : StoreOpName → Nat
  | .eraseSlot => 0
  | .saveSlot => 1
  | .invalidateSlot => 2
  | .eraseInfo => 3
  | .writeInfo => 4

def codeStart : StartState → Nat
  | .reset => 0
  | .checking => 1
  | .loading => 2
  | .running => 3
  | .fault => 4

/-! ## Fields and bodies (R178) -/

/-- The bytes a number needs, at least one. -/
def bytesNeeded (n : Nat) : Nat := max 1 ((Nat.log2 n + 8) / 8)

/-- The width of a response number: the device's own choice, no less than the number needs and at most eight. -/
def numWidth (code id n : Nat) : Nat := max (bytesNeeded n) (min 8 (Config.fieldWidth code id))

/-- The width of a signed response number. -/
def intWidth (code id : Nat) (i : Int) : Nat :=
  max (bytesNeeded (2 * i.natAbs)) (min 8 (Config.fieldWidth code id))

/-- The bytes of a field's value; NONE is a field of length 0. -/
def valBytes (code id : Nat) : Val → List Byte
  | .num n => natToBytes (numWidth code id n) n
  | .int i => intToBytes (intWidth code id i) i
  | .enum n => natToBytes 1 n
  | .bytes b => b
  | .none => []

/-- An elapsed time of a latch record: NONE as all ones (12.4). -/
def latchTime : Option Ns → List Byte
  | none => List.replicate 8 0xFF#8
  | some t => natToBytes 8 t.toNat

/-- The 24 bytes of a latch record (12.4). -/
def latchBytes (r : LatchRecord) : List Byte :=
  natToBytes 1 (r.cond.kind.val + 1) ++ natToBytes 1 r.cond.qualifier ++ natToBytes 1 r.level ++ [0#8]
    ++ natToBytes 2 r.latch.occurrences ++ latchTime r.latch.first ++ latchTime r.latch.last
    ++ natToBytes 2 (r.latch.detail.getD 0)

/-- The bytes of one part of a response body. DESIGN CHOICE (log entry 21): latch records stand outside any field, a byte
with their number before them, as in a notice frame (12.4). -/
def itemBytes (code : Nat) : Item → List Byte
  | .field id v =>
    let b := valBytes code id v
    [BitVec.ofNat 8 id, BitVec.ofNat 8 b.length] ++ b
  | .latches rs => natToBytes 1 rs.length ++ (rs.map latchBytes).flatten

/-! ## Frames -/

/-- A frame closed: zeros up to the shortest frame, and the FCS (12, R126). -/
def closeFrame (front : List Byte) : List Byte :=
  let body := front ++ List.replicate (60 - front.length) 0#8
  body ++ fcsBytes (crc32 body)

/-- A response frame (12.1). -/
def responseBytes (r : Response) : List Byte :=
  let body := (r.body.map (itemBytes r.code.toNat)).flatten
  let tag := match r.vlanTag with
    | none => []
    | some t => tagBytes t
  closeFrame (natToBytes 6 r.dst.toNat ++ natToBytes 6 r.src.toNat ++ tag ++ ownType
    ++ [0x02#8, r.kind] ++ natToBytes 2 r.tag.toNat ++ natToBytes 2 r.code.toNat ++ [r.sel.kind]
    ++ natToBytes 6 r.sel.value.toNat ++ natToBytes 1 (codeStatus r.status) ++ natToBytes 2 body.length ++ body)

/-- A link's five bytes of a notice (12.4). -/
def summaryBytes (x : LinkSummary) : List Byte :=
  natToBytes 1 (codeLinkState x.state) ++ natToBytes 1 x.current.val ++ natToBytes 1 (codeBool x.stale)
    ++ (match x.level with
        | none => [0#8, 0#8]
        | some v => [1#8, v])

/-- A notice frame, untagged (12.4). -/
def noticeBytes (n : Notice) : List Byte :=
  let site := match n.site with
    | none => natToBytes 11 0
    | some (sec, ns) => [1#8] ++ natToBytes 6 sec ++ natToBytes 4 ns
  closeFrame (natToBytes 6 n.dst.toNat ++ natToBytes 6 n.src.toNat ++ ownType ++ [0x05#8] ++ n.label ++ site
    ++ natToBytes 8 n.elapsed.toNat ++ summaryBytes n.links.l0 ++ summaryBytes n.links.l1 ++ natToBytes 4 n.u
    ++ natToBytes 1 n.latches.length ++ (n.latches.map latchBytes).flatten)

/-- The bytes of a frame of a local queue. -/
def localBytes : LocalFrame → List Byte
  | .response r => responseBytes r
  | .notice n => noticeBytes n

end Sys2Proof.Machine
end

