-- ==== Sys2Proof/Machine/Departure.lean ====
section
/-!
DEFINITION. Departures: the Correction Unit (R119 to R127), the transmitters of the access ports and SP (R18), the
arbiters of the backhaul ports (R90 to R100), the ends of transmissions, and the end of an event.
-/

namespace Sys2Proof.Machine

/-! ## The Correction Unit -/

/-- The residence of a timing frame in units of 2^-16 ns, modulo 2^80 (R121). -/
def residence (egress ingress : Instant) : Nat := (egress - ingress).toNat

/-- The correction field lies before the FCS (R123). -/
def fieldInside (offset length : Nat) : Bool := decide (offset + 8 ≤ length - 4)

/-- The greatest value of a correction field. -/
def maxCorrection : Int := 2 ^ 63 - 1

/-- The exact sum of R124: the old value plus residence and hop, in units of 2^-16 ns. -/
def exactCorrection (old : Int) (res hop : Nat) : Int := old + ((res + hop * 65536 : Nat) : Int)

/-- The rewritten correction field: the exact sum, or the greatest value where the sum exceeds it (R124, R125). -/
def newCorrection (old : Int) (res hop : Nat) : Int := min (exactCorrection old res hop) maxCorrection

/-- A frame with its correction field rewritten and its FCS computed afresh (R124, R126). -/
def rewritten (bytes : List Byte) (offset res hop : Nat) : List Byte :=
  withFcs (patch offset (intToBytes 8 (newCorrection (bytesToInt64 (slice offset 8 bytes)) res hop)) bytes)

/-- The rewrite of a timing frame at the start of its transmission on a port (R123 to R126). -/
def correct (p : Port) (d : Descriptor) (hop : Nat) (s : State) : List Byte × State :=
  let off := d.offset.getD 0
  if fieldInside off d.length then
    let res := residence s.now (d.ingress.getD 0)
    let old := bytesToInt64 (slice off 8 d.frame)
    let s1 := if exactCorrection old res hop > maxCorrection then raise .correctionSaturated none s else s
    (rewritten d.frame off res hop, s1)
  else (d.frame, count p .correctionOffsetErrors 1 s)

/-- The last link of an upstream timing frame's slot compared and updated (R29, R127). -/
def updateLastLink (l : Link) (slot : Option Nat) (s : State) : State :=
  match slot with
  | none => s
  | some n =>
    match slotEntry n s.flows with
    | none => s
    | some e =>
      if e.hasLastLink then
        let s1 := { s with flows := updateSlot n (fun e => { e with lastLink := some l }) s.flows }
        if e.lastLink = some l.other then raise .timingPathChanged none s1 else s1
      else s

/-! ## Starting a transmission -/

/-- A transmission begins on a port now (R18, R98). -/
def beginTx (p : Port) (item : TxItem) (bytes : List Byte) (s : State) : State :=
  let u := s.port p
  s.setPort p { u with tx := some { item, bytes, ends := txEnd s.now (decide (p = .sp)) bytes.length } }

/-- A port's downstream or site queue replaced. -/
def State.setDown (s : State) (p : Port) (q : List Descriptor) : State :=
  { s with queues := { s.queues with down := s.queues.down.set p q } }

/-- The transmitter of an access port or SP takes its next frame: the local queue first (R18). -/
def serveAccess (p : Port) (s : State) : State :=
  if (s.port p).linkUp && (s.port p).tx.isNone then
    match s.localQ p with
    | f :: rest => beginTx p (.store f) (localBytes f) (s.setLocalQ p rest)
    | [] =>
      match s.queues.down.get p with
      | d :: rest =>
        let s1 := s.setDown p rest
        if d.cls = .timing then
          let (bytes, s2) := correct p d (d.airDelay.getD 0) s1
          beginTx p (.pool d) bytes s2
        else beginTx p (.pool d) d.frame s1
      | [] => s
  else s

/-! ## The backhaul arbiters -/

/-- A frame with a link preference is eligible on a link (R93). -/
def eligible (s : State) (pref : Option Pref) (l : Link) : Bool :=
  match pref.getD .any with
  | .any => s.inService l
  | .preferL0 => match l with
    | .l0 => s.inService .l0
    | .l1 => !s.inService .l0 && s.inService .l1
  | .preferL1 => match l with
    | .l1 => s.inService .l1
    | .l0 => !s.inService .l1 && s.inService .l0

/-- A backhaul port is ready (R90): its pacing credit is brought up to date first. -/
def portReady (l : Link) (s : State) : Bool :=
  (s.port (.bh l)).linkUp && (s.port (.bh l)).tx.isNone && decide (0 ≤ (s.bucket (.pacing l)).credit)

/-- A descriptor starts on a backhaul port: the pacing bucket is charged (R98). -/
def startPool (l : Link) (d : Descriptor) (bytes : List Byte) (s : State) : State :=
  beginTx (.bh l) (.pool d) bytes (charge (.pacing l) d.length s)

/-- A frame of the local queue starts on a backhaul port (R92, R98, R100). -/
def startLocal (l : Link) (f : LocalFrame) (rest : List LocalFrame) (s : State) : State :=
  let bytes := localBytes f
  beginTx (.bh l) (.store f) bytes (charge (.pacing l) bytes.length (s.setLocalQ (.bh l) rest))

/-- The head of the timing queue starts (R98): pacing and timing buckets, correction, last link. The head of the queue
changes, which is an event for the other arbiter (R91). DESIGN CHOICE (log entry 42): CORRECTION_SATURATED is raised
before TIMING_PATH_CHANGED. -/
def startTiming (l : Link) (d : Descriptor) (rest : List Descriptor) (s : State) : State :=
  let s1 := { s with queues := { s.queues with timing := rest } }
  let s2 := charge .timing d.length (charge (.pacing l) d.length s1)
  let (bytes, s3) := correct (.bh l) d (s2.airDelay l) s2
  let s4 := updateLastLink l d.slot s3
  kick (.bh l.other) (beginTx (.bh l) (.pool d) bytes s4)

/-- A test-frame kind of the device's own type (12.3). -/
def isTestFrame (bytes : List Byte) : Bool :=
  slice (payloadOffset bytes - 2) 2 bytes == ownType && pbyte (payload bytes) 0 == 0x04#8

/-- A frame is long enough to hold stamps up to a payload offset (R153). -/
def holdsPayload (bytes : List Byte) (n : Nat) : Bool := decide (n ≤ (payload bytes).length)

/-- The bytes of a test or reflected frame as they are sent: the transmit stamp of a generated frame (R147), the peer
transmit stamp of a reflected test frame (R154), and the FCS. -/
def stampedTest (d : Descriptor) (t : Ns) : List Byte :=
  let off := payloadOffset d.frame
  let stamp := natToBytes 8 t.toNat
  if d.cls = .test then withFcs (patch (off + 8) stamp d.frame)
  else if isTestFrame d.frame && holdsPayload d.frame 32 then withFcs (patch (off + 24) stamp d.frame)
  else withFcs d.frame

/-- The head of a link's test queue starts (R98). -/
def startTest (l : Link) (d : Descriptor) (rest : List Descriptor) (s : State) : State :=
  startPool l d (stampedTest d s.nowNs) { s with queues := { s.queues with test := s.queues.test.set l rest } }

/-- A generated test head no longer belongs to the run under way (R96). -/
def testRefused (c : Context) (d : Descriptor) : Bool :=
  decide (d.cls = .test) && !(c.underWay && pbyte (payload d.frame) 1 == c.runNo)

/-- The refused heads of a link's test queue are removed and their cells freed (R96). -/
def dropRefused (l : Link) (s : State) : State :=
  let q := s.queues.test.get l
  let gone := q.takeWhile (testRefused (s.ctx l))
  freeAll gone
    { s with queues := { s.queues with test := s.queues.test.set l (q.dropWhile (testRefused (s.ctx l))) } }

/-- A tenant frame is aged now (R95). -/
def isAged (now : Instant) (maxAge : Nat) (d : Descriptor) : Bool :=
  decide (msNs maxAge * 65536 < (now - d.arrival).toNat)

/-- A tenant's queue. -/
def State.tenantQ (s : State) (t : Tenant) : List Descriptor := tget s.queues.tenant t

/-- A tenant's queue replaced. -/
def State.setTenantQ (s : State) (t : Tenant) (q : List Descriptor) : State :=
  { s with queues := { s.queues with tenant := tset s.queues.tenant t q } }

/-- One aged head of a tenant's queue is discarded (R95): cells freed, frames aged stepped, AGED_DISCARD raised. -/
def discardAged (t : Tenant) (d : Descriptor) (s : State) : State :=
  let u := s.tenant t
  raise (.agedDiscard t) none ((freeCells d s).setTenant t { u with aged := u.aged + 1 })

/-- The aged heads of a tenant's queue are discarded one after another (R94, R95). -/
def ageHeads (t : Tenant) : List Descriptor → State → State
  | [], s => s.setTenantQ t []
  | d :: rest, s =>
    if isAged s.now (s.tenantCfg t).maxAge d then ageHeads t rest (discardAged t d s)
    else s.setTenantQ t (d :: rest)

/-- A tenant's head examined for age on a pass of one port; a head that left is an event for the other (R91). -/
def examine (l : Link) (t : Tenant) (s : State) : State :=
  let q := s.tenantQ t
  let s1 := ageHeads t q s
  if (s1.tenantQ t).length = q.length then s1 else kick (.bh l.other) s1

/-- The head of a tenant's queue starts (R94, R98): the pointer is set to the tenant. -/
def startTenant (l : Link) (t : Tenant) (d : Descriptor) (rest : List Descriptor) (s : State) : State :=
  let s1 := s.setTenantQ t rest
  let s2 := charge (.tenant t) d.length s1
  let s3 := { s2 with sched := { s2.sched with pointer := s2.sched.pointer.set l t } }
  kick (.bh l.other) (startPool l d d.frame s3)

/-- The tenants of a walk: from the one after the pointer, ascending, wrapping from T7 to T0 (R94). -/
def walkOrder (pointer : Tenant) : List Tenant := (List.finRange 8).map fun i => pointer + 1 + i

/-- The round-robin walk (R94). -/
def walk (l : Link) : List Tenant → State → State
  | [], s => s
  | t :: ts, s =>
    if (s.tenantCfg t).active then
      let s1 := examine l t s
      match s1.tenantQ t with
      | [] => walk l ts s1
      | d :: rest =>
        let s2 := touch (.tenant t) s1
        if eligible s2 d.pref l && decide (0 ≤ (s2.bucket (.tenant t)).credit) then startTenant l t d rest s2
        else walk l ts s2
    else walk l ts s

/-- The test queue and then the tenant queues of a pass (R92). -/
def passTestAndTenants (l : Link) (s : State) : State :=
  let s1 := dropRefused l s
  match s1.queues.test.get l with
  | d :: rest => startTest l d rest s1
  | [] => walk l (walkOrder (s1.sched.pointer.get l)) s1

/-- A selection pass of a ready port (R92). -/
def selectionPass (l : Link) (s : State) : State :=
  match s.localQ (.bh l) with
  | f :: rest => startLocal l f rest s
  | [] =>
    match s.queues.timing with
    | d :: rest =>
      let s1 := touch .timing s
      if eligible s1 d.pref l && decide (0 ≤ (s1.bucket .timing).credit) then startTiming l d rest s1
      else passTestAndTenants l s1
    | [] => passTestAndTenants l s

/-- A backhaul arbiter is called (R91): a port that is not ready makes no pass. -/
def serveBackhaul (l : Link) (s : State) : State :=
  let s1 := touch (.pacing l) s
  if portReady l s1 then selectionPass l s1 else s1

/-! ## The end of an event -/

/-- A call answered: the port's mark cleared, and its arbiter run. -/
def serve (p : Port) (s : State) : State :=
  let s1 := { s with ev := { s.ev with kick := s.ev.kick.set p false } }
  match p with
  | .bh l => serveBackhaul l s1
  | _ => serveAccess p s1

/-- The next port to serve. Where both backhaul arbiters are called, which is first is a free value (R97). -/
def nextServed (s : State) : Option Port × State :=
  match (Port.list.filter fun p => !decide (roleOf p = .backhaul)).find? (fun p => s.ev.kick.get p) with
  | some p => (some p, s)
  | none =>
    if s.ev.kick.bh.l0 && s.ev.kick.bh.l1 then
      let (n, s1) := takeFree s
      (some (.bh (if Config.firstArbiterIsBh1 n then .l1 else .l0)), s1)
    else if s.ev.kick.bh.l0 then (some (.bh .l0), s)
    else if s.ev.kick.bh.l1 then (some (.bh .l1), s)
    else (none, s)

/-- The notices of an event are offered and the called arbiters are run, until nothing is left to do. Each port starts
at most one transmission in an event, so the rounds are few. -/
def settleRounds : Nat → State → State
  | 0, s => s
  | fuel + 1, s =>
    if !s.ev.outbox.isEmpty then settleRounds fuel (offerNotices s)
    else
      match nextServed s with
      | (some p, s1) => settleRounds fuel (serve p s1)
      | (none, s1) => s1

/-- The end of an event; the work list is empty after it. -/
def settle (s : State) : State := { settleRounds 64 s with ev := noWork }

/-- An event taken whole: its work list starts empty, and what it calls for is done within it. -/
def event (f : State → State) (s : State) : State := settle (f { s with ev := noWork })

/-! ## The end of a transmission -/

/-- The transmission under way on a port has reached its end. -/
def txDue (p : Port) (s : State) : Bool :=
  match (s.port p).tx with
  | some t => reached s.now t.ends
  | none => false

/-- The cells of what was transmitted are freed (R15); a local frame's place is freed with it (R17). -/
def freeItem : TxItem → State → State
  | .pool d, s => freeCells d s
  | .store _, s => s

/-- A tenant frame's length is added to bytes departed (R60, R99). -/
def countDeparted (item : TxItem) (n : Nat) (s : State) : State :=
  match item with
  | .pool d =>
    match d.cls, d.tenant with
    | .tenant, some t => s.setTenant t { s.tenant t with departed := (s.tenant t).departed + BitVec.ofNat 64 n }
    | _, _ => s
  | .store _ => s

/-- The transmitter of a port idle. -/
def clearTx (p : Port) (s : State) : State := s.setPort p { s.port p with tx := none }

/-- A transmission ends on a port (R18, R99): it is counted, its cells are freed, and the port's arbiter is called. -/
def endTx (p : Port) (t : Transmission) (s : State) : State :=
  let n := t.bytes.length
  let s1 := count p .bytesTransmitted n (count p .framesTransmitted 1 s)
  let s2 := if roleOf p = .backhaul then countDeparted t.item n s1 else s1
  kick p (clearTx p (freeItem t.item s2))

/-- A transmission that has reached its end ends. -/
def finishTx (p : Port) (s : State) : State :=
  match (s.port p).tx with
  | some t => if reached s.now t.ends then endTx p t s else s
  | none => s

end Sys2Proof.Machine
end

