-- ==== Sys2Proof/Machine/LinkControl.lean ====
section
/-!
DEFINITION. Link Control: rate notices (R41 to R46), supervision (R47, R48), the link state machine (R49 to R54), the
commands on links (R55 to R57), and what a load or a traffic restart asks of it (R58).
-/

namespace Sys2Proof.Machine

/-! ## Counters and latches -/

/-- The counters of a link record changed. -/
def countLink (l : Link) (f : LinkCounters → LinkCounters) (s : State) : State :=
  updLink l (fun u => { u with counters := f u.counters }) s

/-- PROFILE_UNKNOWN is raised when an index names an invalid entry (R46). -/
def raiseUnknown (l : Link) (i : Fin 16) (s : State) : State :=
  if s.unknownProfile l i then raise (.profileUnknown l) none s else s

/-! ## Carrier-absent reports (R43) -/

/-- The fields that a carrier-absent report changes (R43). -/
def LinkUnit.carrierLost (clearStale : Bool) (u : LinkUnit) : LinkUnit :=
  { u with carrier := false, pending := none, pendTimer := none, stale := u.stale && !clearStale }

/-- A fade with a hold-off of 0 ms goes on to DOWN within the event (R51). -/
def fade (l : Link) (s : State) : State :=
  let s1 := enterFaded l s
  if (s1.cfg.links.get l).holdOff = 0 then enterDown l s1 else s1

/-- A carrier-absent report (R43). In IN_SERVICE an in-service run is aborted and the link fades (R51); in QUALIFYING
the link enters DOWN and its run is aborted (R50). -/
def carrierAbsent (l : Link) (clearStale : Bool) (s : State) : State :=
  match (s.link l).state with
  | .inService =>
    withReport l (fun s => fade l (updLink l (LinkUnit.carrierLost clearStale) s)) (abortRun l .carrier s)
  | .qualifying =>
    abortRun l .carrier (withReport l (fun s => enterDown l (updLink l (LinkUnit.carrierLost clearStale) s)) s)
  | _ => withReport l (updLink l (LinkUnit.carrierLost clearStale)) s

/-! ## Admission (R49) -/

/-- A link is admitted without a run (R49). -/
def admittedDirectly (l : Link) (s : State) : Bool :=
  (s.cfg.links.get l).startIndex.isNone || (!s.startup.straps.bringup && !(s.link l).admitted)

/-- A run is asked for in QUALIFYING (R49, R55, R58). -/
def qualify (l : Link) (s : State) : State := startRun l (enterQualifying l s)

/-- The admission of a link that is DOWN (R49). -/
def admission (l : Link) (s : State) : State :=
  if admittedDirectly l s then enterInService l s else qualify l s

/-! ## Rate notices (R41 to R44) -/

/-- A well-formed rate notice (R41, 12.2); the index is some when the carrier is present. -/
structure RateNotice where
  current : Bool
  index : Option (Fin 16)
  level : BitVec 8
deriving DecidableEq, Repr

/-- The check of a rate notice's payload (R41): none is a malformed notice. -/
def parseNotice (p : List Byte) : Option RateNotice :=
  if p.length < 5 then none
  else
    let kind := (pbyte p 1).toNat
    let carrier := (pbyte p 2).toNat
    let index := (pbyte p 3).toNat
    if (kind = 1 ∨ kind = 2) then
      if carrier = 0 then some { current := decide (kind = 1), index := none, level := pbyte p 4 }
      else if carrier = 1 then
        if h : index < 16 then some { current := decide (kind = 1), index := some ⟨index, h⟩, level := pbyte p 4 }
        else none
      else none
    else none

/-- The fields that a CURRENT notice with carrier present changes (R42). -/
def LinkUnit.currentTaken (i : Fin 16) (timer : Instant) (u : LinkUnit) : LinkUnit :=
  { u with
    carrier := true, current := i, pending := none, pendTimer := none, stale := false
    supTimer := match u.state with
                | .qualifying | .inService => some timer
                | _ => u.supTimer }

/-- A CURRENT notice with carrier present (R42), and the state machine that it drives (R49, R52). -/
def currentPresent (l : Link) (i : Fin 16) (s : State) : State :=
  let s1 := withReport l (fun s =>
    raiseUnknown l i
      (updLink l (LinkUnit.currentTaken i (afterMs s.now (s.cfg.links.get l).supervision)) s)) s
  match (s1.link l).state with
  | .down => admission l s1
  | .faded => enterInService l s1
  | _ => s1

/-- A PENDING notice with carrier present, taken while the record's carrier is present (R44). -/
def pendingPresent (l : Link) (i : Fin 16) (s : State) : State :=
  withReport l (fun s =>
    raiseUnknown l i
      (updLink l (fun u =>
        { u with pending := some i, pendTimer := some (afterMs s.now (s.cfg.links.get l).pendingTimeout) }) s)) s

/-- The receive level stored (R41). -/
def storeLevel (l : Link) (v : BitVec 8) (s : State) : State := updLink l (fun u => { u with level := some v }) s

/-- A well-formed rate notice is counted, stored and acted on (R41 to R44). -/
def takeNotice (l : Link) (n : RateNotice) (s : State) : State :=
  if n.current then
    let s1 := storeLevel l n.level (countLink l (fun c => { c with currentTaken := c.currentTaken + 1 }) s)
    match n.index with
    | some i => currentPresent l i s1
    | none => carrierAbsent l true s1
  else
    match n.index with
    | none =>
      carrierAbsent l false
        (storeLevel l n.level (countLink l (fun c => { c with pendingTaken := c.pendingTaken + 1 }) s))
    | some i =>
      if (s.link l).carrier then
        pendingPresent l i
          (storeLevel l n.level (countLink l (fun c => { c with pendingTaken := c.pendingTaken + 1 }) s))
      else countLink l (fun c => { c with pendingIgnored := c.pendingIgnored + 1 }) s

/-- A rate notice handed to Link Control (R41). -/
def rateNotice (l : Link) (bytes : List Byte) (s : State) : State :=
  match parseNotice (payload bytes) with
  | none => countLink l (fun c => { c with malformed := c.malformed + 1 }) s
  | some n => takeNotice l n s

/-! ## Timers (R45, R48, R52) -/

/-- A timer of a link has reached its expiry. -/
def timerDue (s : State) : Option Instant → Bool
  | some t => reached s.now t
  | none => false

/-- The pending timer expires (R45). -/
def pendingExpires (l : Link) (s : State) : State :=
  withReport l (updLink l (fun u =>
    { u with
      pending := none, pendTimer := none
      counters := { u.counters with pendingTimeouts := u.counters.pendingTimeouts + 1 } })) s

/-- A link in service turns stale (R48). -/
def turnStale (l : Link) (s : State) : State :=
  withReport l (fun s =>
    raise (.stale l) none
      (updLink l (fun u =>
        { u with
          stale := true, supTimer := none
          counters := { u.counters with staleOnsets := u.counters.staleOnsets + 1 } }) s)) s

/-- The supervision timer expires (R48, R50). -/
def supervisionExpires (l : Link) (s : State) : State :=
  match (s.link l).state with
  | .qualifying => abortRun l .noticeLost (withReport l (enterDown l) s)
  | .inService => turnStale l s
  | _ => s

/-- The hold-off timer of a FADED link expires (R52). -/
def holdOffExpires (l : Link) (s : State) : State :=
  if (s.link l).state = .faded then withReport l (enterDown l) s else s

/-! ## Commands on links (R55 to R57) -/

/-- RETEST (R55): its status, and the state after it. -/
def retestLink (l : Link) (s : State) : Status × State :=
  match (s.link l).state with
  | .barred => if (s.link l).carrier then (.ok, qualify l s) else (.notPermitted, s)
  | .inService => if (s.ctx l).underWay then (.busy, s) else (.ok, startRun l s)
  | _ => (.notPermitted, s)

/-- ADMIT (R56). -/
def admitBarred (l : Link) (s : State) : Status × State :=
  if (s.link l).state = .barred ∧ (s.link l).carrier = true then (.ok, enterInService l s) else (.notPermitted, s)

/-- STOP (R57). -/
def stopLink (l : Link) (s : State) : Status × State :=
  if (s.ctx l).underWay then
    match (s.link l).state with
    | .qualifying => (.ok, enterBarred l .stopped (abortRun l .stopped s))
    | .inService => (.ok, abortRun l .stopped s)
    | _ => (.notPermitted, s)
  else (.notPermitted, s)

/-! ## Restart and load (R58) -/

/-- The links whose QUALIFYING run a restart or a load is about to abort. -/
def qualifyingRuns (s : State) : List Link :=
  [Link.l0, Link.l1].filter fun l => decide ((s.link l).state = .qualifying) && (s.ctx l).underWay

/-- Every run under way aborted with cause RESTART (R152). DESIGN CHOICE (log entry 35): L0 before L1. -/
def abortRuns (s : State) : State := abortRun .l1 .restart (abortRun .l0 .restart s)

/-- New runs requested for links that are QUALIFYING (R58). DESIGN CHOICE (log entry 35): L0 before L1, so L0 takes the
lower free slot. -/
def rerun (ls : List Link) (s : State) : State := ls.foldl (fun s l => startRun l s) s

/-- PROFILE_UNKNOWN when a load leaves an index naming an invalid entry (R46, R58). -/
def raiseIfUnknown (l : Link) (s : State) : State :=
  let u := s.link l
  if s.unknownProfile l u.current || (u.pending.any fun p => s.unknownProfile l p) then
    raise (.profileUnknown l) none s
  else s

end Sys2Proof.Machine
end

