-- ==== Sys2Proof/Machine/Schedule.lean ====
section
/-!
DEFINITION. The Schedule Unit: the ordered table (R129, R130, R131) and firing (R132 to R137).
-/

namespace Sys2Proof.Machine

/-- An entry put at the place its time gives it (R129). -/
def insertEntry (e : ScheduleEntry) : List ScheduleEntry → List ScheduleEntry
  | [] => [e]
  | x :: rest => if e.time < x.time then e :: x :: rest else x :: insertEntry e rest

/-- The position of the entry that holds a time (R129). -/
def positionOf (time : Nat) (t : List ScheduleEntry) : Option Nat := t.findIdx? fun x => x.time == time

/-- The table replaced. -/
def State.setSchedule (s : State) (t : List ScheduleEntry) : State := { s with cfg := { s.cfg with schedule := t } }

/-- The active set changed (R66, R67). -/
def setActive (k : SetId) (s : State) : State := { s with cfg := { s.cfg with activeSet := k } }

/-- The entries at or before a seconds count: the front of an ascending table. -/
def dueEntries (sec : Nat) (t : List ScheduleEntry) : List ScheduleEntry :=
  t.takeWhile fun e => decide (e.time ≤ sec)

/-- The entries after a seconds count. -/
def waitingEntries (sec : Nat) (t : List ScheduleEntry) : List ScheduleEntry :=
  t.dropWhile fun e => decide (e.time ≤ sec)

/-- The record of one event of firing (R129). -/
def firingOf (s : State) (n : Nat) (e : ScheduleEntry) : Firing :=
  { count := n, time := e.time, set := e.set, tag := e.tag, siteSeconds := s.time.site.seconds
    siteNanos := s.time.site.nanos, elapsed := s.nowNs }

/-- Every entry at or before the seconds count fires in one event (R132, R133): each is removed and counted, the set of
the last is made active and one recompute follows, and SHARE_SET_CHANGED is raised with the last tag. Nothing fires
while site time is invalid (R135). -/
def fireEntries (s : State) : State :=
  if s.time.valid then
    let due := dueEntries s.time.site.seconds s.cfg.schedule
    match due.getLast? with
    | none => s
    | some e =>
      let s1 := s.setSchedule (waitingEntries s.time.site.seconds s.cfg.schedule)
      let s2 := { s1 with
        firing := { fired := s1.firing.fired + BitVec.ofNat 32 due.length, last := some (firingOf s due.length e) } }
      raise .shareSetChanged (some e.tag) (recompute (setActive e.set s2))
  else s

/-- The earliest entry is at or before site time, and site time is valid: it fires (R132). -/
def fireDue (s : State) : Bool :=
  match s.cfg.schedule with
  | [] => false
  | e :: _ => s.time.valid && decide (e.time ≤ s.time.site.seconds)

end Sys2Proof.Machine
end

