-- ==== Sys2Proof/Machine/TimeUnit.lean ====
section
/-!
DEFINITION. The Time Unit: site time as it runs (R102), the servo (R105 to R113), SET_TIME (R114) and the pulse outputs
(R115 to R117).
-/

namespace Sys2Proof.Machine

/-! ## Site time (R102) -/

/-- The values of a seconds count (R102). -/
def secondsWrap : Nat := 2 ^ 48

/-- The signed amount that one advance adds beside its nanosecond, in units of 2^-32 ns (R102). -/
def driftOf (v : Servo) : Int := (v.f + v.slew) * 2 ^ 32 / 1000000000

/-- One advance of site time, before a wrap of its seconds (R102). -/
def SiteTime.advance (drift : Int) (x : SiteTime) : SiteTime :=
  let units := ((x.frac : Int) + 2 ^ 32 + drift).toNat
  let nanos := x.nanos + units / 2 ^ 32
  { seconds := x.seconds + nanos / 1000000000, nanos := nanos % 1000000000, frac := units % 2 ^ 32 }

/-- Site time moved by a signed number of nanoseconds (R109): the seconds wrap in either direction, and the fraction
is kept. -/
def SiteTime.move (d : Int) (x : SiteTime) : SiteTime :=
  let n : Int := (x.nanos : Int) + d
  { x with
    seconds := (((x.seconds : Int) + n / 1000000000) % (secondsWrap : Int)).toNat
    nanos := (n % 1000000000).toNat }

/-- One site time lies later than another (R133). -/
def SiteTime.later (a b : SiteTime) : Bool :=
  decide (b.seconds < a.seconds ∨ (b.seconds = a.seconds ∧ b.nanos < a.nanos))

/-- The Time Unit's state replaced. -/
def State.setTimeUnit (s : State) (t : TimeUnit) : State := { s with time := t }

/-- The servo record changed. -/
def updServo (f : Servo → Servo) (s : State) : State := { s with time := { s.time with servo := f s.time.servo } }

/-- Site time changed. -/
def updSite (f : SiteTime → SiteTime) (s : State) : State := { s with time := { s.time with site := f s.time.site } }

/-! ## Pulse outputs (R115, R116) -/

/-- A squelch policy admits a servo state (R116). -/
def Squelch.admits : Squelch → ServoState → Bool
  | .always, _ => true
  | .lockedOrHoldover, .locked => true
  | .lockedOrHoldover, .holdover => true
  | .lockedOrHoldover, _ => false

/-- An output is allowed to pulse (R116). -/
def pulseAllowed (s : State) (k : Fin 4) : Bool :=
  s.time.valid && (tget s.cfg.pulses k).policy.admits s.time.servo.state

/-- The rise point of an output (R116). -/
def risePoint (p : PulseConfig) : Nat := (1000000000 - p.advance) % 1000000000

/-- A record that is low (R116). -/
def PulseUnit.low (u : PulseUnit) : PulseUnit := { u with high := false, fall := none }

/-- Every output that is high and not allowed becomes low at once (R116). -/
def squelch (s : State) : State :=
  { s with
    time := { s.time with
      pulses := Vector.ofFn fun k =>
        let u := tget s.time.pulses k
        if u.high && !pulseAllowed s k then u.low else u } }

/-- An output's record replaced. -/
def State.setPulse (s : State) (k : Fin 4) (u : PulseUnit) : State :=
  { s with time := { s.time with pulses := tset s.time.pulses k u } }

/-- The rise of an output (R116); reaching the rise point raises no output that is not allowed. -/
def pulseRise (k : Fin 4) (s : State) : State :=
  if pulseAllowed s k then
    let u := tget s.time.pulses k
    s.setPulse k { high := true, fall := some (afterMs s.now (tget s.cfg.pulses k).width), pulses := u.pulses + 1 }
  else s

/-- An output's fall time has been reached. -/
def fallDue (k : Fin 4) (s : State) : Bool :=
  match (tget s.time.pulses k).fall with
  | some t => reached s.now t
  | none => false

/-- The fall of an output (R116). -/
def pulseFall (k : Fin 4) (s : State) : State := s.setPulse k (tget s.time.pulses k).low

/-! ## The servo -/

/-- The phase error of an accepted edge (R108). -/
def phaseErrorOf (n comp : Nat) : Int :=
  let d : Int := (n : Int) - (comp : Int)
  if d < 500000000 then d else d - 1000000000

/-- An edge lies in the window of R106. -/
def edgeAccepted (reference : Option Ns) (t : Ns) : Bool :=
  match reference with
  | none => true
  | some r => decide (999000000 ≤ sinceNs t r ∧ sinceNs t r ≤ 1001000000)

/-- An accepted edge steps site time (R109). -/
def edgeSteps (st : ServoState) (e : Int) (limit : Nat) : Bool := decide (st = .freeRun) || decide (limit < e.natAbs)

/-- The frequency adjustment kept within ±200,000 ppb (R110). -/
def clampF (f : Int) : Int := max (-200000) (min 200000 f)

/-- The servo record after a step (R109); any edge taken in HOLDOVER ends it (R111). -/
def Servo.stepped (v : Servo) : Servo :=
  { v with state := .acquiring, slew := 0, slewEnd := none, lockCtr := 0, unlockCtr := 0, holdoverStart := none
           holdoverEnds := none, steps := v.steps + 1 }

/-- The servo record after discipline (R110); for an edge in HOLDOVER the counters start from 0 (R111). -/
def Servo.disciplined (c : TimingConfig) (e : Int) (t : Ns) (v : Servo) : Servo :=
  let lock0 := if v.state = .holdover then 0 else v.lockCtr
  let unlock0 := if v.state = .holdover then 0 else v.unlockCtr
  let good := decide (e.natAbs ≤ c.lockThreshold)
  { v with
    f := clampF (v.f - e.tdiv (2 ^ c.gainShift : Nat))
    slew := -e
    slewEnd := some (t + 1000000000)
    lockCtr := if good then min (lock0 + 1) 255 else 0
    unlockCtr := if good then 0 else min (unlock0 + 1) 255
    holdoverStart := none, holdoverEnds := none }

/-- The servo state after an edge that was not a step (R111). -/
def stateAfterEdge (c : TimingConfig) (v : Servo) : ServoState :=
  match v.state with
  | .locked => if c.unlockCount ≤ v.unlockCtr then .acquiring else .locked
  | _ => if c.lockCount ≤ v.lockCtr then .locked else .acquiring

/-- A servo step (R109): site time is moved, TIME_STEPPED latches, outputs no longer allowed fall, and a forward move of
valid time fires the entries it passes (R133). -/
def servoStep (e : Int) (s : State) : State :=
  let s1 := updServo Servo.stepped (updSite (SiteTime.move (-e)) s)
  let s2 := squelch (raise .timeStepped none s1)
  if e < 0 then fireEntries s2 else s2

/-- The discipline of an edge (R110) and the state move of R111. DEDUCED (log entry 38): an edge that takes HOLDOVER
through ACQUIRING to LOCKED lowers no output, since the outputs see the state after the edge. -/
def servoDiscipline (e : Int) (t : Ns) (s : State) : State :=
  let c := s.cfg.timing
  let s1 := updServo (Servo.disciplined c e t) s
  let st := stateAfterEdge c s1.time.servo
  let s2 := updServo (fun v => { v with state := st }) s1
  squelch (if st = .locked ∧ s.time.servo.state ≠ .locked then raise .timeLocked none s2 else s2)

/-- A rejected edge (R107). -/
def rejectEdge (s : State) : State :=
  raise .ppsRejected none (updServo (fun v => { v with rejected := v.rejected + 1 }) s)

/-- An accepted edge (R106, R108): it is counted, becomes the reference, and steps or disciplines. -/
def acceptEdge (s : State) : State :=
  let t := s.nowNs
  let e := phaseErrorOf s.time.site.nanos s.cfg.timing.comp
  let s1 := updServo (fun v => { v with accepted := v.accepted + 1, reference := some t, phaseError := some e }) s
  if edgeSteps s.time.servo.state e s.cfg.timing.stepLimit then servoStep e s1 else servoDiscipline e t s1

/-- A rising edge of PPSIN taken in RUNNING (R106). -/
def takeEdge (s : State) : State :=
  if edgeAccepted s.time.servo.reference s.nowNs then acceptEdge s else rejectEdge s

/-- The pulse-missing timer has expired (R112). -/
def missingDue (s : State) : Bool :=
  match s.time.servo.reference with
  | some r => decide (1500000000 ≤ sinceNs s.nowNs r)
  | none => false

/-- The moment at which a holdover limit in seconds expires (R113). -/
def limitEnd (start : Ns) (limit : Nat) : Ns := start + BitVec.ofNat 64 (limit * 1000000000)

/-- The slew ended and the reference gone (R112). -/
def Servo.lost (v : Servo) : Servo := { v with reference := none, slew := 0, slewEnd := none }

/-- The servo in HOLDOVER from a moment on, with the timer of its limit (R112, R113). -/
def Servo.hold (t : Ns) (limit : Nat) (v : Servo) : Servo :=
  { v with state := .holdover, holdoverStart := some t, holdoverEnds := some (limitEnd t limit) }

/-- The loss of the pulse (R112). -/
def pulseLost (s : State) : State :=
  let s1 := updServo Servo.lost s
  match s.time.servo.state with
  | .locked =>
    squelch (raise .timeHoldover none (updServo (Servo.hold s.nowNs s.cfg.timing.holdoverLimit) s1))
  | .acquiring => squelch (raise .timeFreeRun none (updServo (fun v => { v with state := .freeRun }) s1))
  | _ => s1

/-- The timer of the holdover limit has expired (R113). It was started at the loss or taken again by a write; a load does
not touch it (R118). -/
def holdoverDue (s : State) : Bool :=
  match s.time.servo.state, s.time.servo.holdoverEnds with
  | .holdover, some t => reachedNs s.nowNs t
  | _, _ => false

/-- The expiry of the holdover limit taken again from the recorded holdover start (R113). -/
def Servo.retakeLimit (limit : Nat) (v : Servo) : Servo :=
  match v.state, v.holdoverStart with
  | .holdover, some t => { v with holdoverEnds := some (limitEnd t limit) }
  | _, _ => v

/-- The holdover limit expires (R113). -/
def holdoverExpires (s : State) : State :=
  squelch (raise .timeFreeRun none (updServo (fun v => { v with state := .freeRun, holdoverStart := none, holdoverEnds := none }) s))

/-- The slew end has been reached (R110). -/
def slewDue (s : State) : Bool :=
  match s.time.servo.slewEnd with
  | some t => reachedNs s.nowNs t
  | none => false

/-- The slew ends (R110). -/
def slewEnds (s : State) : State := updServo (fun v => { v with slew := 0, slewEnd := none }) s

/-! ## SET_TIME (R114) -/

/-- What SET_TIME makes of site time: in LOCKED and HOLDOVER only the seconds are set (R114). -/
def settledSite (st : ServoState) (sec ns : Nat) (x : SiteTime) : SiteTime :=
  match st with
  | .locked | .holdover => { x with seconds := sec }
  | .freeRun | .acquiring => { seconds := sec, nanos := ns, frac := 0 }

/-- An accepted SET_TIME (R114): the flag becoming true fires every entry in the past (R135), and a forward move fires
those it passes (R133). -/
def applyTime (sec ns : Nat) (s : State) : State :=
  let old := s.time.site
  let new := settledSite s.time.servo.state sec ns old
  let s1 := { s with time := { s.time with site := new, valid := true } }
  if !s.time.valid || new.later old then fireEntries s1 else s1

/-! ## The clock as it runs (R101, R102) -/

/-- A value from one site time on to a later one, read modulo one second, reaches a point (R116). -/
def passes (old steps point : Nat) : Bool := (List.range steps).any fun i => (old + 1 + i) % 1000000000 == point

/-- The whole nanoseconds by which one advance moves site time. -/
def advanceSteps (drift : Int) (x : SiteTime) : Nat := ((x.frac : Int) + 2 ^ 32 + drift).toNat / 2 ^ 32

/-- The seconds count has passed 2^48 - 1 (R102). -/
def wrapReached (s : State) : List Instr := if secondsWrap ≤ s.time.site.seconds then [.siteSecondsWrap] else []

/-- What an advance of site time reaches (R116, R132): an entry's second, and the rise points of the outputs. -/
def reachedBySite (s : State) (steps : Nat) : List Instr :=
  (if fireDue s then [.scheduleFire] else [])
    ++ ((List.finRange 4).filter fun k =>
          passes ((s.time.site.nanos + 2 * 1000000000 - steps) % 1000000000) steps (risePoint (tget s.cfg.pulses k))).map
        .pulseOutputRise

/-- The seconds count that has passed 2^48 - 1 wraps to 0 (R102): a backward move, which fires nothing (R134). -/
def wrapSeconds (s : State) : State :=
  updSite (fun x => { x with seconds := if secondsWrap ≤ x.seconds then x.seconds - secondsWrap else x.seconds }) s

end Sys2Proof.Machine
end

