-- ==== Sys2Proof/Machine/Operands.lean ====
section
/-!
DEFINITION. The operands of requests: frames and their envelopes (12, R5), request headers, selectors (R177), bodies of
fields (R178), and the names that selectors and bodies carry.
-/

namespace Sys2Proof.Machine

/-! ## Frames as they arrive (R5, 12) -/

/-- The frame is tagged (R5). -/
def isTagged (bytes : List Byte) : Bool := slice 12 2 bytes == [0x81#8, 0x00#8]

/-- The two bytes after 0x8100 of a tagged frame. -/
def tagOf (bytes : List Byte) : Option (BitVec 16) :=
  if isTagged bytes then some (BitVec.ofNat 16 (bytesToNat (slice 14 2 bytes))) else none

/-- The VLAN of a tagged frame: the 12-bit identifier of its tag (R5). -/
def vlanIdOf (bytes : List Byte) : Nat :=
  match tagOf bytes with
  | some t => (t.extractLsb' 0 12).toNat
  | none => 0

/-- The VLAN of a frame's key, none for UNTAGGED; VLAN 0 is UNTAGGED (R5). -/
def frameVlan (bytes : List Byte) : Option Nat := if vlanIdOf bytes = 0 then none else some (vlanIdOf bytes)

/-- The key of a frame (R22). -/
def frameKey (p : Port) (bytes : List Byte) : FlowKey := { port := p, vlan := frameVlan bytes }

/-- The destination address of a frame. -/
def dstOf (bytes : List Byte) : Mac := BitVec.ofNat 48 (bytesToNat (slice 0 6 bytes))

/-- The source address of a frame. -/
def srcOf (bytes : List Byte) : Mac := BitVec.ofNat 48 (bytesToNat (slice 6 6 bytes))

/-- The frame carries the device's own type value (R7). -/
def hasOwnType (bytes : List Byte) : Bool := slice (payloadOffset bytes - 2) 2 bytes == ownType

/-- The kind byte of a frame of the device's own type. -/
def kindOf (bytes : List Byte) : Nat := (pbyte (payload bytes) 0).toNat

/-! ## Request frames (12.1) -/

/-- A request as the Management Engine reads it: its kind, its class or command, its selector and its body, none where
the body is not a sequence of fields (R178). -/
structure Request where
  kind : Nat
  code : Nat
  sel : Selector
  body : Option (List Field)
deriving DecidableEq, Repr

/-- The fields of a body (R178); none when a field's length runs past the body. -/
def parseFields : Nat → List Byte → Option (List Field)
  | _, [] => some []
  | 0, _ => none
  | fuel + 1, id :: rest =>
    match rest with
    | [] => none
    | n :: more =>
      if n.toNat ≤ more.length then
        (parseFields fuel (more.drop n.toNat)).map fun fs => { id := id.toNat, value := more.take n.toNat } :: fs
      else none

/-- The body of a request payload (R178): none when its length runs past the frame or past 1,900 bytes. -/
def parseBody (p : List Byte) : Option (List Field) :=
  let n := bytesToNat (slice 13 2 p)
  if n ≤ 1900 ∧ 15 + n ≤ p.length then parseFields n (slice 15 n p) else none

/-- A request payload (12.1). -/
def parseRequest (p : List Byte) : Request :=
  { kind := (pbyte p 1).toNat, code := bytesToNat (slice 4 2 p)
    sel := { kind := pbyte p 6, value := BitVec.ofNat 48 (bytesToNat (slice 7 6 p)) }, body := parseBody p }

/-- What a request frame's envelope gives to its response (R158). -/
def headerOf (port : Port) (bytes : List Byte) : Header :=
  { port, src := srcOf bytes, vlanTag := tagOf bytes
    tag := BitVec.ofNat 16 (bytesToNat (slice 2 2 (payload bytes))) }

/-- The frame holds the tag, the kind and the class of the request header (R157). -/
def headerComplete (bytes : List Byte) : Bool := decide (6 ≤ (payload bytes).length)

/-! ## Bodies (R178) -/

/-- What the fields of a body may be (R178). -/
structure BodyShape where
  /-- The identifiers known to the class or command. -/
  known : List Nat
  /-- The identifiers that may be longer than 8 bytes, with their limits. -/
  long : List (Nat × Nat)
  /-- The identifiers whose value may have no bytes: NONE, an empty label or an empty list. -/
  empty : List Nat
deriving DecidableEq, Repr

/-- The identifiers from 1 to n, with values of 1 to 8 bytes. -/
def shapeTo (n : Nat) : BodyShape := { known := (List.range n).map (· + 1), long := [], empty := [] }

/-- The limit of a field's value. -/
def BodyShape.limit (x : BodyShape) (id : Nat) : Nat :=
  match x.long.find? fun y => y.1 == id with
  | some y => y.2
  | none => 8

/-- One field fits its class or command. -/
def BodyShape.fieldOk (x : BodyShape) (f : Field) : Bool :=
  x.known.contains f.id && decide (f.value.length ≤ x.limit f.id)
    && (decide (0 < f.value.length) || x.empty.contains f.id)

/-- No identifier appears twice. -/
def distinctIds : List Field → Bool
  | [] => true
  | f :: rest => !(rest.any fun g => g.id == f.id) && distinctIds rest

/-- The first check of R161: the form of a body. -/
def BodyShape.ok (x : BodyShape) (body : List Field) : Bool := body.all x.fieldOk && distinctIds body

/-- The bytes of a carried field. -/
def bytes? (body : List Field) (id : Nat) : Option (List Byte) := (body.find? fun f => f.id == id).map fun f => f.value

/-- The number of a carried field. -/
def num? (body : List Field) (id : Nat) : Option Nat := (bytes? body id).map bytesToNat

/-- The number of a carried field, or the value held. -/
def numOr (body : List Field) (id held : Nat) : Nat := (num? body id).getD held

/-- A field is absent, or its number lies in a range. -/
def inRange (body : List Field) (id lo hi : Nat) : Bool :=
  match num? body id with
  | none => true
  | some n => decide (lo ≤ n ∧ n ≤ hi)

/-- None of these fields is carried. -/
def noneCarried (body : List Field) (ids : List Nat) : Bool := ids.all fun id => (bytes? body id).isNone

/-- A field is absent or equals the value held. -/
def same (body : List Field) (id held : Nat) : Bool :=
  match num? body id with
  | none => true
  | some n => n == held

/-- A number brought to the nearer end of a range (R161). -/
def clampTo (lo hi n : Nat) : Nat := max lo (min hi n)

/-- The number of a carried field clamped to a range, or the value held. -/
def clampOr (body : List Field) (id lo hi held : Nat) : Nat :=
  match num? body id with
  | none => held
  | some n => clampTo lo hi n

/-- A flag of a carried field, 1 for yes and 0 for no, or the value held. -/
def flagOr (body : List Field) (id : Nat) (held : Bool) : Bool :=
  match num? body id with
  | none => held
  | some n => n == 1

/-- A flag is absent or one of its two codes. -/
def flagOk (body : List Field) (id : Nat) : Bool := inRange body id 0 1

/-- The index below n that a number names. -/
def finOf (n : Nat) (v : Nat) : Option (Fin n) := if h : v < n then some ⟨v, h⟩ else none

/-- The index below n that a carried field names, or the value held. -/
def finOr {n : Nat} (body : List Field) (id : Nat) (held : Fin n) : Fin n :=
  match (num? body id).bind (finOf n) with
  | some v => v
  | none => held

/-! ## Selectors (R177) -/

/-- What a selector names. -/
inductive Named where
  | index (n : Nat)
  | key (v : BitVec 48)
  | all
  | nothing
deriving DecidableEq, Repr

/-- The selector read by its type; a type above 3 names nothing that is allowed (R177). -/
def selNamed (x : Selector) : Option Named :=
  match x.kind.toNat with
  | 0 => some (.index x.value.toNat)
  | 1 => some (.key x.value)
  | 2 => some .all
  | 3 => some .nothing
  | _ => none

/-- The index that a selector names, where it is below n. -/
def selIndex (n : Nat) (x : Selector) : Option (Fin n) :=
  match selNamed x with
  | some (.index v) => finOf n v
  | _ => none

/-- The port that a selector's index names by its code. -/
def selPort (x : Selector) : Option Port :=
  match selNamed x with
  | some (.index v) => portOfCode v
  | _ => none

/-- The link that a selector's index names. -/
def selLink (x : Selector) : Option Link :=
  match selNamed x with
  | some (.index v) => linkOfNum v
  | _ => none

/-- The link and index of a PROFILE selector: the high byte of the six gives the link, and the low byte the index
(R177). DESIGN CHOICE (log entry 12): a selector whose bytes between them are not 0 names nothing. -/
def selProfile (x : Selector) : Option (Link × Fin 16) :=
  match selNamed x with
  | some (.index v) =>
    match linkOfNum (v / 256 ^ 5), finOf 16 (v % 256 ^ 5) with
    | some l, some i => some (l, i)
    | _, _ => none
  | _ => none

/-- A byte of a selector's value, from payload offset 7 on. -/
def selByte (v : BitVec 48) (i : Nat) : Nat := (v.toNat / 256 ^ (5 - i)) % 256

/-- The VLAN that a code names: 1 to 4,094, or 0x1000 for UNTAGGED (R22, R177). -/
def vlanOfCode (n : Nat) : Option (Option Nat) :=
  if n = 4096 then some none else if 1 ≤ n ∧ n ≤ 4094 then some (some n) else none

/-- The code of a VLAN (R177). -/
def codeOfVlan : Option Nat → Nat
  | none => 4096
  | some n => n

/-- The key of a FLOW selector (R177): byte 7 is the port code, bytes 8 and 9 are the VLAN. DESIGN CHOICE (log entry
12): the bytes after them are not looked at. -/
def flowKeyOf (v : BitVec 48) : Option FlowKey :=
  match portOfCode (selByte v 0), vlanOfCode (selByte v 1 * 256 + selByte v 2) with
  | some p, some vlan => some { port := p, vlan }
  | _, _ => none

/-- How a FLOW request names its entry. -/
inductive FlowName where
  | slot (n : Nat)
  | key (k : FlowKey)
deriving DecidableEq, Repr

/-- The name of a FLOW READ or DELETE (R26, R27). -/
def selFlow (x : Selector) : Option FlowName :=
  match selNamed x with
  | some (.index v) => if v < 1024 then some (.slot v) else none
  | some (.key v) => (flowKeyOf v).map .key
  | _ => none

/-- How a SCHEDULE request names its entry. -/
inductive EntryName where
  | position (n : Nat)
  | time (t : Nat)
deriving DecidableEq, Repr

/-- The name of a SCHEDULE READ or DELETE (R131). -/
def selEntry (x : Selector) : Option EntryName :=
  match selNamed x with
  | some (.index v) => if v < 32 then some (.position v) else none
  | some (.key v) => some (.time v.toNat)
  | _ => none

/-! ## Condition names (R164, R177, R178) -/

/-- The conditions that a kind code and a qualifier name: one, or every one of the kind for the word ALL. -/
def condsNamed (code qualifier : Nat) : Option (List Cond) :=
  if 1 ≤ code ∧ code ≤ 24 then
    let cs := condsOfKind (code - 1)
    if qualifier = 0xFE then some cs
    else
      match cs.filter fun c => c.qualifier == qualifier with
      | [] => none
      | c :: _ => some [c]
  else none

/-- The conditions that a list of two-byte names names (R178). -/
def condsOfList : List Byte → Option (List Cond)
  | [] => some []
  | [_] => none
  | k :: q :: rest =>
    match condsNamed k.toNat q.toNat, condsOfList rest with
    | some a, some b => some (a ++ b)
    | _, _ => none

/-- The names of a CONDITION READ: one latch by key, or all. -/
inductive CondName where
  | one (c : Cond)
  | all
deriving DecidableEq, Repr

/-- The name of a CONDITION READ (R164). DESIGN CHOICE (log entry 12): the bytes after the qualifier are not looked at.
-/
def selCond (x : Selector) : Option CondName :=
  match selNamed x with
  | some .all => some .all
  | some (.key v) =>
    if selByte v 1 = 0xFE then none
    else
      match condsNamed (selByte v 0) (selByte v 1) with
      | some (c :: _) => some (.one c)
      | _ => none
  | _ => none

end Sys2Proof.Machine
end

