-- ==== Sys2Proof/Machine/Store.lean ====
section
/-!
DEFINITION. The Store Controller: reports (R168, R169), the operations on slots and on the information page (R170,
R171, R173), and what a load does with a body (R172).
-/

namespace Sys2Proof.Machine

/-! ## Markers and checks (R168) -/

/-- The valid pattern. -/
def markerValid : Byte := 0x5A#8

/-- Unmarked: all ones. -/
def markerNone : Byte := 0xFF#8

/-- Invalidated: all zeros. -/
def markerInvalid : Byte := 0x00#8

/-- The damaged values in ascending order: every byte but all zeros, the valid pattern and all ones (R168). -/
def damagedMarker (i : Fin 253) : Byte := BitVec.ofNat 8 (if i.val + 1 < 0x5A then i.val + 1 else i.val + 2)

/-- The check value of a body (R168). -/
def checkOf (b : SlotBody) : BitVec 32 := crc32 (Config.bodyBytes b)

/-- A body's blocks: 24, and 16 bytes for each MANAGEMENT entry in whole blocks (R168). -/
def bodyBlocks (b : SlotBody) : Nat := 24 + (16 * b.flows.length + 255) / 256

/-- What a slot's bytes are by themselves (R168). -/
def imageReport (x : SlotImage) : Report :=
  if x.erased then .erased
  else
    match x.body, x.header with
    | some b, some h => if x.marker = markerValid ∧ h.check = checkOf b then .valid else .invalid
    | _, _ => .invalid

/-- The slot that an operation concerns. -/
def jobSlot : StoreJob → Option (Fin 4)
  | .eraseSlot k | .saveSlot k _ _ | .invalidateSlot k => some k
  | .eraseInfo | .writeInfo _ _ => none

/-- The name of an operation. -/
def jobName : StoreJob → StoreOpName
  | .eraseSlot _ => .eraseSlot
  | .saveSlot _ _ _ => .saveSlot
  | .invalidateSlot _ => .invalidateSlot
  | .eraseInfo => .eraseInfo
  | .writeInfo _ _ => .writeInfo

/-- The report of a slot: INVALID from the start of an operation on it until the end of that operation (R168). -/
def slotReport (x : Store) (k : Fin 4) : Report :=
  match x.op with
  | some o => if jobSlot o.job = some k then .invalid else imageReport (tget x.slots k)
  | none => imageReport (tget x.slots k)

/-- The report of the information page (R169); while its bytes are being erased or programmed it is INVALID. -/
def pageReport (x : Store) : Report :=
  let page : Report :=
    if x.info.erased then .erased else if x.info.marker = markerValid then .valid else .invalid
  match x.op with
  | some o => if jobSlot o.job = none ∧ o.phase ≠ .recovery then .invalid else page
  | none => page

/-- The highest save count of a VALID slot, 0 if none is (R171). -/
def highestCount (x : Store) : Nat :=
  ((List.finRange 4).map fun k =>
    if slotReport x k = .valid then ((tget x.slots k).header.map fun h => h.saveCount).getD 0 else 0).foldl max 0

/-- The save count of a save taken now (R171). -/
def nextSaveCount (x : Store) : Nat := min (highestCount x + 1) (2 ^ 32 - 1)

/-- A SAVE_SLOT operation runs (R171). -/
def saveRuns (s : State) : Bool :=
  match s.store.op with
  | some o => match o.job with
    | .saveSlot _ _ _ => true
    | _ => false
  | none => false

/-- The Store Controller's state changed. -/
def updStore (f : Store → Store) (s : State) : State := { s with store := f s.store }

/-- A slot's image changed. -/
def updSlot (k : Fin 4) (f : SlotImage → SlotImage) (s : State) : State :=
  updStore (fun x => { x with slots := tset x.slots k (f (tget x.slots k)) }) s

/-- The page's image changed. -/
def updInfo (f : InfoImage → InfoImage) (s : State) : State := updStore (fun x => { x with info := f x.info }) s

/-! ## Beginning an operation (R170, R171, R173) -/

/-- The copy that a save takes: every class of a body as it stands (R171, R32). -/
def bodyNow (s : State) : SlotBody := { classes := s.cfg, flows := managementFlows s.flows }

/-- An operation begins in a phase that lasts ms milliseconds. -/
def beginOp (job : StoreJob) (phase : StorePhase) (total ms : Nat) (s : State) : State :=
  updStore (fun x => { x with op := some { job, phase, done := 0, total, ends := afterMs s.now ms } }) s

/-- ERASE_SLOT accepted (R170). -/
def beginErase (k : Fin 4) (s : State) : State := beginOp (.eraseSlot k) .erase 0 s.store.times.slotErase s

/-- SAVE_SLOT accepted (R171): body blocks, the header block and the marker block. -/
def beginSave (k : Fin 4) (s : State) : State :=
  let b := bodyNow s
  beginOp (.saveSlot k b (nextSaveCount s.store)) .program (bodyBlocks b + 2) s.store.times.program s

/-- INVALIDATE_SLOT taken on a marker that is not all zeros (R170). -/
def beginInvalidate (k : Fin 4) (s : State) : State := beginOp (.invalidateSlot k) .program 1 s.store.times.program s

/-- ERASE_INFO accepted (R173). -/
def beginEraseInfo (s : State) : State := beginOp .eraseInfo .erase 0 s.store.times.infoErase s

/-- WRITE_INFO accepted (R173). -/
def beginWriteInfo (addr : Mac) (label : List Byte) (s : State) : State :=
  beginOp (.writeInfo addr label) .program 2 s.store.times.program s

/-! ## The phases (R169) -/

/-- The phase under way has reached its end. -/
def storeDue (s : State) (phase : StorePhase) : Bool :=
  match s.store.op with
  | some o => decide (o.phase = phase) && reached s.now o.ends
  | none => false

/-- The bytes after an erase that ended as intended. -/
def erasedBy (job : StoreJob) (s : State) : State :=
  match job with
  | .eraseSlot k => updSlot k (fun _ => erasedSlot) s
  | .eraseInfo => updInfo (fun _ => erasedInfo) s
  | _ => s

/-- A slot after an erase that did not complete (R169): INVALID unless every byte reads as ones. -/
def cutSlot (left : EraseLeftover) (x : SlotImage) : SlotImage :=
  if x.erased then x
  else
    match left with
    | .allOnes => erasedSlot
    | .untouched => { x with body := none, header := none }
    | .damaged m => { erased := false, body := none, header := none, marker := m }

/-- The page after an erase that did not complete (R169). -/
def cutInfo (left : EraseLeftover) (free : Mac × List Byte) (x : InfoImage) : InfoImage :=
  if x.erased then x
  else
    match left with
    | .allOnes => erasedInfo
    | .untouched => x
    | .damaged m => { erased := false, content := some free, marker := m }

/-- The bytes after an erase that a reset has cut short (R169): a free value says which. -/
def cutErase (job : StoreJob) (s : State) : State :=
  let (n, s1) := takeFree s
  let (m, s2) := takeFree s1
  match job with
  | .eraseSlot k => updSlot k (cutSlot (Config.eraseLeftover n)) s2
  | .eraseInfo => updInfo (cutInfo (Config.eraseLeftover n) ((Config.cutPage m).1, (Config.cutPage m).2.toList)) s2
  | _ => s

/-- The bytes after an erase whose read-back differs: not every byte reads as ones (R169). -/
def failedErase (job : StoreJob) (s : State) : State :=
  let (n, s1) := takeFree s
  let (m, s2) := takeFree s1
  let marker : Byte := match Config.eraseLeftover n with
    | .damaged v => v
    | _ => markerNone
  match job with
  | .eraseSlot k => updSlot k (fun _ => { erased := false, body := none, header := none, marker }) s2
  | .eraseInfo =>
    updInfo (fun _ => { erased := false, content := some ((Config.cutPage m).1, (Config.cutPage m).2.toList), marker }) s2
  | _ => s

/-- The bytes after block n of an operation has been programmed as intended (R170, R171, R173). -/
def programmedBy (job : StoreJob) (total n : Nat) (s : State) : State :=
  match job with
  | .saveSlot k b count =>
    if n = total then updSlot k (fun x => { x with erased := false, marker := markerValid }) s
    else if n + 1 = total then
      updSlot k (fun x => { x with erased := false, header := some { check := checkOf b, saveCount := count } }) s
    else if n + 2 = total then updSlot k (fun x => { x with erased := false, body := some b }) s
    else updSlot k (fun x => { x with erased := false }) s
  | .invalidateSlot k => updSlot k (fun x => { x with erased := false, marker := markerInvalid }) s
  | .writeInfo addr label =>
    if n = total then updInfo (fun x => { x with erased := false, marker := markerValid }) s
    else updInfo (fun x => { x with erased := false, content := some (addr, label) }) s
  | _ => s

/-- A marker after a program of it that did not complete: unmarked or damaged (R168). -/
def markerCut (n : Nat) : Byte :=
  if Config.cutUnmarked n then markerNone else damagedMarker (Config.cutMarker n)

/-- The bytes after the program of block n did not complete, by a reset or a failed read-back (R169, R170, R171,
R173). -/
def cutProgram (job : StoreJob) (total n : Nat) (s : State) : State :=
  let (f, s1) := takeFree s
  match job with
  | .saveSlot k _ _ =>
    updSlot k (fun x => { x with erased := false, marker := if n = total then markerCut f else x.marker }) s1
  | .invalidateSlot k =>
    updSlot k (fun x => { x with erased := false, marker := damagedMarker (Config.cutMarker f) }) s1
  | .writeInfo _ _ =>
    updInfo (fun x => { x with erased := false, marker := if n = total then markerCut f else x.marker }) s1
  | _ => s

/-- The operation ends with a last result (R169). -/
def endOp (done : Bool) (o : StoreOp) (s : State) : State :=
  updStore (fun x => { x with op := none, last := some { done, op := jobName o.job, slot := jobSlot o.job } }) s

/-- The operation goes on in a phase that ends ms milliseconds after the end of the one before. -/
def nextStorePhase (phase : StorePhase) (done ms : Nat) (o : StoreOp) (s : State) : State :=
  updStore (fun x => { x with op := some { o with phase, done, ends := afterMs o.ends ms } }) s

/-- A read-back that differs ends the operation at once (R169). -/
def failOp (o : StoreOp) (s : State) : State := raise .storeFailed none (endOp false o s)

/-- An erase ends (R169). -/
def eraseEnds (ok : Bool) (s : State) : State :=
  match s.store.op with
  | some o =>
    if ok then nextStorePhase .recovery o.done s.store.times.recovery o (erasedBy o.job s)
    else failOp o (failedErase o.job s)
  | none => s

/-- A block program ends (R169, R171). An invalidate never fails its read-back (R170). -/
def blockEnds (ok : Bool) (s : State) : State :=
  match s.store.op with
  | some o =>
    let n := o.done + 1
    if ok || decide (jobName o.job = .invalidateSlot) then
      let s1 := programmedBy o.job o.total n s
      if n < o.total then nextStorePhase .program n s.store.times.program o s1
      else nextStorePhase .recovery n s.store.times.recovery o s1
    else failOp o (cutProgram o.job o.total n s)
  | none => s

/-- The running copy after a WRITE_INFO (R173). -/
def takeCopy (job : StoreJob) (s : State) : State :=
  match job with
  | .writeInfo addr label => updStore (fun x => { x with runAddr := addr, runLabel := label }) s
  | _ => s

/-- The recovery ends: last result DONE, IDLE, and STORE_DONE but for an invalidate (R169, R173). -/
def recoveryEnds (s : State) : State :=
  match s.store.op with
  | some o =>
    let s1 := endOp true o (takeCopy o.job s)
    if jobName o.job = .invalidateSlot then s1 else raise .storeDone none s1
  | none => s

/-- A reset ends the operation under way and leaves the bytes as far as they had come (R169). -/
def cutOp (s : State) : State :=
  match s.store.op with
  | some o =>
    let s1 := match o.phase with
      | .erase => cutErase o.job s
      | .program => cutProgram o.job o.total (o.done + 1) s
      | .recovery => s
    updStore (fun x => { x with op := none }) s1
  | none => s

/-- The running copy read from the page (R168). -/
def readPage (s : State) : State :=
  updStore (fun x =>
    match x.info.content with
    | some (addr, label) =>
      if x.info.marker = markerValid then { x with runAddr := addr, runLabel := label }
      else { x with runAddr := defaultAddress, runLabel := emptyLabel }
    | none => { x with runAddr := defaultAddress, runLabel := emptyLabel }) s

/-! ## Loading (R172) -/

/-- The body of a slot that passes the three stages of R172. -/
def loadable (s : State) (k : Fin 4) : Option SlotBody :=
  if slotReport s.store k = .valid then
    match (tget s.store.slots k).body with
    | some b => if shareLaw b.classes.tenants b.classes.sets then some b else none
    | none => none
  else none

/-- The active flags of two sets of tenant records differ. -/
def activeChanged (a b : Vector TenantConfig 8) : Bool :=
  (List.finRange 8).any fun t => (tget a t).active != (tget b t).active

/-- The depths and the reflect rates of the buckets taken from the running classes (R86, R87). -/
def applyBuckets (s : State) : State :=
  let s1 := (List.finRange 8).foldl (fun s t => setDepth t (s.tenantCfg t).depth s) s
  setRate (.reflect .l1) s1.cfg.links.l1.reflectAllowance (setRate (.reflect .l0) s1.cfg.links.l0.reflectAllowance s1)

/-- Every class of a body replaces its running counterpart in one step (R172, R33); a changed active flag is an event
for the arbiters (R91). -/
def replaceClasses (b : SlotBody) (s : State) : State :=
  let s1 := applyBuckets { s with cfg := b.classes, flows := loadedFlows b.flows }
  if activeChanged s.cfg.tenants b.classes.tenants then kickBackhaul s1 else s1

/-- Link Control applies the loaded tables of a link whose E_L was el0, and reports it (R40, R58). DESIGN CHOICE (log
entry 35): PROFILE_UNKNOWN is raised before the report. -/
def applyLink (l : Link) (el0 : Nat) (s : State) : State :=
  let s1 := raiseIfUnknown l s
  reportLink l el0 (s1.inService l) s1

/-- A successful LOAD_SLOT (R172), in the order of its five steps. DESIGN CHOICE (log entry 35): within a step L0 goes
before L1. DEDUCED (log entry 37): the entries that fire within the load are counted in the firing record. -/
def loadBody (b : SlotBody) (s : State) : State :=
  let again := qualifyingRuns s
  let el0 := s.el .l0
  let el1 := s.el .l1
  let s1 := abortRuns (replaceClasses b s)
  let s2 := rerun again (applyLink .l1 el1 (applyLink .l0 el0 s1))
  fireEntries (recompute (reportReflects s2))

end Sys2Proof.Machine
end

