-- ==== Sys2Proof/Machine/Startup.lean ====
section
/-!
DEFINITION. The Start-up Controller: the resets (R176), the start-up sequence (R174, R175), and RESTART TRAFFIC.
-/

namespace Sys2Proof.Machine

/-! ## Resets that assert reset-out (R176) -/

/-- The flag of a reset in the reset cause record (12.5). -/
def causeOf : ResetKind → BitVec 5
  | .powerOn => 1#5
  | .supplyLow => 2#5
  | .pin => 4#5
  | .restartFull => 8#5

/-- The flag of RESTART TRAFFIC (12.5). -/
def causeTraffic : BitVec 5 := 16#5

/-- The reset cause record as a reset begins: power-on sets it to POWER_ON only, the others add their flag (R176). -/
def causesAfter (k : ResetKind) (c : BitVec 5) : BitVec 5 :=
  match k with
  | .powerOn => causeOf .powerOn
  | _ => c ||| causeOf k

/-- The 10 µs of RESTART FULL (R176), in ns. -/
def restartFullNs : Nat := 10000

/-- When the 10 µs of a RESTART FULL end, on the counter that the reset sets to 0. -/
def restartEndsAfter (k : ResetKind) (s : State) : Option Instant :=
  match k with
  | .restartFull => some (afterNs 0 restartFullNs)
  | _ => s.startup.restartEnds.map fun t => t - s.now

/-- A reset other than RESTART TRAFFIC begins (R176): each block takes its power-on value, the store operation under way
ends, the retired-group list is kept except at power-on, the reset-out pin is asserted, and the device is in RESET. -/
def hardReset (k : ResetKind) (s0 : State) : State :=
  let s := cutOp s0
  let retired := if k = .powerOn then [] else s.pool.retired
  { State.reset with
    pool := { free := cellsWithout retired, retired }
    store := { s.store with op := none, last := none, times := factoryTimes }
    startup :=
      { state := .reset, resetOut := true, straps := s.startup.straps, pins := s.startup.pins
        held := if s.startup.held.contains k then s.startup.held else s.startup.held ++ [k]
        causes := causesAfter k s.startup.causes, restartEnds := restartEndsAfter k s, group := none, loadEnds := none }
    freeCount := s.freeCount
    pending := s.pending }

/-- The Start-up Controller's state changed. -/
def updStartup (f : Startup → Startup) (s : State) : State := { s with startup := f s.startup }

/-! ## Start-up (R174) -/

/-- The time of a group's test, in ns. -/
def groupTestNs : Nat := 250000

/-- The time of a block's read in LOADING, in ns. -/
def blockReadNs : Nat := 50000

/-- The first group from n on that is not on the retired-group list. -/
def nextGroup (n : Nat) (retired : List Nat) : Option Nat :=
  (List.range 32).find? fun g => decide (n ≤ g) && !retired.contains g

/-- A group put at its place in the retired-group list (R16). -/
def insertGroup (g : Nat) : List Nat → List Nat
  | [] => [g]
  | x :: rest => if g < x then g :: x :: rest else if g = x then x :: rest else x :: insertGroup g rest

/-- The blocks that the start-up read of a slot takes: those of the body, the header and the marker; for a slot that
holds no whole body a free value (R174). -/
def readBlocks (x : SlotImage) (n : Nat) : Nat :=
  match x.body with
  | some b => bodyBlocks b + 2
  | none => Config.loadBlocks n

/-- Entry into FAULT (R175); the reset-out pin is released (R176). -/
def enterFault (s : State) : State :=
  noticeAtEntry (updStartup (fun x => { x with state := .fault, resetOut := false, group := none }) s)

/-- Entry into LOADING (R174). -/
def enterLoading (s : State) : State :=
  let (n, s1) := takeFree s
  let blocks := readBlocks (tget s1.store.slots s1.startup.straps.slotSel) n
  updStartup (fun x =>
    { x with state := .loading, group := none, loadEnds := some (afterNs s1.now (blocks * blockReadNs)) }) s1

/-- The check ends (R174): the pool holds every cell of no retired group, and more than 4 retired groups is FAULT. -/
def endCheck (s : State) : State :=
  let s1 := { s with pool := { s.pool with free := cellsWithout s.pool.retired } }
  if 4 < s1.pool.retired.length then enterFault s1 else enterLoading s1

/-- The test of the next group from n on, or the end of the check (R174). -/
def checkFrom (n : Nat) (start : Instant) (s : State) : State :=
  match nextGroup n s.pool.retired with
  | some g => updStartup (fun x => { x with group := some (g, afterNs start groupTestNs) }) s
  | none => endCheck s

/-- The release of the last reset (R174): the straps are latched, and CHECKING begins with the page read. -/
def released (s : State) : State :=
  let s1 := updStartup (fun x => { x with state := .checking, straps := x.pins, restartEnds := none }) s
  checkFrom 0 s1.now (readPage s1)

/-- The supply monitor's delay, in ns (12.6). -/
def monitorDelayNs : Nat := 50000

/-- The reset that a release ends. -/
def resetOf : Release → ResetKind
  | .powerOn _ => .powerOn
  | .supplyLow => .supplyLow
  | .pin => .pin
  | .restartFull => .restartFull

/-- The condition that a kind of reset sets on its release (R176): power-on waits until the core supply has been above
the threshold plus the hysteresis for the monitor delay, and RESTART FULL until 10 µs after it began. That the supply has
risen, or the pin has been released, is the event itself. -/
def releaseReady (k : Release) (s : State) : Bool :=
  match k with
  | .powerOn aboveNs => decide (monitorDelayNs ≤ aboveNs)
  | .supplyLow | .pin => true
  | .restartFull =>
    match s.startup.restartEnds with
    | none => true
    | some t => reached s.now t

/-- A reset under way can be released (R176). -/
def releasable (k : Release) (s : State) : Bool :=
  s.startup.held.contains (resetOf k) && decide (s.startup.state = .reset) && releaseReady k s

/-- One reset is released; the device stays in RESET until the last is (R176). -/
def releaseReset (k : ResetKind) (straps : Straps) (s : State) : State :=
  let s1 := updStartup (fun x => { x with held := x.held.filter (fun h => h != k), pins := straps }) s
  if s1.startup.held.isEmpty then released s1 else s1

/-- The test of the group under way has reached its end. -/
def groupDue (s : State) : Bool :=
  match s.startup.group with
  | some (_, t) => decide (s.startup.state = .checking) && reached s.now t
  | none => false

/-- A group found bad is retired (R16). -/
def retireGroup (g : Nat) (s : State) : State :=
  raise .bufferRetired (some g)
    { s with pool := { free := s.pool.free.filter (fun c => c / 256 != g), retired := insertGroup g s.pool.retired } }

/-- The test of the group under way ends (R174). -/
def groupEnds (bad : Bool) (s : State) : State :=
  match s.startup.group with
  | some (g, t) => checkFrom (g + 1) t (if bad then retireGroup g s else s)
  | none => s

/-- The start-up read has reached its end. -/
def loadDue (s : State) : Bool :=
  match s.startup.loadEnds with
  | some t => decide (s.startup.state = .loading) && reached s.now t
  | none => false

/-- The classes of the SLOT_SEL slot take the place of the factory defaults (R174): buckets take their depths and rates
(R88), and each link's REFLECT entries are reported (R33). Nothing is computed before RUNNING (R82). -/
def startupLoad (b : SlotBody) (s : State) : State :=
  let s1 := replaceClasses b s
  let s2 := setRate (.pacing .l1) (s1.el .l1) (setRate (.pacing .l0) (s1.el .l0) s1)
  { s2 with
    share := { s2.share with
      reflectPresent := ⟨decide (0 < reflectCount .l0 s2.flows), decide (0 < reflectCount .l1 s2.flows)⟩ } }

/-- Entry into RUNNING (R174): the reset-out pin is released, the first computation is made, the first demand window
starts, and the notice of R165 is judged. -/
def enterRunning (s : State) : State :=
  let s1 := updStartup (fun x => { x with state := .running, resetOut := false, loadEnds := none }) s
  noticeAtEntry (startWindow (recompute s1))

/-- The start-up read ends (R174). -/
def startupRead (s : State) : State :=
  enterRunning
    (match loadable s s.startup.straps.slotSel with
     | some b => startupLoad b s
     | none => raise .storeInvalid none s)

/-! ## RESTART TRAFFIC (R19, R70, R88, R176) -/

/-- Every descriptor of the Queue Set. -/
def QueueSet.all (q : QueueSet) : List Descriptor :=
  q.tenant.toList.flatten ++ q.timing ++ q.test.l0 ++ q.test.l1 ++ (Port.list.map fun p => q.down.get p).flatten

/-- Every queue flushed, the cells freed, nothing counted (R19). -/
def flushAll (s : State) : State := { freeAll s.queues.all s with queues := emptyQueues }

/-- A cause added to the record (R176). -/
def addCause (c : BitVec 5) (s : State) : State := updStartup (fun x => { x with causes := x.causes ||| c }) s

/-- Every demand byte count at 0 (R14). -/
def clearDemand (s : State) : State := { s with tenants := s.tenants.map fun u => { u with demandBytes := 0 } }

/-- RESTART TRAFFIC (R176): every queue is flushed (R19), the demand byte counts are 0 (R20), the buckets are zeroed and
the pointers are at T7 (R88, R94), and the flag is added. In FAULT that is all (R175); in RUNNING a demand window starts
(R70), and the runs under way are aborted and requested again (R58). -/
def restartTraffic (s : State) : State :=
  let s1 := clearDemand (zeroBuckets (addCause causeTraffic (flushAll s)))
  if s1.startup.state = .fault then s1
  else
    let again := qualifyingRuns s1
    kickBackhaul (rerun again (abortRuns (startWindow s1)))

end Sys2Proof.Machine
end

