-- ==== Sys2Proof/Machine/Reads.lean ====
section
/-!
DEFINITION. What a READ of each record class returns (R159, R178): the fields of the record in the order of the rule
that lists them, and the values that the rule adds. A field that a record does not carry is not returned; NONE is a
field of no bytes.
-/

namespace Sys2Proof.Machine

/-! ## Items -/

/-- A numeric field. -/
def nf (id n : Nat) : Item := .field id (.num n)

/-- A signed field. -/
def zf (id : Nat) (i : Int) : Item := .field id (.int i)

/-- An enumeration. -/
def ef (id code : Nat) : Item := .field id (.enum code)

/-- A flag: 1 for yes, present, set, high and valid. -/
def bf (id : Nat) (b : Bool) : Item := ef id (codeBool b)

/-- A number or NONE. -/
def onf (id : Nat) (n : Option Nat) : Item :=
  match n with
  | none => .field id .none
  | some v => nf id v

/-- An elapsed time in whole nanoseconds, or NONE. -/
def otf (id : Nat) (t : Option Ns) : Item := onf id (t.map fun t => t.toNat)

/-- An expiry in whole nanoseconds, or NONE. -/
def oif (id : Nat) (t : Option Instant) : Item := otf id (t.map wholeNs)

/-- A code or NONE. -/
def oef (id : Nat) (n : Option Nat) : Item :=
  match n with
  | none => .field id .none
  | some v => ef id v

/-- Values under identifiers that count on from one. -/
def numbered (start : Nat) (ns : List Nat) : List Item := ns.mapIdx fun i n => nf (start + i) n

/-! ## Ports (R1, R3) -/

/-- The fields of a port record that its role carries: 1 to 7, and the counters from 8 on. -/
def portItems (p : Port) (s : State) : List Item :=
  let c := s.cfg.ports.get p
  let u := s.port p
  [ef 1 (codeRole (roleOf p))]
    ++ (if roleOf p = .backhaul then [] else [nf 2 c.defaultTenant.val])
    ++ [bf 3 c.mgmt, bf 4 c.noticeDest, nf 5 c.maxLen]
    ++ (if roleOf p = .access then [nf 6 c.downLimit] else [])
    ++ [bf 7 u.linkUp] ++ numbered 8 (u.counters.toList.map fun n => n.toNat)

/-! ## Flows (R21, R27) -/

/-- A field that a record carries, or no field. -/
def optItem (f : Nat → Item) (n : Option Nat) : List Item :=
  match n with
  | none => []
  | some v => [f v]

/-- The fields of an entry that are present (R21); the ports and the preference are enumerations of 12.5. -/
def flowFields (e : FlowEntry) : List Item :=
  let x := e.spec
  [ef 1 (codeOf x.key.port), nf 2 (codeOfVlan x.key.vlan), ef 3 (codeAction x.action)]
    ++ optItem (nf 4) (x.tenant.map fun t => t.val) ++ optItem (ef 5) (x.egress.map codeOf)
    ++ optItem (ef 6) (x.pref.map codePref) ++ optItem (nf 7) x.offset ++ [ef 8 (codeOwner e.owner), nf 9 e.hits.toNat, otf 10 e.lastHit]
    ++ (if e.hasLastLink then [oef 11 (e.lastLink.map fun l => l.num)] else [])

/-- The fields of an entry, and its slot number after the identifiers of the summary. -/
def flowItems (slot : Nat) (e : FlowEntry) : List Item := flowFields e ++ [nf 70 slot]

/-- The table summary (R27). -/
def flowSummary (s : State) : List Item :=
  let t := s.flows
  let owned (o : Owner) : Nat := (t.filter fun x => decide (x.2.owner = o)).length
  [nf 64 t.length, nf 65 (owned .management), nf 66 (owned .test), nf 67 (reflectCount .l0 t),
    nf 68 (reflectCount .l1 t), onf 69 (lowestFree t)]

/-! ## Capacity sharing (R60, R63, R68, R79) -/

/-- The fields of a tenant record (R60). -/
def tenantItems (t : Tenant) (s : State) : List Item :=
  let c := s.tenantCfg t
  let u := s.tenant t
  [bf 1 c.active, nf 2 c.queueLimit, nf 3 c.maxAge, nf 4 c.depth, nf 5 u.demand, nf 6 u.allocation,
    nf 7 u.accepted.toNat, nf 8 u.dropped.toNat, nf 9 u.aged.toNat, nf 10 u.departed.toNat]

/-- The 24 values of a set and the active set index (R63). -/
def shareSetItems (k : SetId) (s : State) : List Item :=
  numbered 1 (((tget s.cfg.sets k).toList.map fun x => [x.guarantee, x.weight, x.cap]).flatten)
    ++ [nf 25 s.cfg.activeSet.val]

/-- The calculator parameters (R68). -/
def paramItems (s : State) : List Item := [nf 1 s.cfg.params.windowMs, nf 2 s.cfg.params.tRes]

/-- A link's part of the allocation table. -/
def allocLinkItems (start : Nat) (x : AllocLink) : List Item :=
  [bf start x.inService, nf (start + 1) x.el, nf (start + 2) x.testRate, bf (start + 3) x.reflectPresent,
    nf (start + 4) x.allowance, nf (start + 5) x.xl]

/-- The allocation table, with the free cells, the retired groups and their number as they stand (R79, R15, R16). DESIGN
CHOICE (log entry 21): the identifiers from 64 on, and one byte for each group of the list. -/
def allocationItems (s : State) : List Item :=
  let t := s.share.table
  [nf 1 t.u, nf 2 t.g, nf 3 t.tRes, nf 4 t.x] ++ allocLinkItems 5 t.links.l0 ++ allocLinkItems 11 t.links.l1
    ++ [nf 17 t.activeSet.val]
    ++ (t.tenants.toList.mapIdx fun i x =>
          [bf (18 + 4 * i) x.active, nf (19 + 4 * i) x.demand, nf (20 + 4 * i) x.guarantee, nf (21 + 4 * i) x.allocation]).flatten
    ++ [nf 50 t.unassigned, otf 51 t.computedAt, nf 52 t.computations.toNat, nf 64 s.pool.free.length,
        .field 65 (.bytes (s.pool.retired.map fun g => BitVec.ofNat 8 g)), nf 66 s.pool.retired.length]

/-! ## Links (R35, R37 to R39) -/

/-- The nanoseconds until a running timer expires (R35). -/
def remaining (s : State) (t : Instant) : Nat := (wholeNs t - s.nowNs).toNat

/-- A running timer's remainder; a stopped timer has none, and the identifiers of the others do not move up (DESIGN
CHOICE, log entry 21). -/
def timerItem (id : Nat) (s : State) (t : Option Instant) : List Item :=
  match t with
  | none => []
  | some t => [nf id (remaining s t)]

/-- The fields of a link record, the values of R38 and R39, and the remainders of its timers (R35). DESIGN CHOICE (log
entry 21): the timer field of a stopped timer is NONE. -/
def linkItems (l : Link) (s : State) : List Item :=
  let u := s.link l
  let c := s.cfg.links.get l
  let ps := s.cfg.profiles.get l
  let k := u.counters
  let force := profileInForce u ps
  [ef 1 (codeLinkState u.state), bf 2 u.carrier, nf 3 u.current.val, onf 4 (u.pending.map fun p => p.val), bf 5 u.stale,
    (match u.level with
     | none => .field 6 .none
     | some v => zf 6 v.toInt),
    ef 7 (codeCause u.barCause), bf 8 u.admitted, onf 9 (c.startIndex.map fun i => i.val), nf 10 c.testVlan,
    nf 11 c.holdOff, nf 12 c.supervision, nf 13 c.pendingTimeout, nf 14 c.reflectAllowance, oif 15 u.supTimer,
    oif 16 u.pendTimer, oif 17 u.holdTimer, nf 18 k.currentTaken.toNat, nf 19 k.pendingTaken.toNat,
    nf 20 k.pendingIgnored.toNat, nf 21 k.malformed.toNat, nf 22 k.pendingTimeouts.toNat, nf 23 k.fades.toNat,
    nf 24 k.staleOnsets.toNat, nf 64 force.1.val, ef 65 (codeSource force.2), nf 66 (capacityC u ps),
    nf 67 (capacityE u ps), nf 68 (airDelayOf u ps)]
    ++ timerItem 69 s u.supTimer ++ timerItem 70 s u.pendTimer ++ timerItem 71 s u.holdTimer

/-- The fields of a profile entry (R37). -/
def profileItems (l : Link) (i : Fin 16) (s : State) : List Item :=
  let p := tget (s.cfg.profiles.get l) i
  [bf 1 p.valid, nf 2 p.rate, nf 3 p.overhead, nf 4 p.airDelay]

/-! ## Qualification (R139, R141, R142) -/

/-- The fields of a step record under identifiers from start on (R139). -/
def stepFields (start : Nat) (r : StepRecord) : List Item :=
  [ef start (codeStep r.kind)]
    ++ numbered (start + 1) [r.length, r.rate, r.interval, r.settle, r.measure, r.recover, r.maxLoss, r.maxRoundTrip,
        r.maxVariation]
    ++ [bf (start + 10) r.last]

/-- The fields of a step record (R139). -/
def stepItems (i : Fin 32) (s : State) : List Item := stepFields 1 (tget s.cfg.steps i)

/-- The generator's credit and residue, brought up to the moment of the read, or its next probe time (R141, R146). The
residue is given in the unit of R84. -/
def generatorItems (step : Option StepRecord) (g : Generator) (now : Instant) : List Item :=
  match g, step with
  | .load credit residue last, some r =>
    let x := loadCredit r credit residue last now
    [nf 23 x.1, nf 24 (x.2 / 65536), onf 25 none]
  | .probe next, _ => [onf 23 none, onf 24 none, oif 25 (some next)]
  | _, _ => [onf 23 none, onf 24 none, onf 25 none]

/-- The fields of a programme context (R141). -/
def contextItems (l : Link) (s : State) : List Item :=
  let c := s.ctx l
  [ef 1 (codeRun c.state), nf 2 c.runNo.toNat, bf 3 c.inService, ef 4 (codeCause c.cause),
    onf 5 (c.first.map fun i => i.val), onf 6 (c.last.map fun i => i.val), onf 7 (c.current.map fun i => i.val)]
    ++ (match c.step with
        | none => []
        | some r => stepFields 8 r)
    ++ [oef 19 (c.testKey.map fun k => codeOf k.port), onf 20 (c.testKey.map fun k => codeOfVlan k.vlan),
        onf 21 c.slot, oif 22 c.phaseEnd]
    ++ generatorItems c.step c.gen s.now
    ++ [nf 26 c.nextSeq.toNat, onf 27 (c.range.map fun r => r.1.toNat), onf 28 (c.range.map fun r => r.2.toNat),
        nf 29 c.sent.toNat, nf 30 c.returned.toNat, onf 31 c.minRt, onf 32 c.maxRt, nf 33 c.sumRt.toNat]

/-- The fields of a result record; an empty record has none (R142). DESIGN CHOICE (log entry 11): the verdict is 1 for
PASS and 0 for FAIL. -/
def resultItems (i : Fin 32) (s : State) : List Item :=
  match tget s.qual.results i with
  | none => []
  | some r =>
    [nf 1 r.link.num, nf 2 r.runNo.toNat, ef 3 (codeStep r.kind), nf 4 r.sent.toNat, nf 5 r.returned.toNat, nf 6 r.excess,
      nf 7 r.loss, onf 8 r.minRt, onf 9 r.meanRt, onf 10 r.maxRt, bf 11 r.pass, nf 12 r.writtenAt.toNat]

/-! ## The schedule (R129, R131) -/

/-- An entry's time, set and tag. -/
def entryItems (e : ScheduleEntry) : List Item := [nf 1 e.time, nf 2 e.set.val, nf 3 e.tag]

/-- An entry's position, after the identifiers of the summary (R131). -/
def positionItem (n : Nat) : Item := nf 77 n

/-- The firing record (R129). -/
def firingItems (x : FiringRecord) : List Item :=
  let g (f : Firing → Nat) : Option Nat := x.last.map f
  [nf 69 x.fired.toNat, onf 70 (g fun f => f.count), onf 71 (g fun f => f.time), onf 72 (g fun f => f.set.val),
    onf 73 (g fun f => f.tag), onf 74 (g fun f => f.siteSeconds), onf 75 (g fun f => f.siteNanos),
    onf 76 (g fun f => f.elapsed.toNat)]

/-- The summary of the schedule (R131). -/
def scheduleSummary (s : State) : List Item :=
  [nf 64 s.cfg.schedule.length, onf 65 (s.cfg.schedule.head?.map fun e => e.time), bf 66 s.time.valid,
    nf 67 s.time.site.seconds, nf 68 s.cfg.activeSet.val] ++ firingItems s.firing

/-! ## Time (R101, R103 to R105, R115) -/

/-- The timing configuration and the servo record, the clocks, and the remainders of the timers. -/
def timingItems (s : State) : List Item :=
  let c := s.cfg.timing
  let v := s.time.servo
  numbered 1 [c.comp, c.stepLimit, c.lockThreshold, c.lockCount, c.unlockCount, c.gainShift, c.holdoverLimit, 1500]
    ++ [ef 9 (codeServo v.state), zf 10 v.f, zf 11 v.slew, otf 12 v.slewEnd, otf 13 v.reference,
        (match v.phaseError with
         | none => .field 14 .none
         | some e => zf 14 e),
        nf 15 v.lockCtr, nf 16 v.unlockCtr, otf 17 v.holdoverStart, nf 18 v.accepted.toNat, nf 19 v.rejected.toNat,
        nf 20 v.steps.toNat, nf 64 s.nowNs.toNat, nf 65 s.time.site.seconds, nf 66 s.time.site.nanos, bf 67 s.time.valid]
    ++ (match v.reference with
        | none => []
        | some r => [nf 68 (1500000000 - sinceNs s.nowNs r)])
    ++ (match v.state, v.holdoverEnds with
        | .holdover, some t => [nf 69 (t - s.nowNs).toNat]
        | _, _ => [])

/-- The fields of a pulse-output record (R115). -/
def pulseItems (k : Fin 4) (s : State) : List Item :=
  let c := tget s.cfg.pulses k
  let u := tget s.time.pulses k
  [nf 1 c.advance, nf 2 c.width, ef 3 (codeSquelch c.policy), bf 4 u.high, oif 5 u.fall, nf 6 u.pulses.toNat]

/-! ## Conditions and notices (R163 to R165) -/

/-- The notice configuration (R163). -/
def noticeItems (s : State) : List Item :=
  numbered 1 s.cfg.notice.levels.toList ++ [nf 25 s.cfg.notice.interval, nf 26 s.cfg.notice.address.toNat]

/-- The notice state (R165). -/
def noticeStateItems (s : State) : List Item :=
  let n := s.mgmt.notice
  [otf 64 n.last, bf 65 n.pending, otf 66 n.due, nf 67 n.built.toNat, nf 68 n.refused.toNat]

/-- Every latch that is latched, in a notice's order, with the kinds of level 0 after them (R164). -/
def latchedRecords (s : State) : List LatchRecord :=
  reportable s ++ (allConds.filter fun c => (s.latch c).latched && decide (s.level c = 0)).map s.latchRecord

/-- The answer to a CONDITION READ (R164). DESIGN CHOICE (log entry 21): the latch records stand before the fields of
the notice state. -/
def conditionItems (n : CondName) (s : State) : List Item :=
  .latches (match n with
            | .one c => [s.latchRecord c]
            | .all => latchedRecords s) :: noticeStateItems s

/-! ## The store and start-up (R168, R169, R176) -/

/-- The code of what an operation concerns: a slot, or 4 for the page. -/
def codeConcerned (k : Option (Fin 4)) : Nat :=
  match k with
  | some k => k.val
  | none => 4

/-- The elapsed time at which the phase under way ends (R169): a PROGRAM phase ends with its last block. -/
def phaseEnds (t : StoreTimes) (o : StoreOp) : Instant :=
  match o.phase with
  | .program => afterMs o.ends ((o.total - (o.done + 1)) * t.program)
  | _ => o.ends

/-- The operation under way (R169). DESIGN CHOICE (log entry 21): NONE throughout while there is none. -/
def operationItems (t : StoreTimes) (o : Option StoreOp) : List Item :=
  match o with
  | none => [onf 2 none, onf 3 none, onf 4 none, onf 5 none, onf 6 none]
  | some o =>
    [ef 2 (codeConcerned (jobSlot o.job)), ef 3 (codePhase o.phase), nf 4 o.done, nf 5 o.total, oif 6 (some (phaseEnds t o))]

/-- The last result with its operation and slot (R169): NONE 0, DONE 1, FAILED 2. DESIGN CHOICE (log entry 21): the
operation and the slot of no result are NONE. -/
def lastItems (x : Option LastResult) : List Item :=
  match x with
  | none => [ef 7 0, onf 8 none, onf 9 none]
  | some r => [ef 7 (if r.done then 1 else 2), ef 8 (codeStoreOp r.op), ef 9 (codeConcerned r.slot)]

/-- The save count of a VALID slot (R169). -/
def validCount (x : Store) (k : Fin 4) : Option Nat :=
  if slotReport x k = .valid then (tget x.slots k).header.map fun h => h.saveCount else none

/-- The store status record (R169). DESIGN CHOICE (log entries 11 and 21): the state is sent as IDLE 0 and BUSY 1, and
the save count of a slot that is not VALID as NONE. -/
def storeItems (s : State) : List Item :=
  let x := s.store
  [bf 1 x.op.isSome] ++ operationItems x.times x.op ++ lastItems x.last
    ++ (List.finRange 4).map (fun k => ef (10 + k.val) (codeReport (slotReport x k)))
    ++ (List.finRange 4).map (fun k => onf (14 + k.val) (validCount x k))
    ++ [ef 18 (codeReport (pageReport x))]
    ++ numbered 19 [x.times.slotErase, x.times.program, x.times.recovery, x.times.infoErase]

/-- The running copy of the information page and the report of the page (R168). DESIGN CHOICE (log entry 21): the
identifiers 1 to 3. -/
def infoItems (s : State) : List Item :=
  [nf 1 s.store.runAddr.toNat, .field 2 (.bytes s.store.runLabel), ef 3 (codeReport (pageReport s.store))]

/-- The reset cause record, the latched straps and the start-up state (R176). DESIGN CHOICE (log entry 21): the
identifiers 1 to 4. -/
def causeItems (s : State) : List Item :=
  let x := s.startup
  [ef 1 x.causes.toNat, nf 2 x.straps.slotSel.val, bf 3 x.straps.bringup, ef 4 (codeStart x.state)]

end Sys2Proof.Machine
end

