-- ==== Sys2Proof/Machine/Writes.lean ====
section
/-!
DEFINITION. What the WRITE and DELETE requests of each record class check and do (R159, R161), each by the rule that
owns the record.
-/

namespace Sys2Proof.Machine

/-! ## Replies -/

/-- What a command leaves to be done once its response has been offered (R160). -/
inductive After where
  | nothing
  | traffic
  | full
deriving DecidableEq, Repr

/-- What the execution of a request answers: the status, the body, and what follows the response. -/
structure Reply where
  status : Status
  body : List Item
  after : After
deriving DecidableEq, Repr

/-- A status without a body (R158); the state is unchanged (R161). -/
def refuse (st : Status) (s : State) : Reply × State := ({ status := st, body := [], after := .nothing }, s)

/-- OK with a body read from the state after the request (R158). -/
def okay (items : State → List Item) (s : State) : Reply × State :=
  ({ status := .ok, body := items s, after := .nothing }, s)

/-- The order of R161 for a class held in a slot body: form and content, then BUSY while a SAVE_SLOT runs, then the
rest. -/
def checked (valid : Bool) (f : State → Reply × State) (s : State) : Reply × State :=
  if !valid then refuse .invalidValue s else if saveRuns s then refuse .busy s else f s

/-- The running classes changed. -/
def updCfg (f : Classes → Classes) (s : State) : State := { s with cfg := f s.cfg }

/-! ## PORT (R2) -/

/-- The counters that a write carries equal those held. -/
def sameCounters (p : Port) (body : List Field) (s : State) : Bool :=
  (List.finRange 18).all fun i => same body (8 + i.val) (tget (s.port p).counters i).toNat

/-- The content of a PORT write (R2). -/
def portWriteOk (p : Port) (body : List Field) (s : State) : Bool :=
  (shapeTo 25).ok body && same body 1 (codeRole (roleOf p))
    && (decide (roleOf p ≠ .backhaul) || noneCarried body [2]) && inRange body 2 0 7 && flagOk body 3 && flagOk body 4
    && inRange body 5 1518 9216 && (decide (roleOf p = .access) || noneCarried body [6]) && inRange body 6 64 2048
    && same body 7 (codeBool (s.port p).linkUp) && sameCounters p body s

/-- A port's configuration with the carried fields. -/
def portWritten (body : List Field) (c : PortConfig) : PortConfig :=
  { defaultTenant := finOr body 2 c.defaultTenant, mgmt := flagOr body 3 c.mgmt, noticeDest := flagOr body 4 c.noticeDest
    maxLen := numOr body 5 c.maxLen, downLimit := numOr body 6 c.downLimit }

/-- Some port has management permitted (R2). -/
def anyMgmt (ports : PerPort PortConfig) : Bool := Port.list.any fun p => (ports.get p).mgmt

/-- A WRITE of the PORT class (R2). -/
def portClassWrite (sel : Selector) (body : List Field) (s : State) : Reply × State :=
  match selPort sel with
  | none => refuse .invalidValue s
  | some p =>
    checked (portWriteOk p body s) (fun s =>
      let ports := s.cfg.ports.set p (portWritten body (s.cfg.ports.get p))
      if anyMgmt ports then okay (portItems p) (updCfg (fun c => { c with ports }) s)
      else refuse .notPermitted s) s

/-! ## FLOW (R23 to R26) -/

/-- The action that a write names: FORWARD, TIMING, REFLECT or DISCARD (R24). -/
def actionOfCode (n : Nat) : Option FlowAction :=
  match n with
  | 1 => some .forward
  | 2 => some .timing
  | 3 => some .reflect
  | 4 => some .discard
  | _ => none

/-- The link preference of a code. -/
def prefOfCode (n : Nat) : Option Pref :=
  match n with
  | 0 => some .any
  | 1 => some .preferL0
  | 2 => some .preferL1
  | _ => none

/-- The tenant that a write names, when it is active (R24). -/
def activeTenant (body : List Field) (s : State) : Option Tenant :=
  ((num? body 4).bind (finOf 8)).filter fun t => (s.tenantCfg t).active

/-- The egress port that a write names: an access port or SP (R24). -/
def egressOf (body : List Field) : Option Port :=
  ((num? body 5).bind portOfCode).filter fun p => decide (roleOf p ≠ .backhaul)

/-- The link preference of a write: ANY when it is left out (R23). -/
def prefOf (body : List Field) : Option Pref :=
  match num? body 6 with
  | none => some .any
  | some n => prefOfCode n

/-- The correction offset of a write (R24). -/
def offsetOf (body : List Field) : Option Nat :=
  (num? body 7).filter fun n => decide (14 ≤ n ∧ n ≤ 9208)

/-- The fields that an action and the role of the ingress port give an entry (R23); none where the combination is not
allowed, a required field is missing or wrong, or a field is carried that the entry does not have. -/
def flowSpecOf (k : FlowKey) (body : List Field) (s : State) : Option FlowSpec :=
  let bare (a : FlowAction) : FlowSpec :=
    { key := k, action := a, tenant := none, egress := none, pref := none, offset := none }
  match (num? body 3).bind actionOfCode, roleOf k.port with
  | some .forward, .backhaul =>
    if noneCarried body [4, 6, 7] then (egressOf body).map fun e => { bare .forward with egress := some e } else none
  | some .forward, _ =>
    if noneCarried body [5, 7] then
      match activeTenant body s, prefOf body with
      | some t, some p => some { bare .forward with tenant := some t, pref := some p }
      | _, _ => none
    else none
  | some .timing, .backhaul =>
    if noneCarried body [4, 6] then
      match egressOf body, offsetOf body with
      | some e, some o => some { bare .timing with egress := some e, offset := some o }
      | _, _ => none
    else none
  | some .timing, _ =>
    if noneCarried body [5] then
      match activeTenant body s, prefOf body, offsetOf body with
      | some t, some p, some o => some { bare .timing with tenant := some t, pref := some p, offset := some o }
      | _, _, _ => none
    else none
  | some .reflect, .backhaul => if noneCarried body [4, 5, 6, 7] then some (bare .reflect) else none
  | some .discard, _ => if noneCarried body [4, 5, 6, 7] then some (bare .discard) else none
  | _, _ => none

/-- The content of a FLOW write (R24): the entry it writes, when every check passes. DESIGN CHOICE (log entry 23): the hit
count, the last-hit time and the last link may not be carried. -/
def flowWriteSpec (sel : Selector) (body : List Field) (s : State) : Option FlowSpec :=
  match selFlow sel with
  | some (.key k) =>
    if (shapeTo 11).ok body && same body 1 (codeOf k.port) && same body 2 (codeOfVlan k.vlan) && same body 8 0
        && noneCarried body [9, 10, 11] then
      flowSpecOf k body s
    else none
  | _ => none

/-- The placing of a written entry (R25). -/
def placeFlow (x : FlowSpec) (s : State) : Reply × State :=
  match findKey x.key s.flows with
  | none =>
    match lowestFree s.flows with
    | none => refuse .tableFull s
    | some n =>
      okay (fun _ => flowItems n (newEntry x .management))
        (setFlows (placeEntry n (newEntry x .management) s.flows) s)
  | some (n, e) =>
    if e.owner = .test then refuse .notPermitted s
    else
      okay (fun _ => flowItems n (newEntry x .management))
        (setFlows (updateSlot n (fun _ => newEntry x .management) s.flows) s)

/-- A WRITE of the FLOW class (R24, R25). -/
def flowClassWrite (sel : Selector) (body : List Field) (s : State) : Reply × State :=
  match flowWriteSpec sel body s with
  | none => refuse .invalidValue s
  | some x => checked true (placeFlow x) s

/-- The slot and entry that a FLOW request names (R26, R27). -/
def namedFlow (n : FlowName) (s : State) : Option (Nat × FlowEntry) :=
  match n with
  | .slot k => (slotEntry k s.flows).map fun e => (k, e)
  | .key k => findKey k s.flows

/-- The removal of a named entry (R26). -/
def deleteFlow (n : FlowName) (s : State) : Reply × State :=
  match namedFlow n s with
  | none => refuse .notFound s
  | some (k, e) =>
    if e.owner = .test then refuse .notPermitted s
    else okay (fun _ => [nf 70 k]) (setFlows (freeSlot k s.flows) s)

/-- A DELETE of the FLOW class (R26). -/
def flowClassDelete (sel : Selector) (body : List Field) (s : State) : Reply × State :=
  match selFlow sel with
  | none => refuse .invalidValue s
  | some n => checked ((shapeTo 11).ok body) (deleteFlow n) s

/-! ## TENANT (R61, R62) -/

/-- The content of a TENANT write (R61). -/
def tenantWriteOk (body : List Field) : Bool :=
  (shapeTo 10).ok body && noneCarried body [5, 6, 7, 8, 9, 10] && flagOk body 1 && inRange body 2 16 4096
    && inRange body 3 1 1000

/-- A tenant's record with the carried fields; the depth is clamped (R61). -/
def tenantWritten (body : List Field) (c : TenantConfig) : TenantConfig :=
  { active := flagOr body 1 c.active, queueLimit := numOr body 2 c.queueLimit, maxAge := numOr body 3 c.maxAge
    depth := clampOr body 4 2048 4194304 c.depth }

/-- A tenant's record replaced: a carried depth goes to the bucket, and a change of the flag recomputes (R61, R62,
R91). -/
def applyTenant (t : Tenant) (body : List Field) (c : TenantConfig) (s : State) : State :=
  let s1 := updCfg (fun x => { x with tenants := tset x.tenants t c }) s
  let s2 := if (bytes? body 4).isSome then setDepth t c.depth s1 else s1
  if c.active = (s.tenantCfg t).active then s2 else recompute (kickBackhaul s2)

/-- A WRITE of the TENANT class (R61, R62). -/
def tenantClassWrite (sel : Selector) (body : List Field) (s : State) : Reply × State :=
  match selIndex 8 sel with
  | none => refuse .invalidValue s
  | some t =>
    checked (tenantWriteOk body) (fun s =>
      let c := tenantWritten body (s.tenantCfg t)
      if c.active && !(s.tenantCfg t).active && !shareLaw (tset s.cfg.tenants t c) s.cfg.sets then
        refuse .shareExceeded s
      else okay (tenantItems t) (applyTenant t body c s)) s

/-! ## SHARE_SET and PARAMETERS (R64, R68) -/

/-- A written cap: 0 stays no cap, and other values are clamped to 64 to 5,000,000 (R64). -/
def clampCap (n : Nat) : Nat := if n = 0 then 0 else clampTo 64 5000000 n

/-- The content of a SHARE_SET write (R64). -/
def shareWriteOk (body : List Field) : Bool :=
  (shapeTo 24).ok body &&
    (List.range 8).all fun i => inRange body (3 * i + 1) 0 1000 && inRange body (3 * i + 2) 0 255

/-- A tenant's values with the carried fields. -/
def shareWritten (body : List Field) (i : Nat) (x : Share) : Share :=
  { guarantee := numOr body (3 * i + 1) x.guarantee, weight := numOr body (3 * i + 2) x.weight
    cap := match num? body (3 * i + 3) with
           | none => x.cap
           | some n => clampCap n }

/-- A set with the carried values. -/
def setWritten (body : List Field) (x : ShareSet) : ShareSet := Vector.ofFn fun i => shareWritten body i.val (tget x i)

/-- A set replaced; a write of the active set recomputes (R64). -/
def applySet (k : SetId) (x : ShareSet) (s : State) : State :=
  let s1 := updCfg (fun c => { c with sets := tset c.sets k x }) s
  if k = s.cfg.activeSet then recompute s1 else s1

/-- The window lengths of R68. -/
def windowLengths : List Nat := [10, 20, 50, 100, 200, 500, 1000]

/-- The content of a PARAMETERS write (R68). -/
def paramWriteOk (body : List Field) : Bool :=
  (shapeTo 2).ok body && inRange body 2 0 20000 &&
    (match num? body 1 with
     | none => true
     | some n => windowLengths.contains n)

/-- The parameters replaced; a carried timing reservation recomputes (R68). -/
def applyParams (body : List Field) (s : State) : State :=
  let s1 := updCfg (fun c =>
    { c with params := { windowMs := numOr body 1 c.params.windowMs, tRes := numOr body 2 c.params.tRes } }) s
  if (bytes? body 2).isSome then recompute s1 else s1

/-- A WRITE of the SHARE_SET class that names PARAMETERS (R68). -/
def paramClassWrite (body : List Field) (s : State) : Reply × State :=
  checked (paramWriteOk body) (fun s => okay paramItems (applyParams body s)) s

/-- The selector of PARAMETERS (R177). -/
def paramSelector : Selector := { kind := 0, value := 0xFFFF#48 }

/-- A selector names PARAMETERS. -/
def namesParams (sel : Selector) : Bool := decide (sel = paramSelector)

/-- A WRITE of the SHARE_SET class (R64). DESIGN CHOICE: a body without a value is accepted, and of the active set it
recomputes (log entry 22); the answer carries the active set index as a READ does (log entry 39). -/
def shareClassWrite (sel : Selector) (body : List Field) (s : State) : Reply × State :=
  if namesParams sel then paramClassWrite body s
  else
    match selIndex 4 sel with
    | none => refuse .invalidValue s
    | some k =>
      checked (shareWriteOk body) (fun s =>
        let x := setWritten body (tget s.cfg.sets k)
        if guaranteeSum s.cfg.tenants x ≤ 1000 then okay (shareSetItems k) (applySet k x s)
        else refuse .shareExceeded s) s

/-! ## LINK and PROFILE (R36, R37) -/

/-- The shape of a LINK body: the programme start index may be NONE. -/
def linkShape : BodyShape := { shapeTo 24 with empty := [9] }

/-- The content of a LINK write (R36). -/
def linkWriteOk (body : List Field) : Bool :=
  linkShape.ok body && noneCarried body [1, 2, 3, 4, 5, 6, 7, 8, 15, 16, 17, 18, 19, 20, 21, 22, 23, 24]
    && inRange body 9 0 31 && inRange body 10 1 4094 && inRange body 11 0 10000 && inRange body 12 100 10000
    && inRange body 13 50 5000 && inRange body 14 0 100000

/-- The programme start index of a write: no bytes is NONE. -/
def startWritten (body : List Field) (held : Option (Fin 32)) : Option (Fin 32) :=
  match bytes? body 9 with
  | none => held
  | some [] => none
  | some b => finOf 32 (bytesToNat b)

/-- A link's configuration with the carried fields. -/
def linkWritten (body : List Field) (c : LinkConfig) : LinkConfig :=
  { startIndex := startWritten body c.startIndex, testVlan := numOr body 10 c.testVlan, holdOff := numOr body 11 c.holdOff
    supervision := numOr body 12 c.supervision, pendingTimeout := numOr body 13 c.pendingTimeout
    reflectAllowance := numOr body 14 c.reflectAllowance }

/-- A link's configuration replaced: at each write of the allowance the reflect bucket is brought up to date and takes
it as its rate (R86), and a change of X_L of an IN_SERVICE link recomputes (R36, R72). -/
def applyLinkWrite (l : Link) (body : List Field) (s : State) : State :=
  let old := s.cfg.links.get l
  let c := linkWritten body old
  let s1 := updCfg (fun x => { x with links := x.links.set l c }) s
  if (bytes? body 14).isSome then
    let s2 := setRate (.reflect l) c.reflectAllowance s1
    if decide (c.reflectAllowance ≠ old.reflectAllowance) && s.share.reflectPresent.get l && s.inService l then
      recompute s2
    else s2
  else s1

/-- A WRITE of the LINK class (R36). DESIGN CHOICE (log entry 39): the answer carries what a READ does. -/
def linkClassWrite (sel : Selector) (body : List Field) (s : State) : Reply × State :=
  match selLink sel with
  | none => refuse .invalidValue s
  | some l =>
    checked (linkWriteOk body) (fun s =>
      okay (linkItems l) (applyLinkWrite l body s)) s

/-- The content of a PROFILE write (R37). -/
def profileWriteOk (body : List Field) : Bool :=
  (shapeTo 4).ok body && flagOk body 1 && inRange body 2 0 2500000 && inRange body 4 0 10000000

/-- A profile entry with the carried fields; the overhead is clamped (R37). -/
def profileWritten (body : List Field) (p : Profile) : Profile :=
  { valid := flagOr body 1 p.valid, rate := numOr body 2 p.rate, overhead := clampOr body 3 0 500 p.overhead
    airDelay := numOr body 4 p.airDelay }

/-- A profile entry replaced. -/
def setProfile (l : Link) (i : Fin 16) (p : Profile) (s : State) : State :=
  updCfg (fun c => { c with profiles := c.profiles.set l (tset (c.profiles.get l) i p) }) s

/-- The write makes an entry invalid that the current or the pending index names (R46). -/
def losesProfile (l : Link) (i : Fin 16) (p : Profile) (s : State) : Bool :=
  (tget (s.cfg.profiles.get l) i).valid && !p.valid
    && (decide ((s.link l).current = i) || decide ((s.link l).pending = some i))

/-- A profile entry written, with PROFILE_UNKNOWN and the report of E_L (R37, R40, R46). DESIGN CHOICE (log entry 35): the
condition is raised before the report. -/
def applyProfile (l : Link) (i : Fin 16) (p : Profile) (s : State) : State :=
  withReport l (fun s =>
    let s1 := setProfile l i p s
    if losesProfile l i p s then raise (.profileUnknown l) none s1 else s1) s

/-- A WRITE of the PROFILE class (R37). -/
def profileClassWrite (sel : Selector) (body : List Field) (s : State) : Reply × State :=
  match selProfile sel with
  | none => refuse .invalidValue s
  | some (l, i) =>
    checked (profileWriteOk body) (fun s =>
      okay (profileItems l i) (applyProfile l i (profileWritten body (tget (s.cfg.profiles.get l) i)) s)) s

/-! ## STEP (R139) -/

/-- The step kind of a code. -/
def stepOfCode (n : Nat) : Option StepKind :=
  match n with
  | 1 => some .load
  | 2 => some .probe
  | 3 => some .wait
  | _ => none

/-- The content of a STEP write (R139). -/
def stepWriteOk (body : List Field) : Bool :=
  (shapeTo 11).ok body && inRange body 1 1 3 && inRange body 2 64 9216 && inRange body 3 64 2500000
    && inRange body 4 1 1000 && inRange body 5 0 10000 && inRange body 6 1 60000 && inRange body 7 0 10000
    && inRange body 8 0 1000000 && inRange body 9 0 1000000 && inRange body 10 0 1000000 && flagOk body 11

/-- A step record with the carried fields. -/
def stepWritten (body : List Field) (r : StepRecord) : StepRecord :=
  { kind := ((num? body 1).bind stepOfCode).getD r.kind
    length := numOr body 2 r.length, rate := numOr body 3 r.rate, interval := numOr body 4 r.interval
    settle := numOr body 5 r.settle, measure := numOr body 6 r.measure, recover := numOr body 7 r.recover
    maxLoss := numOr body 8 r.maxLoss, maxRoundTrip := numOr body 9 r.maxRoundTrip
    maxVariation := numOr body 10 r.maxVariation, last := flagOr body 11 r.last }

/-- A WRITE of the STEP class (R139). -/
def stepClassWrite (sel : Selector) (body : List Field) (s : State) : Reply × State :=
  match selIndex 32 sel with
  | none => refuse .invalidValue s
  | some i =>
    checked (stepWriteOk body) (fun s =>
      okay (stepItems i)
        (updCfg (fun c => { c with steps := tset c.steps i (stepWritten body (tget c.steps i)) }) s)) s

/-! ## SCHEDULE (R130, R131) -/

/-- The entry that a SCHEDULE write carries (R130): all three fields, each in its range. -/
def writtenEntry (body : List Field) : Option ScheduleEntry :=
  match num? body 1, (num? body 2).bind (finOf 4), num? body 3 with
  | some time, some set, some tag =>
    if (shapeTo 3).ok body ∧ time < 2 ^ 48 ∧ tag ≤ 65535 then some { time, set, tag } else none
  | _, _, _ => none

/-- The checks of R130 after BUSY, and the insertion. -/
def placeScheduled (e : ScheduleEntry) (s : State) : Reply × State :=
  if s.time.valid && decide (e.time ≤ s.time.site.seconds) then refuse .invalidValue s
  else if s.cfg.schedule.any fun x => x.time == e.time then refuse .duplicate s
  else if 32 ≤ s.cfg.schedule.length then refuse .tableFull s
  else
    okay (fun s => entryItems e ++ [positionItem ((positionOf e.time s.cfg.schedule).getD 0)])
      (s.setSchedule (insertEntry e s.cfg.schedule))

/-- A WRITE of the SCHEDULE class (R130). -/
def scheduleClassWrite (body : List Field) (s : State) : Reply × State :=
  match writtenEntry body with
  | none => refuse .invalidValue s
  | some e => checked true (placeScheduled e) s

/-- The position of the entry that a SCHEDULE request names (R131). -/
def namedEntry (n : EntryName) (t : List ScheduleEntry) : Option Nat :=
  match n with
  | .position k => if k < t.length then some k else none
  | .time x => positionOf x t

/-- The removal of a named entry (R131). -/
def deleteScheduled (n : EntryName) (s : State) : Reply × State :=
  match namedEntry n s.cfg.schedule with
  | none => refuse .notFound s
  | some k =>
    match s.cfg.schedule[k]? with
    | none => refuse .notFound s
    | some e => okay (fun _ => entryItems e) (s.setSchedule (s.cfg.schedule.eraseIdx k))

/-- A DELETE of the SCHEDULE class (R131). -/
def scheduleClassDelete (sel : Selector) (body : List Field) (s : State) : Reply × State :=
  match selEntry sel with
  | none => refuse .invalidValue s
  | some n => checked ((shapeTo 3).ok body) (deleteScheduled n) s

/-! ## TIMING and PULSE_OUTPUT (R104, R113, R115) -/

/-- The content of a TIMING write (R104). -/
def timingWriteOk (body : List Field) : Bool :=
  (shapeTo 20).ok body && noneCarried body [8, 9, 10, 11, 12, 13, 14, 15, 16, 17, 18, 19, 20]

/-- The timing configuration with the carried fields, each clamped (R104). -/
def timingWritten (body : List Field) (c : TimingConfig) : TimingConfig :=
  { comp := clampOr body 1 0 1000000 c.comp, stepLimit := clampOr body 2 1000 1000000 c.stepLimit
    lockThreshold := clampOr body 3 10 10000 c.lockThreshold, lockCount := clampOr body 4 1 255 c.lockCount
    unlockCount := clampOr body 5 1 255 c.unlockCount, gainShift := clampOr body 6 0 7 c.gainShift
    holdoverLimit := clampOr body 7 60 86400 c.holdoverLimit }

/-- The timing configuration replaced; a carried holdover limit takes the expiry again, and one already reached expires
within the write (R113). -/
def applyTiming (body : List Field) (s : State) : State :=
  let s1 := updCfg (fun c => { c with timing := timingWritten body c.timing }) s
  if (bytes? body 7).isSome then
    let s2 := updServo (Servo.retakeLimit s1.cfg.timing.holdoverLimit) s1
    if holdoverDue s2 then holdoverExpires s2 else s2
  else s1

/-- A WRITE of the TIMING class (R104). DESIGN CHOICE (log entry 39): the answer carries what a READ does. -/
def timingClassWrite (body : List Field) (s : State) : Reply × State :=
  checked (timingWriteOk body) (fun s => okay timingItems (applyTiming body s)) s

/-- The content of a PULSE_OUTPUT write (R115). -/
def pulseWriteOk (body : List Field) : Bool :=
  (shapeTo 6).ok body && noneCarried body [4, 5, 6] && inRange body 1 0 999999 && inRange body 2 1 500
    && inRange body 3 0 1

/-- A pulse output's configuration with the carried fields. -/
def pulseWritten (body : List Field) (c : PulseConfig) : PulseConfig :=
  { advance := numOr body 1 c.advance, width := numOr body 2 c.width
    policy := match num? body 3 with
              | none => c.policy
              | some 0 => .always
              | some _ => .lockedOrHoldover }

/-- A WRITE of the PULSE_OUTPUT class (R115); a new policy applies at once (R116). -/
def pulseClassWrite (sel : Selector) (body : List Field) (s : State) : Reply × State :=
  match selIndex 4 sel with
  | none => refuse .invalidValue s
  | some k =>
    checked (pulseWriteOk body) (fun s =>
      okay (pulseItems k)
        (squelch (updCfg (fun c => { c with pulses := tset c.pulses k (pulseWritten body (tget c.pulses k)) }) s))) s

/-! ## NOTICE_CONFIG (R163, R165) -/

/-- The content of a NOTICE_CONFIG write (R163). -/
def noticeWriteOk (body : List Field) : Bool :=
  (shapeTo 26).ok body && (List.range 24).all (fun k => inRange body (k + 1) 0 3) && inRange body 25 10 10000
    && inRange body 26 0 (2 ^ 48 - 1)

/-- The notice configuration with the carried fields. -/
def noticeWritten (body : List Field) (c : NoticeConfig) : NoticeConfig :=
  { levels := Vector.ofFn fun k => numOr body (k.val + 1) (tget c.levels k)
    interval := numOr body 25 c.interval
    address := BitVec.ofNat 48 (numOr body 26 c.address.toNat) }

/-- The due time of a pending notice taken again from a carried interval; one that has passed falls due (R165). -/
def retakeDue (s : State) : State :=
  if s.mgmt.notice.pending then
    let s1 := s.setNotice { s.mgmt.notice with due := noticeDueAt s }
    if intervalPassed s1 then noticeFallsDue s1 else s1
  else s

/-- The notice configuration replaced (R163, R165). -/
def applyNotice (body : List Field) (s : State) : State :=
  let s1 := updCfg (fun c => { c with notice := noticeWritten body c.notice }) s
  if (bytes? body 25).isSome then retakeDue s1 else s1

/-- A WRITE of the NOTICE_CONFIG class (R163). -/
def noticeClassWrite (body : List Field) (s : State) : Reply × State :=
  checked (noticeWriteOk body) (fun s => okay noticeItems (applyNotice body s)) s

end Sys2Proof.Machine
end

