-- ==== Sys2Proof/Machine/Commands.lean ====
section
/-!
DEFINITION. The commands of R160, each by the rule named there.
-/

namespace Sys2Proof.Machine

/-- A shape of the identifiers given. -/
def shapeOf (ids : List Nat) : BodyShape := { known := ids, long := [], empty := [] }

/-- A reply with a status alone, and the state after the command. -/
def answer (r : Status × State) : Reply × State := ({ status := r.1, body := [], after := .nothing }, r.2)

/-! ## ACTIVATE_SET and SET_TIME (R66, R114) -/

/-- ACTIVATE_SET (R66). -/
def activateCommand (body : List Field) (s : State) : Reply × State :=
  match (num? body 1).bind (finOf 4) with
  | none => refuse .invalidValue s
  | some k =>
    checked ((shapeOf [1]).ok body) (fun s =>
      if k = s.cfg.activeSet then okay (fun _ => []) s else okay (fun _ => []) (recompute (setActive k s))) s

/-- What the response of SET_TIME carries: site time and the servo state (R114). -/
def setTimeItems (s : State) : List Item :=
  [nf 1 s.time.site.seconds, nf 2 s.time.site.nanos, ef 3 (codeServo s.time.servo.state)]

/-- SET_TIME (R114). DESIGN CHOICE (log entry 22): a command without its seconds or its nanoseconds is INVALID_VALUE. -/
def setTimeCommand (body : List Field) (s : State) : Reply × State :=
  match num? body 1, num? body 2 with
  | some sec, some ns =>
    if (shapeOf [1, 2]).ok body ∧ sec < secondsWrap ∧ ns ≤ 999999999 then okay setTimeItems (applyTime sec ns s)
    else refuse .invalidValue s
  | _, _ => refuse .invalidValue s

/-! ## Commands on links (R55 to R57) -/

/-- The link that a command names. -/
def commandLink (body : List Field) : Option Link :=
  if (shapeOf [1]).ok body then (num? body 1).bind linkOfNum else none

/-- RETEST (R55). -/
def retestCommand (body : List Field) (s : State) : Reply × State :=
  match commandLink body with
  | none => refuse .invalidValue s
  | some l => answer (retestLink l s)

/-- ADMIT (R56). -/
def admitCommand (body : List Field) (s : State) : Reply × State :=
  match commandLink body with
  | none => refuse .invalidValue s
  | some l => answer (admitBarred l s)

/-- STOP (R57). -/
def stopCommand (body : List Field) (s : State) : Reply × State :=
  match commandLink body with
  | none => refuse .invalidValue s
  | some l => answer (stopLink l s)

/-! ## CLEAR_CONDITIONS and CLEAR_RESET_CAUSE (R164, R176) -/

/-- The shape of CLEAR_CONDITIONS: one list of at most 92 bytes (R178). -/
def clearShape : BodyShape := { known := [1], long := [(1, 92)], empty := [1] }

/-- The conditions that a CLEAR_CONDITIONS names; an empty list names every latch (R164). -/
def clearedBy (body : List Field) : Option (List Cond) :=
  match (bytes? body 1).getD [] with
  | [] => some allConds
  | b => condsOfList b

/-- A latch cleared (R164). -/
def clearCond (s : State) (c : Cond) : State :=
  { s with mgmt := { s.mgmt with latches := tset s.mgmt.latches c.idx clearLatch } }

/-- How many of the named latches are latched (R164). -/
def latchedAmong (cs : List Cond) (s : State) : Nat :=
  (allConds.filter fun c => cs.contains c && (s.latch c).latched).length

/-- CLEAR_CONDITIONS (R164). -/
def clearCommand (body : List Field) (s : State) : Reply × State :=
  match clearedBy body with
  | some cs =>
    if clearShape.ok body then okay (fun _ => [nf 1 (latchedAmong cs s)]) (cs.foldl clearCond s)
    else refuse .invalidValue s
  | none => refuse .invalidValue s

/-- CLEAR_RESET_CAUSE (R176). -/
def clearCauseCommand (body : List Field) (s : State) : Reply × State :=
  if (shapeOf []).ok body then okay (fun _ => []) (updStartup (fun x => { x with causes := 0 }) s)
  else refuse .invalidValue s

/-! ## Store commands (R169 to R173) -/

/-- The shape of a store command: its own fields and the four times of R169. -/
def storeShape (ids : List Nat) : BodyShape := shapeOf (ids ++ [16, 17, 18, 19])

/-- The carried times lie in their ranges (R169). -/
def timesOk (body : List Field) : Bool :=
  inRange body 16 1 10000 && inRange body 17 1 100 && inRange body 18 0 100 && inRange body 19 1 10000

/-- The store timing record with the carried times (R169). -/
def timesWritten (body : List Field) (t : StoreTimes) : StoreTimes :=
  { slotErase := numOr body 16 t.slotErase, program := numOr body 17 t.program, recovery := numOr body 18 t.recovery
    infoErase := numOr body 19 t.infoErase }

/-- A store command after the check of its form: BUSY while the store is, and otherwise run with the carried times,
which stay only when it is answered ACCEPTED or OK (R169). ACCEPTED carries the store status (R158). -/
def storeCommand (body : List Field) (f : State → Status × State) (s : State) : Reply × State :=
  if s.store.op.isSome then refuse .busy s
  else
    let (st, s1) := f (updStore (fun x => { x with times := timesWritten body x.times }) s)
    match st with
    | .accepted => ({ status := .accepted, body := storeItems s1, after := .nothing }, s1)
    | .ok => okay (fun _ => []) s1
    | _ => refuse st s

/-- The slot that a store command names, when its form is right. -/
def commandSlot (body : List Field) : Option (Fin 4) :=
  if (storeShape [1]).ok body && timesOk body then (num? body 1).bind (finOf 4) else none

/-- ERASE_SLOT (R170). -/
def eraseSlotCommand (body : List Field) (s : State) : Reply × State :=
  match commandSlot body with
  | none => refuse .invalidValue s
  | some k => storeCommand body (fun s => (.accepted, beginErase k s)) s

/-- SAVE_SLOT (R171). -/
def saveSlotCommand (body : List Field) (s : State) : Reply × State :=
  match commandSlot body with
  | none => refuse .invalidValue s
  | some k =>
    storeCommand body (fun s => if slotReport s.store k = .erased then (.accepted, beginSave k s) else (.notErased, s)) s

/-- LOAD_SLOT (R172). -/
def loadSlotCommand (body : List Field) (s : State) : Reply × State :=
  match commandSlot body with
  | none => refuse .invalidValue s
  | some k =>
    storeCommand body (fun s =>
      match loadable s k with
      | some b => (.ok, loadBody b s)
      | none => (.invalidSlot, s)) s

/-- INVALIDATE_SLOT (R170). -/
def invalidateCommand (body : List Field) (s : State) : Reply × State :=
  match commandSlot body with
  | none => refuse .invalidValue s
  | some k =>
    storeCommand body (fun s =>
      if (tget s.store.slots k).marker = markerInvalid then (.ok, s) else (.ok, beginInvalidate k s)) s

/-- The shape of WRITE_INFO: the label has up to 32 bytes. -/
def infoShape : BodyShape := { known := [1, 2, 16, 17, 18, 19], long := [(2, 32)], empty := [2] }

/-- A group address: its first byte is odd (R173). -/
def isGroup (n : Nat) : Bool := decide (n / 2 ^ 40 % 2 = 1)

/-- A label filled with spaces to 32 characters (R173). -/
def padLabel (b : List Byte) : List Byte := b ++ List.replicate (32 - b.length) 0x20#8

/-- The address and label that a WRITE_INFO carries, when its form is right (R173). -/
def writtenInfo (body : List Field) : Option (Mac × List Byte) :=
  match num? body 1, bytes? body 2 with
  | some n, some label =>
    if infoShape.ok body && timesOk body && decide (n < 2 ^ 48) && !isGroup n then some (BitVec.ofNat 48 n, padLabel label)
    else none
  | _, _ => none

/-- WRITE_INFO (R173). -/
def writeInfoCommand (body : List Field) (s : State) : Reply × State :=
  match writtenInfo body with
  | none => refuse .invalidValue s
  | some (addr, label) =>
    storeCommand body (fun s =>
      if pageReport s.store = .erased then (.accepted, beginWriteInfo addr label s) else (.notErased, s)) s

/-- The confirmation value of R160. -/
def confirmed (body : List Field) (id : Nat) : Bool := decide (num? body id = some 0xC3)

/-- ERASE_INFO (R173). -/
def eraseInfoCommand (body : List Field) (s : State) : Reply × State :=
  if (storeShape [1]).ok body && timesOk body then
    storeCommand body (fun s => if confirmed body 1 then (.accepted, beginEraseInfo s) else (.notPermitted, s)) s
  else refuse .invalidValue s

/-! ## RESTART (R160, R176) -/

/-- A RESTART that is taken: what follows its response. -/
def restartReply (a : After) (body : List Field) (s : State) : Reply × State :=
  if confirmed body 2 then ({ status := .ok, body := [], after := a }, s) else refuse .notPermitted s

/-- RESTART (R160, R176): the first field is FULL 1 or TRAFFIC 2, the second the confirmation. -/
def restartCommand (body : List Field) (s : State) : Reply × State :=
  if (shapeOf [1, 2]).ok body then
    match num? body 1 with
    | some 1 => restartReply .full body s
    | some 2 => restartReply .traffic body s
    | _ => refuse .invalidValue s
  else refuse .invalidValue s

end Sys2Proof.Machine
end

