-- ==== Sys2Proof/Machine/Requests.lean ====
section
/-!
DEFINITION. The Management Engine's acceptance of a request (R157, R158, R175), the READs, and the dispatch of a request
frame by its kind and its class or command (R159, R160).
-/

namespace Sys2Proof.Machine

/-! ## READs (R159) -/

/-- OK with items read now. -/
def read (items : State → List Item) (s : State) : Reply × State := okay items s

/-- A READ of the FLOW class (R27): NOT_FOUND carries the summary too. -/
def readFlow (n : FlowName) (s : State) : Reply × State :=
  match namedFlow n s with
  | some (k, e) => read (fun s => flowFields e ++ flowSummary s ++ [nf 70 k]) s
  | none => ({ status := .notFound, body := flowSummary s, after := .nothing }, s)

/-- A READ of the SCHEDULE class (R131): NOT_FOUND carries the summary too. -/
def readSchedule (n : EntryName) (s : State) : Reply × State :=
  match (namedEntry n s.cfg.schedule).bind fun k => (s.cfg.schedule[k]?).map fun e => (k, e) with
  | some (k, e) => read (fun s => entryItems e ++ scheduleSummary s ++ [positionItem k]) s
  | none => ({ status := .notFound, body := scheduleSummary s, after := .nothing }, s)

/-- A READ whose selector names a record, or INVALID_VALUE. -/
def readNamed {α : Type} (name : Option α) (f : α → State → Reply × State) (s : State) : Reply × State :=
  match name with
  | none => refuse .invalidValue s
  | some x => f x s

/-- The shape of a READ's body: the identifiers of its class (R178). -/
def readShape (code : Nat) : BodyShape :=
  match code with
  | 1 => shapeTo 25
  | 2 => shapeTo 11
  | 3 => shapeTo 10
  | 4 => shapeTo 25
  | 5 => shapeTo 52
  | 6 => linkShape
  | 7 => shapeTo 4
  | 8 => shapeTo 11
  | 9 => shapeTo 33
  | 10 => shapeTo 12
  | 11 => shapeTo 3
  | 12 => shapeTo 20
  | 13 => shapeTo 6
  | 15 => shapeTo 26
  | 16 => shapeTo 22
  | 17 => shapeTo 3
  | 18 => shapeTo 4
  | _ => shapeTo 0

/-- A READ of a class (R159). -/
def readClass (code : Nat) (sel : Selector) (s : State) : Reply × State :=
  match code with
  | 1 => readNamed (selPort sel) (fun p => read (portItems p)) s
  | 2 => readNamed (selFlow sel) readFlow s
  | 3 => readNamed (selIndex 8 sel) (fun t => read (tenantItems t)) s
  | 4 => if namesParams sel then read paramItems s else readNamed (selIndex 4 sel) (fun k => read (shareSetItems k)) s
  | 5 => read allocationItems s
  | 6 => readNamed (selLink sel) (fun l => read (linkItems l)) s
  | 7 => readNamed (selProfile sel) (fun x => read (profileItems x.1 x.2)) s
  | 8 => readNamed (selIndex 32 sel) (fun i => read (stepItems i)) s
  | 9 => readNamed (selLink sel) (fun l => read (contextItems l)) s
  | 10 => readNamed (selIndex 32 sel) (fun i => read (resultItems i)) s
  | 11 => readNamed (selEntry sel) readSchedule s
  | 12 => read timingItems s
  | 13 => readNamed (selIndex 4 sel) (fun k => read (pulseItems k)) s
  | 14 => readNamed (selCond sel) (fun n => read (conditionItems n)) s
  | 15 => read noticeItems s
  | 16 => read storeItems s
  | 17 => read infoItems s
  | 18 => read causeItems s
  | _ => refuse .invalidValue s

/-- A READ with the form of its body checked first (R161, R178). -/
def readRequest (code : Nat) (sel : Selector) (body : List Field) (s : State) : Reply × State :=
  if (readShape code).ok body then readClass code sel s else refuse .invalidValue s

/-! ## WRITE, DELETE and COMMAND (R159, R160) -/

/-- A WRITE of a class. -/
def writeRequest (code : Nat) (sel : Selector) (body : List Field) (s : State) : Reply × State :=
  match code with
  | 1 => portClassWrite sel body s
  | 2 => flowClassWrite sel body s
  | 3 => tenantClassWrite sel body s
  | 4 => shareClassWrite sel body s
  | 6 => linkClassWrite sel body s
  | 7 => profileClassWrite sel body s
  | 8 => stepClassWrite sel body s
  | 11 => scheduleClassWrite body s
  | 12 => timingClassWrite body s
  | 13 => pulseClassWrite sel body s
  | 15 => noticeClassWrite body s
  | _ => refuse .invalidValue s

/-- A DELETE of a class. -/
def deleteRequest (code : Nat) (sel : Selector) (body : List Field) (s : State) : Reply × State :=
  match code with
  | 2 => flowClassDelete sel body s
  | 11 => scheduleClassDelete sel body s
  | _ => refuse .invalidValue s

/-- A command by its code (12.5). -/
def commandRequest (code : Nat) (body : List Field) (s : State) : Reply × State :=
  match code with
  | 0x101 => activateCommand body s
  | 0x102 => setTimeCommand body s
  | 0x103 => retestCommand body s
  | 0x104 => admitCommand body s
  | 0x105 => stopCommand body s
  | 0x106 => clearCommand body s
  | 0x107 => clearCauseCommand body s
  | 0x108 => eraseSlotCommand body s
  | 0x109 => saveSlotCommand body s
  | 0x10A => loadSlotCommand body s
  | 0x10B => invalidateCommand body s
  | 0x10C => writeInfoCommand body s
  | 0x10D => eraseInfoCommand body s
  | 0x10E => restartCommand body s
  | _ => refuse .invalidValue s

/-- The four request kinds (12.5). -/
def requestByKind (kind code : Nat) (sel : Selector) (body : List Field) (s : State) : Reply × State :=
  match kind with
  | 1 => readRequest code sel body s
  | 2 => writeRequest code sel body s
  | 3 => deleteRequest code sel body s
  | 4 => commandRequest code body s
  | _ => refuse .invalidValue s

/-! ## Acceptance (R157, R158, R175) -/

/-- What a row of the table does with a request. -/
abbrev Operation := Selector → List Field → State → Reply × State

/-- A request executed: its form first (R161, R177, R178), then by its operation. -/
def perform (r : Request) (op : Operation) (s : State) : Reply × State :=
  match r.body with
  | none => refuse .invalidValue s
  | some body => if r.sel.kind.toNat ≤ 3 then op r.sel body s else refuse .invalidValue s

/-- The response to a request (R158). -/
def responseTo (h : Header) (r : Request) (x : Reply) (s : State) : Response :=
  { dst := h.src, src := s.store.runAddr, vlanTag := h.vlanTag, kind := BitVec.ofNat 8 r.kind, tag := h.tag
    code := BitVec.ofNat 16 r.code, sel := r.sel, status := x.status, body := x.body }

/-- A frame offered to a port's local queue; a refused frame is gone (R17). -/
def offerFrame (p : Port) (f : LocalFrame) (s : State) : State := (offerLocal p f s).2

/-- What follows the response of a RESTART (R160). -/
def finishRestart (a : After) (s : State) : State :=
  match a with
  | .nothing => s
  | .traffic => restartTraffic s
  | .full => hardReset .restartFull s

/-- In FAULT only a READ and a RESTART are executed (R175). -/
def faultAllows (r : Request) : Bool := decide (r.kind = 1) || (decide (r.kind = 4) && decide (r.code = 0x10E))

/-- The execution that the start-up state gives a request (R175). DESIGN CHOICE (log entry 22): in FAULT every request but
a READ and a RESTART is answered FAULT before its form is looked at. -/
def executed (r : Request) (op : Operation) (s : State) : Reply × State :=
  if decide (s.startup.state = .fault) && !faultAllows r then refuse .fault s else perform r op s

/-- A request that has passed R157 is executed, its response is offered, and a restart follows. -/
def execute (h : Header) (r : Request) (op : Operation) (s : State) : State :=
  let (x, s1) := executed r op s
  finishRestart x.after (offerFrame h.port (.response (responseTo h r x s1)) s1)

/-- A request discarded without a response: a management refusal on its port (R157). -/
def refuseRequest (p : Port) (s : State) : State := count p .mgmtRefusals 1 s

/-- A management request handed to the engine (R157): the port, the header, and a place to answer (log entry 34). -/
def acceptRequest (h : Header) (complete : Bool) (r : Request) (op : Operation) (s : State) : State :=
  if !(s.cfg.ports.get h.port).mgmt then raise .mgmtRefused (some (codeOf h.port)) (refuseRequest h.port s)
  else if !complete then refuseRequest h.port s
  else if 16 ≤ s.placesTaken h.port then refuseRequest h.port s
  else execute h r op s

/-- The start-up state's gate over a management request (R6). -/
def gateRequest (h : Header) (complete : Bool) (r : Request) (op : Operation) (s : State) : State :=
  match s.startup.state with
  | .reset => s
  | .checking | .loading => count h.port .notRunning 1 s
  | .running => acceptRequest h complete r op s
  | .fault => if h.port = .sp then acceptRequest h complete r op s else count h.port .notRunning 1 s

/-- A request that a row of the table names, whole within one event. -/
def rowRequest (h : Header) (kind code : Nat) (sel : Selector) (body : List Field) (op : Operation) (s : State) : State :=
  event (gateRequest h true { kind, code, sel, body := some body } op) s

end Sys2Proof.Machine
end

