-- ==== Sys2Proof/Machine/Ingress.lean ====
section
/-!
DEFINITION. The arrival of frames: reception (R4, R5), the gate of the start-up state (R6), classification (R7 to R10),
demand (R14), the offers to queues (R13), and the reflect path (R89, R153).
-/

namespace Sys2Proof.Machine

/-! ## Queues that cells limit (R13) -/

/-- A descriptor of a class, with no cells yet and every other field absent. -/
def plainDescriptor (cls : FrameClass) (bytes : List Byte) : Descriptor :=
  { cls, cells := [], length := bytes.length, arrival := 0, tenant := none, pref := none, link := none, slot := none
    offset := none, ingress := none, airDelay := none, frame := bytes }

/-- A frame offered to its tenant's queue (R13). -/
def offerTenant (t : Tenant) (d : Descriptor) (s : State) : State :=
  let u := s.tenant t
  let q := s.tenantQ t
  if fits s q (s.tenantCfg t).queueLimit d.length then
    let s1 := s.setTenantQ t (q ++ [withCells s d])
    kickBackhaul (takeCells d.length (s1.setTenant t { u with accepted := u.accepted + 1 }))
  else raise (.queueOverflow t) none (s.setTenant t { u with dropped := u.dropped + 1 })

/-- The limit of the timing queue in cells (R12). -/
def timingLimit : Nat := 64

/-- The limit of the site queue in cells (R12). -/
def siteLimit : Nat := 512

/-- A frame offered to the timing queue (R13). -/
def offerTiming (ingress : Port) (d : Descriptor) (s : State) : State :=
  let q := s.queues.timing
  if fits s q timingLimit d.length then
    kickBackhaul (takeCells d.length { s with queues := { s.queues with timing := q ++ [withCells s d] } })
  else count ingress .timingQueueDrops 1 s

/-- The limit of a port's downstream or site queue (R12). -/
def downLimitOf (s : State) (p : Port) : Nat :=
  match p with
  | .sp => siteLimit
  | _ => (s.cfg.ports.get p).downLimit

/-- A frame offered to a downstream or site queue (R4, R13). -/
def offerDown (egress : Port) (d : Descriptor) (s : State) : State :=
  if !(s.port egress).linkUp then count egress .linkDownDiscards 1 s
  else
    let q := s.queues.down.get egress
    if fits s q (downLimitOf s egress) d.length then
      kick egress (takeCells d.length (s.setDown egress (q ++ [withCells s d])))
    else count egress .egressDrops 1 s

/-! ## Upstream (R9, R14) -/

/-- A frame's length added to its tenant's demand byte count (R14). -/
def countDemand (t : Tenant) (n : Nat) (s : State) : State :=
  s.setTenant t { s.tenant t with demandBytes := (s.tenant t).demandBytes + n }

/-- An upstream frame for a tenant (R9). -/
def toTenant (p : Port) (t : Tenant) (pref : Pref) (bytes : List Byte) (s : State) : State :=
  if (s.tenantCfg t).active then
    offerTenant t { plainDescriptor .tenant bytes with tenant := some t, pref := some pref }
      (countDemand t bytes.length s)
  else count p .inactiveTenant 1 s

/-- An upstream timing frame (R9). -/
def toTiming (p : Port) (t : Tenant) (slot : Nat) (x : FlowSpec) (stamp : Instant) (bytes : List Byte) (s : State) : State :=
  if (s.tenantCfg t).active then
    offerTiming p
      { plainDescriptor .timing bytes with
        tenant := some t, pref := x.pref, slot := some slot, offset := x.offset, ingress := some stamp } s
  else count p .inactiveTenant 1 s

/-- A frame from an access port or SP after its lookup (R9). -/
def upstream (p : Port) (stamp : Instant) (bytes : List Byte) (found : Option (Nat × FlowEntry)) (s : State) : State :=
  match found with
  | none => toTenant p (s.cfg.ports.get p).defaultTenant .any bytes s
  | some (slot, e) =>
    match e.spec.action, e.spec.tenant with
    | .forward, some t => toTenant p t (e.spec.pref.getD .any) bytes s
    | .timing, some t => toTiming p t slot e.spec stamp bytes s
    | .discard, _ => count p .actionDiscards 1 s
    | _, _ => s

/-! ## The reflect path (R89, R153) -/

/-- The frame as the reflect path rewrites it (R153): the addresses exchanged, and the peer receive stamp written into
a test frame that can hold it. -/
def reflected (stamp : Ns) (bytes : List Byte) : List Byte :=
  let swapped := slice 6 6 bytes ++ slice 0 6 bytes ++ bytes.drop 12
  if isTestFrame bytes && holdsPayload bytes 32 then
    patch (payloadOffset bytes + 16) (natToBytes 8 stamp.toNat) swapped
  else swapped

/-- A frame that matched a REFLECT entry (R89): the reflect bucket, the rewrite, and the link's test queue. -/
def reflectPath (l : Link) (stamp : Instant) (bytes : List Byte) (s : State) : State :=
  let s1 := touch (.reflect l) s
  if (s1.bucket (.reflect l)).credit < 0 then count (.bh l) .reflectDrops 1 s1
  else
    let d := { plainDescriptor .reflected (reflected (wholeNs stamp) bytes) with link := some l }
    match offerTest l d s1 with
    | (true, s2) => charge (.reflect l) bytes.length s2
    | (false, s2) => count (.bh l) .reflectDrops 1 s2

/-! ## Downstream (R10) -/

/-- A frame from a backhaul port after its lookup (R10). -/
def downstream (l : Link) (stamp : Instant) (bytes : List Byte) (found : Option (Nat × FlowEntry)) (s : State) : State :=
  match found with
  | none => count (.bh l) .flowMisses 1 s
  | some (slot, e) =>
    match e.spec.action, e.spec.egress with
    | .forward, some q => offerDown q (plainDescriptor .downstream bytes) s
    | .timing, some q =>
      offerDown q
        { plainDescriptor .timing bytes with
          slot := some slot, offset := e.spec.offset, ingress := some stamp, airDelay := some (s.airDelay l) } s
    | .reflect, _ => reflectPath l stamp bytes s
    | .testReturn, _ => if isTestFrame bytes then takeReturn l bytes stamp s else count (.bh l) .misdirected 1 s
    | .discard, _ => count (.bh l) .actionDiscards 1 s
    | _, _ => s

/-- The second stage: the lookup, and what follows it (R8 to R10). -/
def classify (p : Port) (stamp : Instant) (bytes : List Byte) (s : State) : State :=
  let (found, s1) := lookup (frameKey p bytes) s
  match p with
  | .bh l => downstream l stamp bytes found s1
  | _ => upstream p stamp bytes found s1

/-! ## The first stage and the gate (R6, R7) -/

/-- A frame of the management-request kind (R7). -/
def isRequest (bytes : List Byte) : Bool := hasOwnType bytes && decide (kindOf bytes = 1)

/-- A frame of the rate-notice kind (R7). -/
def isRateNotice (bytes : List Byte) : Bool := hasOwnType bytes && decide (kindOf bytes = 3)

/-- A request frame addressed to the device goes to the Management Engine (R7, R157). -/
def requestFrame (p : Port) (bytes : List Byte) (s : State) : State :=
  if dstOf bytes = s.store.runAddr then
    let r := parseRequest (payload bytes)
    acceptRequest (headerOf p bytes) (headerComplete bytes) r (requestByKind r.kind r.code) s
  else count p .misdirected 1 s

/-- A checked frame in RUNNING (R7). -/
def firstStage (p : Port) (stamp : Instant) (bytes : List Byte) (s : State) : State :=
  if isRequest bytes then requestFrame p bytes s
  else if isRateNotice bytes then
    match p with
    | .bh l => rateNotice l bytes s
    | _ => count p .misdirected 1 s
  else classify p stamp bytes s

/-- The gate of the start-up state (R6). -/
def gateFrame (p : Port) (stamp : Instant) (bytes : List Byte) (s : State) : State :=
  match s.startup.state with
  | .reset => s
  | .checking | .loading => count p .notRunning 1 s
  | .running => firstStage p stamp bytes s
  | .fault => if p = .sp ∧ isRequest bytes = true then requestFrame p bytes s else count p .notRunning 1 s

/-! ## Reception (R5) -/

/-- The length check (R5). -/
def lengthOk (p : Port) (bytes : List Byte) (s : State) : Bool :=
  decide (64 ≤ bytes.length ∧ bytes.length ≤ (s.cfg.ports.get p).maxLen)

/-- The tag check (R5). -/
def tagOk (bytes : List Byte) : Bool := !(isTagged bytes && decide (vlanIdOf bytes = 4095))

/-- The three checks in their order, and the gate (R5, R6). -/
def checkFrame (p : Port) (stamp : Instant) (bytes : List Byte) (s : State) : State :=
  if !lengthOk p bytes s then count p .lengthErrors 1 s
  else if !fcsOk bytes then count p .checkErrors 1 s
  else if !tagOk bytes then count p .tagErrors 1 s
  else gateFrame p stamp bytes s

/-- The reception of a frame ends (R5): it is counted and checked. The start-up state is read now (R6): in RESET the frame
is not received. -/
def receptionEnds (p : Port) (stamp : Instant) (bytes : List Byte) (s : State) : State :=
  let s1 := s.setPort p { s.port p with rx := none }
  if s.startup.state = .reset then s1
  else checkFrame p stamp bytes (count p .bytesReceived bytes.length (count p .framesReceived 1 s1))

/-- The reception of a frame begins (R5, R120): the port takes the stamp. Nothing is received while the
physical link is down (R4); the start-up state counts at the end of the reception (R6). -/
def receptionBegins (p : Port) (s : State) : State :=
  if (s.port p).linkUp then s.setPort p { s.port p with rx := some s.now } else s

/-! ## The physical link (R4) -/

/-- The physical link comes up (R4): an event for the port's transmitter (R18, R91). -/
def linkComesUp (p : Port) (s : State) : State := kick p (s.setPort p { s.port p with linkUp := true })

/-- The frame whose transmission is under way is cut off (R4). -/
def cutTransmission (p : Port) (s : State) : State :=
  match (s.port p).tx with
  | some t => count p .linkDownDiscards 1 (clearTx p (freeItem t.item s))
  | none => s

/-- A port's local queue flushed, each frame a link-down discard (R4, R19). -/
def flushLocal (p : Port) (s : State) : State :=
  count p .linkDownDiscards (s.localQ p).length (s.setLocalQ p [])

/-- A port's downstream or site queue flushed, each frame a link-down discard (R4, R19). -/
def flushDown (p : Port) (s : State) : State :=
  let q := s.queues.down.get p
  count p .linkDownDiscards q.length (freeAll q (s.setDown p []))

/-- A link's test queue flushed, each frame a link-down discard (R4, R19). -/
def flushTest (l : Link) (s : State) : State :=
  let q := s.queues.test.get l
  count (.bh l) .linkDownDiscards q.length
    (freeAll q { s with queues := { s.queues with test := s.queues.test.set l [] } })

/-- The physical link goes down (R4). A backhaul port reports carrier absent to Link Control (R43). -/
def linkGoesDown (p : Port) (s : State) : State :=
  let s1 := flushLocal p (cutTransmission p (s.setPort p { s.port p with linkUp := false, rx := none }))
  match p with
  | .bh l => carrierAbsent l false (flushTest l s1)
  | _ => flushDown p s1

end Sys2Proof.Machine
end

