-- ==== Sys2Proof/WellFormed.lean ====
section
/-!
DEFINITION. Which commands can be sent at all: what a request body can hold on the wire (12.1, R178), and which ports
and buckets a row names. The meanings are total: they also answer on a command that is not well formed.
-/

namespace Sys2Proof

/-- A field fits its one-byte identifier and its one-byte length (R178). -/
def Field.wf (f : Field) : Bool := f.id < 256 && f.value.length < 256

/-- The bytes a body takes on the wire: two and its value for each field. -/
def bodyBytes (body : List Field) : Nat := (body.map (fun f => f.value.length + 2)).sum

/-- A body is a sequence of fields of at most 1,900 bytes (12.1). -/
def bodyWf (body : List Field) : Bool := body.all Field.wf && decide (bodyBytes body ≤ 1900)

/-- A port is an access port or SP. -/
def Port.isAccess : Port → Bool
  | .bh _ => false
  | _ => true

/-- A bucket whose credit the arbiters wait for (R91): the reflect buckets are none. -/
def BucketId.awaited : BucketId → Bool
  | .reflect _ => false
  | _ => true

/-- A command that a sender of the block can send. -/
def Instr.wellFormed : Instr → Bool
  | .frameReceptionBegins _ => true
  | .frameReceived _ bytes => decide (0 < bytes.length)
  | .portWrite _ _ body => bodyWf body
  | .flowWrite _ _ body => bodyWf body
  | .flowDelete _ _ body => bodyWf body
  | .tenantWrite _ _ body => bodyWf body
  | .shareSetWrite _ _ body => bodyWf body
  | .parametersWrite _ body => bodyWf body
  | .linkWrite _ _ body => bodyWf body
  | .profileWrite _ _ body => bodyWf body
  | .stepWrite _ _ body => bodyWf body
  | .scheduleWrite _ _ body => bodyWf body
  | .scheduleDelete _ _ body => bodyWf body
  | .timingWrite _ _ body => bodyWf body
  | .pulseOutputWrite _ _ body => bodyWf body
  | .noticeConfigWrite _ _ body => bodyWf body
  | .activateSet _ _ body => bodyWf body
  | .setTime _ _ body => bodyWf body
  | .retest _ _ body => bodyWf body
  | .admitLink _ _ body => bodyWf body
  | .stopRun _ _ body => bodyWf body
  | .clearConditions _ _ body => bodyWf body
  | .clearResetCause _ _ body => bodyWf body
  | .eraseSlot _ _ body => bodyWf body
  | .saveSlot _ _ body => bodyWf body
  | .loadSlot _ _ body => bodyWf body
  | .invalidateSlot _ _ body => bodyWf body
  | .writeInfo _ _ body => bodyWf body
  | .eraseInfo _ _ body => bodyWf body
  | .restartFull _ _ body => bodyWf body
  | .restartTraffic _ _ body => bodyWf body
  | .flowDown _ => true
  | .portLinkUp _ => true
  | .accessTransmissionEnd p => p.isAccess
  | .backhaulTransmissionEnd _ => true
  | .creditReachesZero b => b.awaited
  | .demandWindowExpiry => true
  | .supervisionExpiry _ => true
  | .pendingTimeout _ => true
  | .holdOffExpiry _ => true
  | .ppsEdge _ => true
  | .pulseMissingExpiry => true
  | .holdoverLimitExpiry => true
  | .slewEnd => true
  | .pulseOutputRise _ => true
  | .pulseOutputFall _ => true
  | .scheduleFire => true
  | .siteSecondsWrap => true
  | .phaseEnd _ => true
  | .testFrameDue _ => true
  | .noticeDue => true
  | .storeEraseEnd _ => true
  | .storeBlockProgrammed _ => true
  | .storeRecoveryEnd => true
  | .powerOnReset => true
  | .supplyLowReset _ => true
  | .pinReset _ => true
  | .resetRelease _ _ => true
  | .bufferGroupTested _ => true
  | .startupSlotLoaded => true

end Sys2Proof
end

