-- ==== Sys2Proof/Machine/FrameRows.lean ====
section
/-!
DEFINITION. The rows of frames, physical links, transmissions and credits. A row whose event cannot be in the state it
finds (a reception that was lost, a link already up, a transmission not at its end) changes nothing.
-/

namespace Sys2Proof.Machine

/-- FRAME_RECEPTION_BEGINS (R5, R120). -/
def execFrameReceptionBegins (p : Port) (s : State) : Host.Outcome State Fault Refusal := .next (receptionBegins p s)

/-- FRAME_RECEIVED (R5). A frame whose reception was lost with its link or with a reset is not received (R4, R6). -/
def execFrameReceived (p : Port) (bytes : List Byte) (s : State) : Host.Outcome State Fault Refusal :=
  match (s.port p).rx with
  | some stamp => .next (event (receptionEnds p stamp bytes) s)
  | none => .next s

/-- FLOW_DOWN (R4). -/
def execFlowDown (p : Port) (s : State) : Host.Outcome State Fault Refusal :=
  if (s.port p).linkUp then .next (event (linkGoesDown p) s) else .next s

/-- PORT_LINK_UP (R4). -/
def execPortLinkUp (p : Port) (s : State) : Host.Outcome State Fault Refusal :=
  if (s.port p).linkUp then .next s else .next (event (linkComesUp p) s)

/-- ACCESS_TRANSMISSION_END (R18). -/
def execAccessTransmissionEnd (p : Port) (s : State) : Host.Outcome State Fault Refusal :=
  if p.isAccess && txDue p s then .next (event (finishTx p) s) else .next s

/-- BACKHAUL_TRANSMISSION_END (R99). -/
def execBackhaulTransmissionEnd (l : Link) (s : State) : Host.Outcome State Fault Refusal :=
  if txDue (.bh l) s then .next (event (finishTx (.bh l)) s) else .next s

/-- A bucket's negative credit has reached 0 by now (R91). -/
def creditDue (b : BucketId) (s : State) : Bool :=
  b.awaited && crossesZero (s.bucket b) ((s.bucket b).refresh s.nowNs)

/-- CREDIT_REACHES_ZERO (R91). -/
def execCreditReachesZero (b : BucketId) (s : State) : Host.Outcome State Fault Refusal :=
  if creditDue b s then .next (event (touch b) s) else .next s

end Sys2Proof.Machine
end

