-- ==== Sys2Proof/Machine/TimerRows.lean ====
section
/-!
DEFINITION. The rows of the device's own timers and clocks: the demand window, the timers of links, the pulse input and
the servo, the pulse outputs, the schedule, qualification and notices. A row whose moment has not come changes nothing.
-/

namespace Sys2Proof.Machine

/-! ## The demand window (R69) -/

/-- The demand window under way has expired. -/
def windowDue (s : State) : Bool :=
  match s.share.window with
  | some w => reached s.now w.ends
  | none => false

/-- A tenant's unit at the expiry of a window of a length (R69). -/
def TenantUnit.measured (lengthMs : Nat) (u : TenantUnit) : TenantUnit :=
  { u with demand := demandOf u.demandBytes lengthMs, demandBytes := 0 }

/-- The window expires (R69): demands are measured, the next window starts at the expiry, and the Calculator
recomputes. -/
def windowExpires (s : State) : State :=
  match s.share.window with
  | some w =>
    let next : Window := { lengthMs := s.cfg.params.windowMs, ends := afterMs w.ends s.cfg.params.windowMs }
    recompute { s with
      tenants := s.tenants.map (TenantUnit.measured w.lengthMs)
      share := { s.share with window := some next } }
  | none => s

/-- DEMAND_WINDOW_EXPIRY (R69). -/
def execDemandWindowExpiry (s : State) : Host.Outcome State Fault Refusal :=
  if windowDue s then .next (event (windowExpires) s) else .next s

/-! ## The timers of links (R45, R48, R52) -/

/-- SUPERVISION_EXPIRY (R48). -/
def execSupervisionExpiry (l : Link) (s : State) : Host.Outcome State Fault Refusal :=
  if timerDue s (s.link l).supTimer then .next (event (supervisionExpires l) s) else .next s

/-- PENDING_TIMEOUT (R45). -/
def execPendingTimeout (l : Link) (s : State) : Host.Outcome State Fault Refusal :=
  if timerDue s (s.link l).pendTimer then .next (event (pendingExpires l) s) else .next s

/-- HOLD_OFF_EXPIRY (R52). -/
def execHoldOffExpiry (l : Link) (s : State) : Host.Outcome State Fault Refusal :=
  if timerDue s (s.link l).holdTimer then .next (event (holdOffExpires l) s) else .next s

/-! ## The servo (R106 to R113) -/

/-- The low time of PPSIN before an edge that is taken, in ns (R179). -/
def ppsLowNs : Nat := 100

/-- PPS_EDGE (R106): an edge is taken in RUNNING, after the low time of R179. -/
def execPpsEdge (lowNs : Nat) (s : State) : Host.Outcome State Fault Refusal :=
  if decide (s.startup.state = .running) && decide (ppsLowNs ≤ lowNs) then .next (event (takeEdge) s) else .next s

/-- PULSE_MISSING_EXPIRY (R112). -/
def execPulseMissingExpiry (s : State) : Host.Outcome State Fault Refusal :=
  if missingDue s then .next (event (pulseLost) s) else .next s

/-- HOLDOVER_LIMIT_EXPIRY (R113). -/
def execHoldoverLimitExpiry (s : State) : Host.Outcome State Fault Refusal :=
  if holdoverDue s then .next (event (holdoverExpires) s) else .next s

/-- SLEW_END (R110). -/
def execSlewEnd (s : State) : Host.Outcome State Fault Refusal :=
  if slewDue s then .next (event (slewEnds) s) else .next s

/-! ## Pulse outputs, the schedule and site time (R102, R116, R132) -/

/-- PULSE_OUTPUT_RISE (R116): running site time reaches the rise point of an output. -/
def execPulseOutputRise (k : Fin 4) (s : State) : Host.Outcome State Fault Refusal := .next (event (pulseRise k) s)

/-- PULSE_OUTPUT_FALL (R116). -/
def execPulseOutputFall (k : Fin 4) (s : State) : Host.Outcome State Fault Refusal :=
  if fallDue k s then .next (event (pulseFall k) s) else .next s

/-- SCHEDULE_FIRE (R132). -/
def execScheduleFire (s : State) : Host.Outcome State Fault Refusal :=
  if fireDue s then .next (event (fireEntries) s) else .next s

/-- SITE_SECONDS_WRAP (R102, R134). -/
def execSiteSecondsWrap (s : State) : Host.Outcome State Fault Refusal := .next (event wrapSeconds s)

/-! ## Qualification (R145, R146) and notices (R165) -/

/-- PHASE_END (R145). -/
def execPhaseEnd (l : Link) (s : State) : Host.Outcome State Fault Refusal :=
  if phaseDue l s then .next (event (endPhases l) s) else .next s

/-- TEST_FRAME_DUE (R146). -/
def execTestFrameDue (l : Link) (s : State) : Host.Outcome State Fault Refusal :=
  if testFrameIsDue l s then .next (event (generateTest l) s) else .next s

/-- The pending notice has reached its due time (R165). -/
def noticeIsDue (s : State) : Bool :=
  match s.mgmt.notice.due with
  | some t => s.mgmt.notice.pending && reachedNs s.nowNs t
  | none => false

/-- NOTICE_DUE (R165). -/
def execNoticeDue (s : State) : Host.Outcome State Fault Refusal :=
  if noticeIsDue s then .next (event (noticeFallsDue) s) else .next s

end Sys2Proof.Machine
end

