-- ==== Sys2Proof/Machine/Clock.lean ====
section
/-!
DEFINITION. The device's own clock, which runs on an empty queue: the events that are due, one of which is taken, and the
passing of one unit of elapsed time where none is due (R101, R102; log entry 2).
-/

namespace Sys2Proof.Machine

/-! ## The events that are due -/

/-- The transmissions that have ended. -/
def dueTransmissions (s : State) : List Instr :=
  (Port.list.filter fun p => txDue p s).map fun p =>
    match p with
    | .bh l => .backhaulTransmissionEnd l
    | p => .accessTransmissionEnd p

/-- The buckets that arbiters wait for (R91). -/
def awaitedBuckets : List BucketId :=
  (List.finRange 8).map BucketId.tenant ++ [.timing, .pacing .l0, .pacing .l1]

/-- The credits that have reached 0. -/
def dueCredits (s : State) : List Instr :=
  (awaitedBuckets.filter fun b => creditDue b s).map .creditReachesZero

/-- A command that is due, or none. -/
def dueIf (b : Bool) (i : Instr) : List Instr := if b then [i] else []

/-- The due events of one link. -/
def dueOfLink (s : State) (l : Link) : List Instr :=
  dueIf (timerDue s (s.link l).supTimer) (.supervisionExpiry l) ++ dueIf (timerDue s (s.link l).pendTimer) (.pendingTimeout l)
    ++ dueIf (timerDue s (s.link l).holdTimer) (.holdOffExpiry l) ++ dueIf (phaseDue l s) (.phaseEnd l)
    ++ dueIf (testFrameIsDue l s) (.testFrameDue l)

/-- The due events of the Time Unit. -/
def dueOfTime (s : State) : List Instr :=
  dueIf (missingDue s) .pulseMissingExpiry ++ dueIf (holdoverDue s) .holdoverLimitExpiry ++ dueIf (slewDue s) .slewEnd
    ++ ((List.finRange 4).filter fun k => fallDue k s).map .pulseOutputFall

/-- The due events of the store and of start-up; what a memory answers is a free value at n. -/
def dueOfStore (s : State) (n : Nat) : List Instr :=
  dueIf (storeDue s .erase) (.storeEraseEnd (Config.readBackOk n))
    ++ dueIf (storeDue s .program) (.storeBlockProgrammed (Config.readBackOk n))
    ++ dueIf (storeDue s .recovery) .storeRecoveryEnd
    ++ dueIf (releasable .restartFull s) (.resetRelease .restartFull s.startup.pins)
    ++ dueIf (groupDue s) (.bufferGroupTested (Config.groupBad n)) ++ dueIf (loadDue s) .startupSlotLoaded

/-- Every event of the device that is due now. -/
def dueEvents (s : State) (n : Nat) : List Instr :=
  dueTransmissions s ++ dueCredits s ++ dueIf (windowDue s) .demandWindowExpiry ++ dueOfLink s .l0 ++ dueOfLink s .l1
    ++ dueOfTime s ++ dueIf (fireDue s) .scheduleFire ++ dueIf (noticeIsDue s) .noticeDue ++ dueOfStore s n

/-! ## Time passes (R101, R102) -/

/-- The events that site time has reached, with events that are due at the same moment before or among them. Either of
two may be first (R81, R116, R136, R165): free values pick one after the other until all that is reached is taken, and
what is still due then is left to the clock. -/
def mergeReached : Nat → List Instr → List Instr → State → List Instr × State
  | 0, reached, _, s => (reached, s)
  | _ + 1, [], _, s => ([], s)
  | fuel + 1, r :: rs, due, s =>
    let (n, s1) := takeFree s
    let k := Config.dueChoice n % (rs.length + 1 + due.length)
    let (next, s2) :=
      if k < rs.length + 1 then mergeReached fuel ((r :: rs).eraseIdx k) due s1
      else mergeReached fuel (r :: rs) (due.eraseIdx (k - (rs.length + 1))) s1
    ((r :: rs ++ due).getD k r :: next, s2)

/-- What an advance of site time has reached joins the queue, among the other events that are due now. DESIGN CHOICE (log
entries 2 and 18): the wrap of the seconds belongs to the advance, and goes before all of them; and a command from
outside at the same moment comes after what the advance has reached. -/
def joinReached (reached : List Instr) (s : State) : State :=
  let (n, s1) := takeFree s
  let due := (dueEvents s n).filter fun c => !reached.contains c
  let (events, s2) := mergeReached (reached.length + due.length) reached due s1
  { s2 with pending := s2.pending ++ wrapReached s ++ events }

/-- One unit of the elapsed counter passes (R101). At a whole nanosecond site time advances (R102), and what it reaches
waits in the queue. -/
def tick (s : State) : State :=
  let now := s.now + 1
  let s1 := { s with time := { s.time with elapsed := now } }
  if now.extractLsb' 0 16 = 0#16 then
    let drift := driftOf s.time.servo
    let s2 := updSite (SiteTime.advance drift) s1
    joinReached (reachedBySite s2 (advanceSteps drift s.time.site)) s2
  else s1

/-- The device's clock on an empty queue: one of the due events, a free value says which, or one unit of time. -/
def idle (s : State) : State :=
  let (n, s1) := takeFree s
  match dueEvents s n with
  | [] => tick s
  | c :: cs => { s1 with pending := [(c :: cs).getD (Config.dueChoice n % (cs.length + 1)) c] }

end Sys2Proof.Machine
end

