-- ==== Sys2Proof/Machine/ManagementRows.lean ====
section
/-!
DEFINITION. The management rows of the table: each is one request frame that has arrived on a port, taken from the gate
of the start-up state (R6) through its acceptance (R157) and execution to its response (R158), whole within one event.
-/

namespace Sys2Proof.Machine

/-- PORT_WRITE (R2). -/
def execPortWrite (h : Header) (sel : Selector) (body : List Field) (s : State) : Host.Outcome State Fault Refusal :=
  .next (rowRequest h 2 1 sel body portClassWrite s)

/-- FLOW_WRITE (R24, R25). -/
def execFlowWrite (h : Header) (sel : Selector) (body : List Field) (s : State) : Host.Outcome State Fault Refusal :=
  .next (rowRequest h 2 2 sel body flowClassWrite s)

/-- FLOW_DELETE (R26). -/
def execFlowDelete (h : Header) (sel : Selector) (body : List Field) (s : State) : Host.Outcome State Fault Refusal :=
  .next (rowRequest h 3 2 sel body flowClassDelete s)

/-- TENANT_WRITE (R61, R62). -/
def execTenantWrite (h : Header) (sel : Selector) (body : List Field) (s : State) : Host.Outcome State Fault Refusal :=
  .next (rowRequest h 2 3 sel body tenantClassWrite s)

/-- SHARE_SET_WRITE (R64). -/
def execShareSetWrite (h : Header) (sel : Selector) (body : List Field) (s : State) : Host.Outcome State Fault Refusal :=
  .next (rowRequest h 2 4 sel body shareClassWrite s)

/-- PARAMETERS_WRITE (R68): the selector is the index PARAMETERS. -/
def execParametersWrite (h : Header) (body : List Field) (s : State) : Host.Outcome State Fault Refusal :=
  .next (rowRequest h 2 4 paramSelector body (fun _ => paramClassWrite) s)

/-- LINK_WRITE (R36). -/
def execLinkWrite (h : Header) (sel : Selector) (body : List Field) (s : State) : Host.Outcome State Fault Refusal :=
  .next (rowRequest h 2 6 sel body linkClassWrite s)

/-- PROFILE_WRITE (R37). -/
def execProfileWrite (h : Header) (sel : Selector) (body : List Field) (s : State) : Host.Outcome State Fault Refusal :=
  .next (rowRequest h 2 7 sel body profileClassWrite s)

/-- STEP_WRITE (R139). -/
def execStepWrite (h : Header) (sel : Selector) (body : List Field) (s : State) : Host.Outcome State Fault Refusal :=
  .next (rowRequest h 2 8 sel body stepClassWrite s)

/-- SCHEDULE_WRITE (R130). -/
def execScheduleWrite (h : Header) (sel : Selector) (body : List Field) (s : State) : Host.Outcome State Fault Refusal :=
  .next (rowRequest h 2 11 sel body (fun _ => scheduleClassWrite) s)

/-- SCHEDULE_DELETE (R131). -/
def execScheduleDelete (h : Header) (sel : Selector) (body : List Field) (s : State) : Host.Outcome State Fault Refusal :=
  .next (rowRequest h 3 11 sel body scheduleClassDelete s)

/-- TIMING_WRITE (R104). -/
def execTimingWrite (h : Header) (sel : Selector) (body : List Field) (s : State) : Host.Outcome State Fault Refusal :=
  .next (rowRequest h 2 12 sel body (fun _ => timingClassWrite) s)

/-- PULSE_OUTPUT_WRITE (R115). -/
def execPulseOutputWrite (h : Header) (sel : Selector) (body : List Field) (s : State) : Host.Outcome State Fault Refusal :=
  .next (rowRequest h 2 13 sel body pulseClassWrite s)

/-- NOTICE_CONFIG_WRITE (R163). -/
def execNoticeConfigWrite (h : Header) (sel : Selector) (body : List Field) (s : State) : Host.Outcome State Fault Refusal :=
  .next (rowRequest h 2 15 sel body (fun _ => noticeClassWrite) s)

/-- ACTIVATE_SET (R66). -/
def execActivateSet (h : Header) (sel : Selector) (body : List Field) (s : State) : Host.Outcome State Fault Refusal :=
  .next (rowRequest h 4 0x101 sel body (fun _ => activateCommand) s)

/-- SET_TIME (R114). -/
def execSetTime (h : Header) (sel : Selector) (body : List Field) (s : State) : Host.Outcome State Fault Refusal :=
  .next (rowRequest h 4 0x102 sel body (fun _ => setTimeCommand) s)

/-- RETEST (R55). -/
def execRetest (h : Header) (sel : Selector) (body : List Field) (s : State) : Host.Outcome State Fault Refusal :=
  .next (rowRequest h 4 0x103 sel body (fun _ => retestCommand) s)

/-- ADMIT (R56). -/
def execAdmitLink (h : Header) (sel : Selector) (body : List Field) (s : State) : Host.Outcome State Fault Refusal :=
  .next (rowRequest h 4 0x104 sel body (fun _ => admitCommand) s)

/-- STOP (R57). -/
def execStopRun (h : Header) (sel : Selector) (body : List Field) (s : State) : Host.Outcome State Fault Refusal :=
  .next (rowRequest h 4 0x105 sel body (fun _ => stopCommand) s)

/-- CLEAR_CONDITIONS (R164). -/
def execClearConditions (h : Header) (sel : Selector) (body : List Field) (s : State) : Host.Outcome State Fault Refusal :=
  .next (rowRequest h 4 0x106 sel body (fun _ => clearCommand) s)

/-- CLEAR_RESET_CAUSE (R176). -/
def execClearResetCause (h : Header) (sel : Selector) (body : List Field) (s : State) : Host.Outcome State Fault Refusal :=
  .next (rowRequest h 4 0x107 sel body (fun _ => clearCauseCommand) s)

/-- ERASE_SLOT (R170). -/
def execEraseSlot (h : Header) (sel : Selector) (body : List Field) (s : State) : Host.Outcome State Fault Refusal :=
  .next (rowRequest h 4 0x108 sel body (fun _ => eraseSlotCommand) s)

/-- SAVE_SLOT (R171). -/
def execSaveSlot (h : Header) (sel : Selector) (body : List Field) (s : State) : Host.Outcome State Fault Refusal :=
  .next (rowRequest h 4 0x109 sel body (fun _ => saveSlotCommand) s)

/-- LOAD_SLOT (R172). -/
def execLoadSlot (h : Header) (sel : Selector) (body : List Field) (s : State) : Host.Outcome State Fault Refusal :=
  .next (rowRequest h 4 0x10A sel body (fun _ => loadSlotCommand) s)

/-- INVALIDATE_SLOT (R170). -/
def execInvalidateSlot (h : Header) (sel : Selector) (body : List Field) (s : State) : Host.Outcome State Fault Refusal :=
  .next (rowRequest h 4 0x10B sel body (fun _ => invalidateCommand) s)

/-- WRITE_INFO (R173). -/
def execWriteInfo (h : Header) (sel : Selector) (body : List Field) (s : State) : Host.Outcome State Fault Refusal :=
  .next (rowRequest h 4 0x10C sel body (fun _ => writeInfoCommand) s)

/-- ERASE_INFO (R173). -/
def execEraseInfo (h : Header) (sel : Selector) (body : List Field) (s : State) : Host.Outcome State Fault Refusal :=
  .next (rowRequest h 4 0x10D sel body (fun _ => eraseInfoCommand) s)

/-- The body of a RESTART with its first field, FULL 1 or TRAFFIC 2 (R178). -/
def restartBody (n : Nat) (body : List Field) : List Field := { id := 1, value := [BitVec.ofNat 8 n] } :: body

/-- RESTART_FULL (R160, R176): a RESTART whose first field is FULL. -/
def execRestartFull (h : Header) (sel : Selector) (body : List Field) (s : State) : Host.Outcome State Fault Refusal :=
  .next (rowRequest h 4 0x10E sel (restartBody 1 body) (fun _ => restartCommand) s)

/-- RESTART_TRAFFIC (R160, R176): a RESTART whose first field is TRAFFIC. -/
def execRestartTraffic (h : Header) (sel : Selector) (body : List Field) (s : State) : Host.Outcome State Fault Refusal :=
  .next (rowRequest h 4 0x10E sel (restartBody 2 body) (fun _ => restartCommand) s)

end Sys2Proof.Machine
end

