-- ==== Sys2Proof/Machine/StartRows.lean ====
section
/-!
DEFINITION. The rows of the store and of start-up: the ends of store phases, the resets, their release, and the
start-up sequence. A row whose moment has not come changes nothing.
-/

namespace Sys2Proof.Machine

/-! ## The store (R169 to R173) -/

/-- STORE_ERASE_END (R169): ok says that the bytes read back as intended. -/
def execStoreEraseEnd (ok : Bool) (s : State) : Host.Outcome State Fault Refusal :=
  if storeDue s .erase then .next (event (eraseEnds ok) s) else .next s

/-- STORE_BLOCK_PROGRAMMED (R171): ok says that the bytes read back as intended. -/
def execStoreBlockProgrammed (ok : Bool) (s : State) : Host.Outcome State Fault Refusal :=
  if storeDue s .program then .next (event (blockEnds ok) s) else .next s

/-- STORE_RECOVERY_END (R169). -/
def execStoreRecoveryEnd (s : State) : Host.Outcome State Fault Refusal :=
  if storeDue s .recovery then .next (event (recoveryEnds) s) else .next s

/-! ## Resets (R176) -/

/-- The low time of RSTIN_N that begins a pin reset, in ns (R179). -/
def pinLowNs : Nat := 1000

/-- POWER_ON_RESET (R176). -/
def execPowerOnReset (s : State) : Host.Outcome State Fault Refusal := .next (hardReset .powerOn s)

/-- SUPPLY_LOW_RESET (R176): a dip that ends before the monitor delay is ignored. -/
def execSupplyLowReset (lowNs : Nat) (s : State) : Host.Outcome State Fault Refusal :=
  if monitorDelayNs ≤ lowNs then .next (hardReset .supplyLow s) else .next s

/-- PIN_RESET (R176, R179): a shorter low pulse is ignored. -/
def execPinReset (lowNs : Nat) (s : State) : Host.Outcome State Fault Refusal :=
  if pinLowNs ≤ lowNs then .next (hardReset .pin s) else .next s

/-! ## Start-up (R174) -/

/-- RESET_RELEASE (R174, R176): a power-on reset is not released before the monitor delay. -/
def execResetRelease (k : Release) (straps : Straps) (s : State) : Host.Outcome State Fault Refusal :=
  if releasable k s then .next (event (releaseReset (resetOf k) straps) s) else .next s

/-- BUFFER_GROUP_TESTED (R174). -/
def execBufferGroupTested (bad : Bool) (s : State) : Host.Outcome State Fault Refusal :=
  if groupDue s then .next (event (groupEnds bad) s) else .next s

/-- STARTUP_SLOT_LOADED (R174). -/
def execStartupSlotLoaded (s : State) : Host.Outcome State Fault Refusal :=
  if loadDue s then .next (event (startupRead) s) else .next s

end Sys2Proof.Machine
end

