-- ==== Sys2Proof/Machine/Dispatch.lean ====
section
/-! DEFINITION. The one arm of each command: a direct call of its meaning. -/

namespace Sys2Proof.Machine

def exec (i : Instr) (s : State) : Host.Outcome State Fault Refusal :=
  match i with
  | .frameReceptionBegins p => Sys2Proof.Machine.execFrameReceptionBegins p s
  | .frameReceived p bytes => Sys2Proof.Machine.execFrameReceived p bytes s
  | .portWrite h sel body => Sys2Proof.Machine.execPortWrite h sel body s
  | .flowWrite h sel body => Sys2Proof.Machine.execFlowWrite h sel body s
  | .flowDelete h sel body => Sys2Proof.Machine.execFlowDelete h sel body s
  | .tenantWrite h sel body => Sys2Proof.Machine.execTenantWrite h sel body s
  | .shareSetWrite h sel body => Sys2Proof.Machine.execShareSetWrite h sel body s
  | .parametersWrite h body => Sys2Proof.Machine.execParametersWrite h body s
  | .linkWrite h sel body => Sys2Proof.Machine.execLinkWrite h sel body s
  | .profileWrite h sel body => Sys2Proof.Machine.execProfileWrite h sel body s
  | .stepWrite h sel body => Sys2Proof.Machine.execStepWrite h sel body s
  | .scheduleWrite h sel body => Sys2Proof.Machine.execScheduleWrite h sel body s
  | .scheduleDelete h sel body => Sys2Proof.Machine.execScheduleDelete h sel body s
  | .timingWrite h sel body => Sys2Proof.Machine.execTimingWrite h sel body s
  | .pulseOutputWrite h sel body => Sys2Proof.Machine.execPulseOutputWrite h sel body s
  | .noticeConfigWrite h sel body => Sys2Proof.Machine.execNoticeConfigWrite h sel body s
  | .activateSet h sel body => Sys2Proof.Machine.execActivateSet h sel body s
  | .setTime h sel body => Sys2Proof.Machine.execSetTime h sel body s
  | .retest h sel body => Sys2Proof.Machine.execRetest h sel body s
  | .admitLink h sel body => Sys2Proof.Machine.execAdmitLink h sel body s
  | .stopRun h sel body => Sys2Proof.Machine.execStopRun h sel body s
  | .clearConditions h sel body => Sys2Proof.Machine.execClearConditions h sel body s
  | .clearResetCause h sel body => Sys2Proof.Machine.execClearResetCause h sel body s
  | .eraseSlot h sel body => Sys2Proof.Machine.execEraseSlot h sel body s
  | .saveSlot h sel body => Sys2Proof.Machine.execSaveSlot h sel body s
  | .loadSlot h sel body => Sys2Proof.Machine.execLoadSlot h sel body s
  | .invalidateSlot h sel body => Sys2Proof.Machine.execInvalidateSlot h sel body s
  | .writeInfo h sel body => Sys2Proof.Machine.execWriteInfo h sel body s
  | .eraseInfo h sel body => Sys2Proof.Machine.execEraseInfo h sel body s
  | .restartFull h sel body => Sys2Proof.Machine.execRestartFull h sel body s
  | .restartTraffic h sel body => Sys2Proof.Machine.execRestartTraffic h sel body s
  | .flowDown p => Sys2Proof.Machine.execFlowDown p s
  | .portLinkUp p => Sys2Proof.Machine.execPortLinkUp p s
  | .accessTransmissionEnd p => Sys2Proof.Machine.execAccessTransmissionEnd p s
  | .backhaulTransmissionEnd l => Sys2Proof.Machine.execBackhaulTransmissionEnd l s
  | .creditReachesZero b => Sys2Proof.Machine.execCreditReachesZero b s
  | .demandWindowExpiry => Sys2Proof.Machine.execDemandWindowExpiry s
  | .supervisionExpiry l => Sys2Proof.Machine.execSupervisionExpiry l s
  | .pendingTimeout l => Sys2Proof.Machine.execPendingTimeout l s
  | .holdOffExpiry l => Sys2Proof.Machine.execHoldOffExpiry l s
  | .ppsEdge lowNs => Sys2Proof.Machine.execPpsEdge lowNs s
  | .pulseMissingExpiry => Sys2Proof.Machine.execPulseMissingExpiry s
  | .holdoverLimitExpiry => Sys2Proof.Machine.execHoldoverLimitExpiry s
  | .slewEnd => Sys2Proof.Machine.execSlewEnd s
  | .pulseOutputRise k => Sys2Proof.Machine.execPulseOutputRise k s
  | .pulseOutputFall k => Sys2Proof.Machine.execPulseOutputFall k s
  | .scheduleFire => Sys2Proof.Machine.execScheduleFire s
  | .siteSecondsWrap => Sys2Proof.Machine.execSiteSecondsWrap s
  | .phaseEnd l => Sys2Proof.Machine.execPhaseEnd l s
  | .testFrameDue l => Sys2Proof.Machine.execTestFrameDue l s
  | .noticeDue => Sys2Proof.Machine.execNoticeDue s
  | .storeEraseEnd readBackOk => Sys2Proof.Machine.execStoreEraseEnd readBackOk s
  | .storeBlockProgrammed readBackOk => Sys2Proof.Machine.execStoreBlockProgrammed readBackOk s
  | .storeRecoveryEnd => Sys2Proof.Machine.execStoreRecoveryEnd s
  | .powerOnReset => Sys2Proof.Machine.execPowerOnReset s
  | .supplyLowReset lowNs => Sys2Proof.Machine.execSupplyLowReset lowNs s
  | .pinReset lowNs => Sys2Proof.Machine.execPinReset lowNs s
  | .resetRelease k straps => Sys2Proof.Machine.execResetRelease k straps s
  | .bufferGroupTested bad => Sys2Proof.Machine.execBufferGroupTested bad s
  | .startupSlotLoaded => Sys2Proof.Machine.execStartupSlotLoaded s

end Sys2Proof.Machine
end

