-- ==== Sys2Proof/Safety.lean ====
section
/-!
DEFINITION. What counts as a sound state: the laws that the spec says the device keeps, as predicates of one state.
-/

namespace Sys2Proof.Machine

/-- No two flow entries have the same key (R21), and each slot holds one entry, in ascending order of slots. -/
def flowLaw (t : List (Nat × FlowEntry)) : Prop :=
  (t.map fun x => x.1).Pairwise (· < ·) ∧ (t.map fun x => x.2.spec.key).Nodup

/-- Schedule entries have distinct times in ascending order (R129). -/
def scheduleLaw (t : List ScheduleEntry) : Prop := (t.map fun e => e.time).Pairwise (· < ·)

/-- In every share set the guarantees of the active tenants sum to at most 1,000 per mille (R65). -/
def shareSumLaw (s : State) : Prop := shareLaw s.cfg.tenants s.cfg.sets = true

/-- The frequency adjustment stays within ±200,000 ppb (R110). -/
def servoLaw (s : State) : Prop := -200000 ≤ s.time.servo.f ∧ s.time.servo.f ≤ 200000

/-- The sum of the allocations plus the unassigned remainder equals the U of the same table, and that U never exceeds
the effective capacity G of the links in service (R79). -/
def allocationLaw (t : AllocTable) : Prop :=
  (t.tenants.toList.map fun x => x.allocation).sum + t.unassigned = t.u ∧ t.u ≤ t.g

/-- The retired-group list is in ascending order and holds each group at most once (R16). -/
def retiredLaw (p : Pool) : Prop := p.retired.Pairwise (· < ·)

/-- The slot bodies that the device holds: in the slots, and in the copy of a save under way (R168, R171). -/
def storedBodies (s : State) : List SlotBody :=
  (s.store.slots.toList.filterMap fun x => x.body)
    ++ (match s.store.op with
        | some o => match o.job with
          | .saveSlot _ b _ => [b]
          | _ => []
        | none => [])

/-- The laws of the running classes, and of every slot body that may replace them: the Flow Table (R21, R22, R32), the
order of the schedule (R129), and the share-sum law (R65). -/
def ClassLaws (s : State) : Prop :=
  flowLaw s.flows ∧ scheduleLaw s.cfg.schedule ∧ shareSumLaw s
    ∧ ∀ b, b ∈ storedBodies s →
        (b.flows.map fun x => x.1).Pairwise (· < ·) ∧ (b.flows.map fun x => x.2.key).Nodup
          ∧ scheduleLaw b.classes.schedule ∧ shareLaw b.classes.tenants b.classes.sets = true

/-- The store between commands (R168 to R171, R173): what is erased carries no valid marker, an erase phase belongs to
an erase operation, and the marker that a program under way writes last does not read valid before. -/
def StoreLaw (x : Store) : Prop :=
  (∀ j, (tget x.slots j).erased = true → (tget x.slots j).marker ≠ markerValid)
  ∧ (x.info.erased = true → x.info.marker ≠ markerValid)
  ∧ ∀ o, x.op = some o →
      (o.phase = .erase → jobName o.job = .eraseSlot ∨ jobName o.job = .eraseInfo)
      ∧ (o.phase = .program →
          jobName o.job ≠ .eraseSlot ∧ jobName o.job ≠ .eraseInfo
          ∧ (∀ j, jobSlot o.job = some j → jobName o.job = .saveSlot → (tget x.slots j).marker ≠ markerValid)
          ∧ (jobName o.job = .writeInfo → x.info.marker ≠ markerValid))

/-- G, X and U of the allocation table are what R71 to R73 make of its own rows, and no allocation lies below its
guarantee (R75). -/
def tableLaw (t : AllocTable) : Prop :=
  t.g = (if t.links.l0.inService = true then t.links.l0.el else 0)
      + (if t.links.l1.inService = true then t.links.l1.el else 0)
    ∧ t.x = (if t.links.l0.inService = true then t.links.l0.xl else 0)
        + (if t.links.l1.inService = true then t.links.l1.xl else 0)
    ∧ t.u = t.g - (t.tRes + t.x)
    ∧ ∀ i, (tget t.tenants i).guarantee ≤ (tget t.tenants i).allocation

/-- The allocation table counts a link exactly while it is IN_SERVICE, with the E_L that it has (R40, R71). -/
def LinksCounted (s : State) : Prop :=
  ∀ l, (s.share.table.links.get l).inService = s.inService l
    ∧ (s.inService l = true → (s.share.table.links.get l).el = s.el l)

/-- Each run under way has its one TEST_RETURN entry, in the slot and with the key of its context, and its link is
QUALIFYING or IN_SERVICE; every TEST entry belongs to a run under way; runs are under way in RUNNING only (R30, R50,
R51, R141). -/
def TestLaw (s : State) : Prop :=
  (s.startup.state ≠ .running → ∀ l, (s.ctx l).underWay = false)
  ∧ (∀ l, (s.ctx l).underWay = true →
      ((s.link l).state = .qualifying ∨ (s.link l).state = .inService)
      ∧ ∃ n e, (s.ctx l).slot = some n ∧ (n, e) ∈ s.flows ∧ e.owner = .test ∧ e.spec.action = .testReturn
          ∧ (s.ctx l).testKey = some e.spec.key ∧ e.spec.key.port = .bh l)
  ∧ ∀ x, x ∈ s.flows → x.2.owner = .test → ∃ l, (s.ctx l).underWay = true ∧ (s.ctx l).slot = some x.1

/-- While site time is valid, every schedule entry lies ahead of it, or the firing of those it has reached waits in the
queue (R129, R132); site time is not valid before RUNNING or FAULT (R103). -/
def ScheduleAhead (s : State) : Prop :=
  (s.startup.state = .reset ∨ s.startup.state = .checking ∨ s.startup.state = .loading → s.time.valid = false)
  ∧ (s.time.valid = true →
      (∀ e, e ∈ s.cfg.schedule → s.time.site.seconds < e.time) ∨ Instr.scheduleFire ∈ s.pending)

/-- The cells of the frames in queues and of the frames being transmitted. -/
def heldCells (s : State) : List Nat :=
  (s.queues.all.map fun d => d.cells).flatten
    ++ (Port.list.map fun p => match (s.port p).tx with
        | some x => match x.item with
          | .pool d => d.cells
          | .store _ => []
        | none => []).flatten

/-- Every cell of the groups that are not retired is either free or held by one frame (R15); outside RUNNING no frame
holds a cell (R6). -/
def PoolLaw (s : State) : Prop :=
  (s.pool.free ++ heldCells s).Perm (cellsWithout s.pool.retired) ∧ (s.startup.state ≠ .running → heldCells s = [])

/-- No port's local store holds more frames than its 16 places (R17). -/
def LocalLaw (s : State) : Prop := ∀ p, s.placesTaken p ≤ 16

/-- The test queues hold test and reflected frames only (R11, R12). -/
def TestQueues (s : State) : Prop := ∀ l d, d ∈ s.queues.test.get l → d.cls = .test ∨ d.cls = .reflected

/-! ## Frames: what an event leaves as it was

Every event that lets a frame join a queue, or that is one of the events of R91, also starts the departures that it
calls for (R18, R91). A frame statement says which parts of the state an event writes; the rest keeps to Part.kept. -/

/-- The parts of the state. -/
inductive Part where
  /-- The running classes of a slot body (R168). -/
  | config
  /-- The Flow Table, but for the last links, which departures write (R29). -/
  | flows
  /-- Link up of every port (R4). -/
  | linkUp
  /-- The reception under way on every port (R4, R5). -/
  | reception
  /-- The counters of every port, but for correction-offset errors, which departures step (R123). -/
  | counters
  /-- The transmissions under way, and the frames that wait (R12, R17). -/
  | traffic
  /-- The retired-group list (R16). -/
  | retired
  /-- The demand byte counts and measured demands (R14, R69). -/
  | demand
  /-- The allocations of the tenant records (R60, R79). -/
  | allocation
  /-- Frames accepted, frames dropped and bytes departed of every tenant (R60). -/
  | tallies
  /-- The Share Calculator: its inputs, its window and the allocation table (R69, R72, R79). -/
  | share
  /-- The rate and the depth of every bucket (R83). -/
  | rates
  /-- The reflect buckets, which no departure charges (R89). -/
  | reflect
  /-- The link records (R35). -/
  | links
  /-- The Time Unit (R101 to R105, R115). -/
  | time
  /-- The firing record (R129). -/
  | firing
  /-- The programme contexts and the result table (R141, R142). -/
  | qual
  /-- The condition latches, but for those whose causes are departures (R162). -/
  | latches
  /-- The store (R168, R169). -/
  | store
  /-- The Start-up Controller (R174, R176). -/
  | startup
  /-- The commands that wait. -/
  | pending
  /-- The notice state, which a new latching may change (R165). -/
  | notice
  /-- The local queues, which the notices of new latchings may join (R17, R166). -/
  | locals
deriving DecidableEq, Repr

/-- A port is transmitting an item. -/
def sends (s : State) (p : Port) (item : TxItem) : Prop := ∃ x, (s.port p).tx = some x ∧ x.item = item

/-- Some backhaul port is transmitting a frame of the pool. -/
def sendsUpstream (s : State) (d : Descriptor) : Prop := ∃ l, sends s (.bh l) (.pool d)

/-- A condition whose cause is a departure or a discard for age (R95, R125, R127). -/
def Cond.ofDeparture : Cond → Bool
  | .agedDiscard _ | .correctionSaturated | .timingPathChanged => true
  | _ => false

/-- An entry without its last link. -/
def withoutLastLink (x : Nat × FlowEntry) : Nat × FlowEntry := (x.1, { x.2 with lastLink := none })

/-- A condition that was not latched is (R162). -/
def newlyLatched (s t : State) : Prop := ∃ c : Cond, (s.latch c).latched = false ∧ (t.latch c).latched = true

/-- What the local queues hold after an event: what they held, what was offered as an answer, and notices of the event's
own moment, built only where there is a cause for one (R165, R166); frames left from the head only, and a port that
starts a local frame starts one of these (R12, R17). -/
def LocalsAre (cause : Prop) (answer : Port → List LocalFrame) (s t : State) : Prop :=
  ∀ p : Port, ∃ ns : List Notice, (∀ n, n ∈ ns → n.elapsed = s.nowNs) ∧ (ns ≠ [] → cause)
    ∧ t.localQ p <:+ s.localQ p ++ answer p ++ ns.map .notice
    ∧ ∀ f, sends t p (.store f) → sends s p (.store f) ∨ f ∈ s.localQ p ++ answer p ++ ns.map .notice

/-- What the traffic keeps to while nothing but departures happens: a transmission under way goes on; frames leave a
queue only from its head; a frame that left is being transmitted, or was a tenant frame past its age (R95) or a
generated test frame of no run under way (R96); local queues lose nothing but what is being transmitted; no free cell is
taken; and a port whose link is down starts nothing and takes no local frame (R17, R18, R90). -/
structure TrafficKept (s t : State) : Prop where
  going : ∀ p x, (s.port p).tx = some x → (t.port p).tx = some x
  tenant : ∀ i, t.tenantQ i <:+ s.tenantQ i
  tenantLeft : ∀ i d, d ∈ s.tenantQ i →
    d ∈ t.tenantQ i ∨ sendsUpstream t d ∨ isAged t.now (t.tenantCfg i).maxAge d = true
  timing : t.queues.timing <:+ s.queues.timing
  timingLeft : ∀ d, d ∈ s.queues.timing → d ∈ t.queues.timing ∨ sendsUpstream t d
  test : ∀ l, t.queues.test.get l <:+ s.queues.test.get l
  testLeft : ∀ l d, d ∈ s.queues.test.get l →
    d ∈ t.queues.test.get l ∨ sends t (.bh l) (.pool d) ∨ testRefused (t.ctx l) d = true
  down : ∀ p, t.queues.down.get p <:+ s.queues.down.get p
  downLeft : ∀ p d, d ∈ s.queues.down.get p → d ∈ t.queues.down.get p ∨ sends t p (.pool d)
  localLeft : ∀ p f, f ∈ s.localQ p → f ∈ t.localQ p ∨ sends t p (.store f)
  free : ∀ c, c ∈ s.pool.free → c ∈ t.pool.free
  silent : ∀ p, (s.port p).linkUp = false → (t.port p).tx = (s.port p).tx ∧ t.localQ p = s.localQ p

/-- A part of the state is in t as in s, but for what departures change. -/
def Part.kept : Part → State → State → Prop
  | .config, s, t => t.cfg = s.cfg
  | .flows, s, t => t.flows.map withoutLastLink = s.flows.map withoutLastLink
  | .linkUp, s, t => ∀ p, (t.port p).linkUp = (s.port p).linkUp
  | .reception, s, t => ∀ p, (t.port p).rx = (s.port p).rx
  | .counters, s, t => ∀ (p : Port) (c : PortCounter), c ≠ .correctionOffsetErrors →
      tget (t.port p).counters (PortCounter.idx c) = tget (s.port p).counters (PortCounter.idx c)
  | .traffic, s, t => TrafficKept s t
  | .retired, s, t => t.pool.retired = s.pool.retired
  | .demand, s, t => ∀ i, (t.tenant i).demandBytes = (s.tenant i).demandBytes ∧ (t.tenant i).demand = (s.tenant i).demand
  | .allocation, s, t => ∀ i, (t.tenant i).allocation = (s.tenant i).allocation
  | .tallies, s, t => ∀ i, (t.tenant i).accepted = (s.tenant i).accepted ∧ (t.tenant i).dropped = (s.tenant i).dropped
      ∧ (t.tenant i).departed = (s.tenant i).departed
  | .share, s, t => t.share = s.share
  | .rates, s, t => ∀ b, (t.bucket b).rate = (s.bucket b).rate ∧ (t.bucket b).depth = (s.bucket b).depth
  | .reflect, s, t => t.sched.reflect = s.sched.reflect
  | .links, s, t => t.links = s.links
  | .time, s, t => t.time = s.time
  | .firing, s, t => t.firing = s.firing
  | .qual, s, t => t.qual = s.qual
  | .latches, s, t => ∀ c : Cond, c.ofDeparture = false → t.latch c = s.latch c
  | .store, s, t => t.store = s.store
  | .startup, s, t => t.startup = s.startup
  | .pending, s, t => t.pending = s.pending
  | .notice, s, t => ¬newlyLatched s t → t.mgmt.notice = s.mgmt.notice
  | .locals, s, t => LocalsAre (newlyLatched s t) (fun _ => []) s t

/-- Every part but the written ones is kept. -/
def Kept (written : List Part) (s t : State) : Prop := ∀ a : Part, a ∉ written → a.kept s t

/-! ## Requests and computations, as statements speak of them -/

/-- A request that arrived with a header passes R157 in RUNNING: management is permitted on its port, and the port's
local store has a place for the response (log entry 34). -/
def Accepts (h : Header) (s : State) : Prop :=
  s.startup.state = .running ∧ (s.cfg.ports.get h.port).mgmt = true ∧ s.placesTaken h.port < 16

/-- The one answer of an event is a response with a status and a body that repeats what the request gave it (R158): it
joins the local queue of the request's port, and stands there or is being transmitted, unless that port's link is down
(R17); no other frame joins a local queue but notices that have a cause. -/
def RespondedWith (cause : Prop) (h : Header) (kind code : Nat) (sel : Selector) (st : Status) (items : List Item)
    (s t : State) : Prop :=
  ∃ r : Response, r.dst = h.src ∧ r.src = s.store.runAddr ∧ r.vlanTag = h.vlanTag ∧ r.tag = h.tag
    ∧ r.kind = BitVec.ofNat 8 kind ∧ r.code = BitVec.ofNat 16 code ∧ r.sel = sel ∧ r.status = st ∧ r.body = items
    ∧ LocalsAre cause (fun p => if p = h.port ∧ (s.port p).linkUp = true then [.response r] else []) s t
    ∧ ((s.port h.port).linkUp = true →
        LocalFrame.response r ∈ t.localQ h.port ∨ sends t h.port (.store (.response r)))

/-- The one answer of an event, where a notice needs a new latching. -/
def AnsweredWith (h : Header) (kind code : Nat) (sel : Selector) (st : Status) (items : List Item) (s t : State) : Prop :=
  RespondedWith (newlyLatched s t) h kind code sel st items s t

/-- The request is answered with a status and some body. -/
def Answered (h : Header) (kind code : Nat) (sel : Selector) (st : Status) (s t : State) : Prop :=
  ∃ items, AnsweredWith h kind code sel st items s t

/-- Some latch of a level from 1 to 3 is latched (R166). -/
def Reportable (s : State) : Prop := ∃ c : Cond, (s.latch c).latched = true ∧ 1 ≤ s.level c ∧ s.level c ≤ 3

/-- A notice has left the pending flag cleared and nothing else changed (R165). -/
def noticeCleared (n : NoticeState) : NoticeState := { n with pending := false, due := none }

/-- One notice was built in an event that gives so many answers on each port (R165, R166): it says what the state holds,
its copies went to the local queues of the notice destinations that had room, and the notice state counts it and the
copies refused. -/
def NoticeBuilt (answers : Port → Nat) (s t : State) : Prop :=
  ∃ n : Notice, n.dst = t.cfg.notice.address ∧ n.src = t.store.runAddr ∧ n.label = t.store.runLabel
    ∧ n.site = (if t.time.valid = true then some (t.time.site.seconds, t.time.site.nanos) else none)
    ∧ n.elapsed = s.nowNs ∧ n.u = t.share.table.u
    ∧ (∀ l, (n.links.get l).state = (t.link l).state ∧ (n.links.get l).current = (t.link l).current
        ∧ (n.links.get l).stale = (t.link l).stale ∧ (n.links.get l).level = (t.link l).level)
    ∧ (∀ c : Cond, ({ cond := c, level := t.level c, latch := t.latch c } : LatchRecord) ∈ n.latches ↔
        (t.latch c).latched = true ∧ 1 ≤ t.level c ∧ t.level c ≤ 3)
    ∧ (n.latches.map fun y => y.level).Pairwise (· ≥ ·)
    ∧ (∀ p, (t.cfg.ports.get p).noticeDest = true → (s.port p).linkUp = true → s.placesTaken p + answers p < 16 →
        LocalFrame.notice n ∈ t.localQ p ∨ sends t p (.store (.notice n)))
    ∧ t.mgmt.notice =
      { last := some s.nowNs, pending := false, due := none, built := s.mgmt.notice.built + 1
        refused := s.mgmt.notice.refused + BitVec.ofNat 32 (Port.list.filter fun p =>
          (t.cfg.ports.get p).noticeDest
            && !(decide (s.placesTaken p + answers p < 16) && (s.port p).linkUp)).length }

/-- What becomes of a notice that falls due (R165): it is built where some latch is reportable, and otherwise the flag
is cleared. -/
def FallsDue (answers : Port → Nat) (s t : State) : Prop :=
  (Reportable t → NoticeBuilt answers s t)
    ∧ ((∀ c : Cond, (t.latch c).latched = true → t.level c = 0) → t.mgmt.notice = noticeCleared s.mgmt.notice)

/-- What becomes of a new latching of a level above 0 in RUNNING or FAULT (R165): at level 3, with no notice yet, or
with the interval passed since the last, a notice is built at once; otherwise one is pending, due at the end of the
interval. -/
def LatchingJudged (c : Cond) (answers : Port → Nat) (s t : State) : Prop :=
  if s.level c = 3 ∨ (∀ x, s.mgmt.notice.last = some x → s.cfg.notice.interval * 1000000 ≤ (s.nowNs - x).toNat) then
    NoticeBuilt answers s t
  else if s.mgmt.notice.pending = true then t.mgmt.notice = s.mgmt.notice
  else t.mgmt.notice = { s.mgmt.notice with
    pending := true
    due := s.mgmt.notice.last.map fun x => x + BitVec.ofNat 64 (s.cfg.notice.interval * 1000000) }

/-- The notice state after a latching that CHECKING or LOADING judged (R165): a new latching of a level above 0 sets the
pending flag. -/
def flagged (c : Cond) (raised : Bool) (s : State) : NoticeState :=
  if raised = true ∧ (s.latch c).latched = false ∧ 1 ≤ s.level c then { s.mgmt.notice with pending := true }
  else s.mgmt.notice

/-- The notice state after the entry into RUNNING or FAULT (R165), from the notice state n that the start-up has left: a
set flag falls due. -/
def NoticeAtEntry (n : NoticeState) (s t : State) : Prop :=
  if n.pending = true then FallsDue (fun _ => 0) s t else t.mgmt.notice = n

/-- The allocation table of a state is what a computation made at its moment from its records gives, and the tenant
records and the buckets hold what it published (R74 to R79). -/
def Computed (t : State) : Prop :=
  t.share.table = { computeTable t with computations := t.share.table.computations }
    ∧ (∀ i, (t.tenant i).allocation = (tget t.share.table.tenants i).allocation)
    ∧ (∀ i, (t.bucket (.tenant i)).rate = (tget t.share.table.tenants i).allocation)
    ∧ (t.bucket .timing).rate = t.share.table.tRes

/-- One computation was made between two states and stands in the second; CAPACITY_CHANGED occurred exactly when U
differs from the U before (R79, R81). -/
def OneComputation (s t : State) : Prop :=
  Computed t ∧ t.share.table.computations = s.share.table.computations + 1
    ∧ t.latch .capacityChanged
        = (if t.share.table.u = s.share.table.u then s.latch .capacityChanged
           else (s.latch .capacityChanged).occur s.nowNs none)

/-- The parts that a computation writes. -/
def computed : List Part := [.share, .allocation, .rates, .latches]

/-- The buckets whose rates a computation gives (R79). -/
def isShared : BucketId → Bool
  | .tenant _ | .timing => true
  | _ => false

/-- The rates of the pacing and reflect buckets outside a list are kept. -/
def OtherRatesKept (changed : List BucketId) (s t : State) : Prop :=
  ∀ b : BucketId, isShared b = false → b ∉ changed → (t.bucket b).rate = (s.bucket b).rate

/-- The depths of the buckets outside a list are kept. -/
def DepthsKept (changed : List BucketId) (s t : State) : Prop :=
  ∀ b : BucketId, b ∉ changed → (t.bucket b).depth = (s.bucket b).depth

/-- The latches outside a list are kept, but for those whose causes are departures. -/
def LatchesKept (changed : List Cond) (s t : State) : Prop :=
  ∀ c : Cond, c ∉ changed → c.ofDeparture = false → t.latch c = s.latch c

/-- A link was reported (R40): a change of its E_L or of its being IN_SERVICE was followed by a computation, and a
changed E_L is the rate of the link's pacing bucket; without a change nothing is computed and no rate changes. -/
def Reported (l : Link) (s t : State) : Prop :=
  if t.el l = s.el l ∧ t.inService l = s.inService l then
    t.share.table = s.share.table ∧ Part.allocation.kept s t ∧ ∀ b, (t.bucket b).rate = (s.bucket b).rate
  else Computed t ∧ (t.el l ≠ s.el l → (t.bucket (.pacing l)).rate = t.el l)

/-- What the port counters were stepped by, and nothing else was counted (R3). -/
def Counted (steps : List (Port × PortCounter × Nat)) (s t : State) : Prop :=
  ∀ (q : Port) (c : PortCounter), c ≠ .correctionOffsetErrors →
    tget (t.port q).counters (PortCounter.idx c) =
      tget (s.port q).counters (PortCounter.idx c)
        + BitVec.ofNat 64 ((steps.filter fun x => decide (x.1 = q ∧ x.2.1 = c)).map fun x => x.2.2).sum

/-- The reception under way on a port is over, and every other one goes on (R5). -/
def ReceptionOver (p : Port) (s t : State) : Prop := ∀ q, (t.port q).rx = if q = p then none else (s.port q).rx

/-- The entries at or before the seconds count of the second state fired (R132, R133): they left the table, the set of
the last became active with one computation, the record of firing and SHARE_SET_CHANGED say so. With no such entry
nothing fired. The event may also have changed the latches and the parts given. -/
def FiredBeside (latches : List Cond) (parts : List Part) (s t : State) : Prop :=
  let due := s.cfg.schedule.filter fun e => decide (e.time ≤ t.time.site.seconds)
  match due.getLast? with
  | none => t.cfg = s.cfg ∧ LatchesKept latches s t ∧ Kept parts s t
  | some e =>
    t.cfg = { s.cfg with
      schedule := s.cfg.schedule.filter (fun e => decide (t.time.site.seconds < e.time)), activeSet := e.set }
    ∧ t.firing =
      { fired := s.firing.fired + BitVec.ofNat 32 due.length
        last := some { count := due.length, time := e.time, set := e.set, tag := e.tag
                       siteSeconds := t.time.site.seconds, siteNanos := t.time.site.nanos, elapsed := s.nowNs } }
    ∧ OneComputation s t ∧ t.share = { s.share with table := t.share.table }
    ∧ OtherRatesKept [] s t ∧ DepthsKept [] s t
    ∧ t.latch .shareSetChanged = (s.latch .shareSetChanged).occur s.nowNs (some e.tag)
    ∧ LatchesKept (latches ++ [.capacityChanged, .shareSetChanged]) s t
    ∧ Kept (computed ++ parts ++ [.config, .firing]) s t

/-- SET_TIME fired what it passed (R133, R135); its answer joins a local queue. -/
def Fired (s t : State) : Prop := FiredBeside [] [.time, .locals] s t

/-- The outputs that were high and may no longer pulse are low, and every other output is as it was (R116). -/
def Squelched (s t : State) : Prop :=
  ∀ k, tget t.time.pulses k =
    (if (tget s.time.pulses k).high = true ∧ pulseAllowed t k = false then
      { tget s.time.pulses k with high := false, fall := none } else tget s.time.pulses k)

/-- The run of a link was aborted with a cause (R152): its context says so with the counts of the step discarded, its
TEST_RETURN entry is gone, and its test rate is 0. -/
def Aborted (l : Link) (cause : Cause) (s t : State) : Prop :=
  t.qual = { s.qual with ctx := s.qual.ctx.set l { s.ctx l with
      state := .aborted, cause, current := none, step := none, phaseEnd := none, gen := .none
      slot := none, testKey := none, range := none, sent := 0, returned := 0, minRt := none, maxRt := none
      sumRt := 0 } }
    ∧ t.flows.map withoutLastLink =
        (s.flows.filter fun y => !(some y.1 == (s.ctx l).slot && decide (y.2.owner = .test))).map withoutLastLink
    ∧ t.share.testRate.get l = 0 ∧ t.share.testRate.get l.other = s.share.testRate.get l.other

/-- The changed E_L of an IN_SERVICE link no longer carries the LOAD step of its run (R148). -/
def CapacityAborts (l : Link) (s t : State) : Prop :=
  ∃ r, (s.ctx l).step = some r ∧ t.el l ≠ s.el l ∧ (s.ctx l).inService = true ∧ r.kind = .load
    ∧ ((s.ctx l).state = .settle ∨ (s.ctx l).state = .measure) ∧ t.el l < r.rate

/-- A report of an IN_SERVICE link with a run under way (R40, R148): a changed E_L is computed and is the rate of the
link's pacing bucket, and aborts a LOAD step that it does not carry; the parts given are written beside. -/
def ReportedToRun (l : Link) (written : List Part) (s t : State) : Prop :=
  (t.el l = s.el l → t.share = s.share ∧ Kept written s t)
  ∧ (t.el l ≠ s.el l → Computed t ∧ (t.bucket (.pacing l)).rate = t.el l)
  ∧ (t.el l ≠ s.el l → ¬CapacityAborts l s t → Kept (computed ++ written) s t)
  ∧ (CapacityAborts l s t →
      (t.ctx l).state = .aborted ∧ (t.ctx l).cause = .capacity ∧ (t.ctx l).slot = none
        ∧ t.ctx l.other = s.ctx l.other ∧ t.share.testRate.get l = 0
        ∧ Kept (computed ++ [.flows, .qual] ++ written) s t)

/-- The key of a link's TEST_RETURN entry (R143). -/
def testKeyOf (l : Link) (c : Classes) : FlowKey := { port := .bh l, vlan := some (c.links.get l).testVlan }

/-- A run of a link can start (R143) on the classes and the Flow Table given: its programme is records first to last,
the key is free, and n is the lowest free slot. -/
structure Startable (l : Link) (c : Classes) (flows : List (Nat × FlowEntry)) (first last : Fin 32) (n : Nat) : Prop where
  index : (c.links.get l).startIndex = some first
  programme : ((List.finRange 32).find? fun i => decide (first ≤ i) && (tget c.steps i).last) = some last
  key : findKey (testKeyOf l c) flows = none
  slot : lowestFree flows = some n

/-- The context of a run that has just started (R144, R145), from the context c0 before it. -/
def startedContext (l : Link) (c : Classes) (c0 : Context) (now : Instant) (svc : Bool) (first last : Fin 32) (n : Nat) :
    Context :=
  { state := .settle, runNo := c0.runNo + 1, inService := svc, cause := .none, first := some first, last := some last
    current := some first, step := some (tget c.steps first), testKey := some (testKeyOf l c), slot := some n
    phaseEnd := some (afterMs now (tget c.steps first).settle), gen := startGenerator (tget c.steps first) now
    nextSeq := 0, range := none, sent := 0, returned := 0, minRt := none, maxRt := none, sumRt := 0 }

/-- The cause for which a start is refused (R143), in the order of the checks. -/
def startRefusal (l : Link) (c : Classes) (flows : List (Nat × FlowEntry)) : Option Cause :=
  match (c.links.get l).startIndex with
  | none => some .programmeInvalid
  | some first =>
    if ((List.finRange 32).find? fun i => decide (first ≤ i) && (tget c.steps i).last).isNone then some .programmeInvalid
    else if (findKey (testKeyOf l c) flows).isSome then some .keyInUse
    else if (lowestFree flows).isNone then some .tableFull
    else none

/-- The context of a refused start (R143): FAILED with the cause, and the run number stepped. -/
def refusedContext (c0 : Context) (svc : Bool) (cause : Cause) : Context :=
  { c0 with
    state := .failed, runNo := c0.runNo + 1, inService := svc, cause, current := none, step := none, phaseEnd := none
    gen := .none, slot := none, testKey := none }

/-- The Flow Table without the TEST entry of a link's run (R30, R152). -/
def withoutTest (l : Link) (s : State) : List (Nat × FlowEntry) :=
  s.flows.filter fun y => !(some y.1 == (s.ctx l).slot && decide (y.2.owner = .test))

/-- A link's record u after a carrier-absent report (R43, R50, R51): the carrier and the pending profile are gone; a
link in service fades, and with a hold-off of 0 goes on to DOWN; a QUALIFYING link enters DOWN. -/
def lostLink (l : Link) (clearStale : Bool) (u : LinkUnit) (s : State) : LinkUnit :=
  let v := { u with carrier := false, pending := none, pendTimer := none, stale := u.stale && !clearStale }
  match u.state with
  | .inService =>
    let w := { v with supTimer := none, counters := { v.counters with fades := v.counters.fades + 1 } }
    if (s.cfg.links.get l).holdOff = 0 then { w with state := .down, stale := false, holdTimer := none }
    else { w with state := .faded, holdTimer := some (afterMs s.now (s.cfg.links.get l).holdOff) }
  | .qualifying => { v with state := .down, stale := false, supTimer := none, holdTimer := none }
  | _ => v

/-- A carrier-absent report was taken on a link whose record u it found (R43, R50 to R52, R152): the record after it,
the conditions, the run aborted with cause CARRIER, and the computation without the link. -/
def CarrierLost (l : Link) (clearStale : Bool) (u : LinkUnit) (s t : State) : Prop :=
  t.links = s.links.set l (lostLink l clearStale u s)
  ∧ t.latch (.linkFaded l)
      = (if u.state = .inService then (s.latch (.linkFaded l)).occur s.nowNs none else s.latch (.linkFaded l))
  ∧ t.latch (.linkDown l)
      = (if u.state = .qualifying ∨ u.state = .inService ∧ (s.cfg.links.get l).holdOff = 0 then
          (s.latch (.linkDown l)).occur s.nowNs none else s.latch (.linkDown l))
  ∧ LatchesKept [.capacityChanged, .linkFaded l, .linkDown l] s t
  ∧ (if (s.ctx l).underWay = true ∧ (u.state = .inService ∨ u.state = .qualifying) then Aborted l .carrier s t
     else t.qual = s.qual ∧ Part.flows.kept s t)
  ∧ (u.state = .inService → Computed t)
  ∧ (u.state ≠ .inService → t.el l = s.el l → t.share.table = s.share.table)
  ∧ (t.el l ≠ s.el l → (t.bucket (.pacing l)).rate = t.el l)

/-- What a change of the Flow Table reports (R31): each link's REFLECT presence is what the table now holds; without a
change of either nothing but the table is written; a change on one IN_SERVICE link alone is followed by a computation.
-/
def ReflectReported (s t : State) : Prop :=
  (∀ l, t.share.reflectPresent.get l = decide (0 < reflectCount l t.flows))
  ∧ ((∀ l, t.share.reflectPresent.get l = s.share.reflectPresent.get l) → Kept [.locals, .flows] s t)
  ∧ (∀ l, t.share.reflectPresent.get l ≠ s.share.reflectPresent.get l →
      t.share.reflectPresent.get l.other = s.share.reflectPresent.get l.other → s.inService l = true →
      OneComputation s t)

/-- What a write of shares or parameters that computes leaves beside the configuration (R64, R66, R68, R81). -/
def ComputedOnce (s t : State) : Prop :=
  OneComputation s t ∧ t.share = { s.share with table := t.share.table } ∧ OtherRatesKept [] s t ∧ DepthsKept [] s t
    ∧ LatchesKept [.capacityChanged] s t ∧ Kept (computed ++ [.locals, .config]) s t

/-- What every reset but RESTART TRAFFIC leaves (R20, R34, R59, R82, R88, R118, R138, R155, R167, R169, R176): every
block at its power-on value, the retired-group list kept except at power-on, the store idle with its factory times and
its bytes kept but for those whose erase or program was under way, whose slot reports INVALID unless every byte reads as
ones, the start-up state RESET with the reset held, its flag in the cause record, and the reset-out pin asserted (R179).
-/
structure AfterReset (k : ResetKind) (s t : State) : Prop where
  config : t.cfg = factoryClasses
  flows : t.flows = []
  ports : t.ports = .all { linkUp := false, counters := Vector.replicate 18 0, rx := none, tx := none }
  queues : t.queues = { tenant := Vector.replicate 8 [], timing := [], test := .both [], down := .all [], locals := .all [] }
  retired : t.pool.retired = if k = .powerOn then [] else s.pool.retired
  cells : ∀ c, c ∈ t.pool.free ↔ c < 8192 ∧ c / 256 ∉ t.pool.retired
  tenants : ∀ i, t.tenant i = { demandBytes := 0, demand := 0, allocation := 0, accepted := 0, dropped := 0, aged := 0
                                departed := 0 }
  computedAt : t.share.table.computedAt = none ∧ t.share.table.u = 0 ∧ t.share.testRate = .both 0 ∧ t.share.window = none
  credits : ∀ b, (t.bucket b).credit = 0 ∧ (t.bucket b).residue = 0 ∧ (t.bucket b).last = 0
  pointers : t.sched.pointer = .both 7
  links : t.links = .both
    { state := .down, carrier := false, current := 0, pending := none, stale := false, level := none, barCause := .none
      admitted := false, supTimer := none, pendTimer := none, holdTimer := none
      counters := { currentTaken := 0, pendingTaken := 0, pendingIgnored := 0, malformed := 0, pendingTimeouts := 0
                    fades := 0, staleOnsets := 0 } }
  time : t.time.elapsed = 0 ∧ t.time.site = { seconds := 0, nanos := 0, frac := 0 } ∧ t.time.valid = false
  servo : t.time.servo =
    { state := .freeRun, f := 0, slew := 0, slewEnd := none, reference := none, phaseError := none, lockCtr := 0
      unlockCtr := 0, holdoverStart := none, holdoverEnds := none, accepted := 0, rejected := 0, steps := 0 }
  pulses : ∀ j, tget t.time.pulses j = { high := false, fall := none, pulses := 0 }
  firing : t.firing = { fired := 0, last := none }
  runs : ∀ l, (t.ctx l).state = .idle ∧ (t.ctx l).runNo = 0
  results : ∀ i, tget t.qual.results i = none
  latches : ∀ c, (t.latch c).latched = false
  notices : t.mgmt.notice = { last := none, pending := false, due := none, built := 0, refused := 0 }
  store : t.store.op = none ∧ t.store.last = none
    ∧ t.store.times = { slotErase := 400, program := 2, recovery := 1, infoErase := 100 }
  slots : ∀ j, (∀ o, s.store.op = some o → jobSlot o.job ≠ some j ∨ o.phase = .recovery) →
    tget t.store.slots j = tget s.store.slots j
  page : (∀ o, s.store.op = some o → jobSlot o.job ≠ none ∨ o.phase = .recovery) → t.store.info = s.store.info
  slotCut : ∀ o j, StoreLaw s.store → s.store.op = some o → jobSlot o.job = some j → o.phase ≠ .recovery →
    (tget t.store.slots j).erased = true ∨ slotReport t.store j = .invalid
  pageCut : ∀ o, StoreLaw s.store → s.store.op = some o → jobName o.job = .writeInfo → o.phase = .program →
    pageReport t.store = .invalid
  startup : t.startup.state = .reset ∧ t.startup.resetOut = true ∧ k ∈ t.startup.held
  causes : t.startup.causes =
    (if k = .powerOn then 1#5
     else s.startup.causes ||| (if k = .supplyLow then 2#5 else if k = .pin then 4#5 else 8#5))
  pending : t.pending = s.pending

/-! ## The rows of requests, and the fate of frames -/

/-- The header of a command that is a management request. -/
def requestHeader : Instr → Option Header
  | .portWrite h _ _ | .flowWrite h _ _ | .flowDelete h _ _ | .tenantWrite h _ _ | .shareSetWrite h _ _
  | .parametersWrite h _ | .linkWrite h _ _ | .profileWrite h _ _ | .stepWrite h _ _ | .scheduleWrite h _ _
  | .scheduleDelete h _ _ | .timingWrite h _ _ | .pulseOutputWrite h _ _ | .noticeConfigWrite h _ _
  | .activateSet h _ _ | .setTime h _ _ | .retest h _ _ | .admitLink h _ _ | .stopRun h _ _ | .clearConditions h _ _
  | .clearResetCause h _ _ | .eraseSlot h _ _ | .saveSlot h _ _ | .loadSlot h _ _ | .invalidateSlot h _ _
  | .writeInfo h _ _ | .eraseInfo h _ _ | .restartFull h _ _ | .restartTraffic h _ _ => some h
  | _ => none

/-- The kind, the class or command code, and the selector of a command that is a management request (R159, R160, 12.5).
-/
def requestNames : Instr → Option (Nat × Nat × Selector)
  | .portWrite _ sel _ => some (2, 1, sel)
  | .flowWrite _ sel _ => some (2, 2, sel)
  | .tenantWrite _ sel _ => some (2, 3, sel)
  | .shareSetWrite _ sel _ => some (2, 4, sel)
  | .parametersWrite _ _ => some (2, 4, paramSelector)
  | .linkWrite _ sel _ => some (2, 6, sel)
  | .profileWrite _ sel _ => some (2, 7, sel)
  | .stepWrite _ sel _ => some (2, 8, sel)
  | .scheduleWrite _ sel _ => some (2, 11, sel)
  | .timingWrite _ sel _ => some (2, 12, sel)
  | .pulseOutputWrite _ sel _ => some (2, 13, sel)
  | .noticeConfigWrite _ sel _ => some (2, 15, sel)
  | .flowDelete _ sel _ => some (3, 2, sel)
  | .scheduleDelete _ sel _ => some (3, 11, sel)
  | .activateSet _ sel _ => some (4, 0x101, sel)
  | .setTime _ sel _ => some (4, 0x102, sel)
  | .retest _ sel _ => some (4, 0x103, sel)
  | .admitLink _ sel _ => some (4, 0x104, sel)
  | .stopRun _ sel _ => some (4, 0x105, sel)
  | .clearConditions _ sel _ => some (4, 0x106, sel)
  | .clearResetCause _ sel _ => some (4, 0x107, sel)
  | .eraseSlot _ sel _ => some (4, 0x108, sel)
  | .saveSlot _ sel _ => some (4, 0x109, sel)
  | .loadSlot _ sel _ => some (4, 0x10A, sel)
  | .invalidateSlot _ sel _ => some (4, 0x10B, sel)
  | .writeInfo _ sel _ => some (4, 0x10C, sel)
  | .eraseInfo _ sel _ => some (4, 0x10D, sel)
  | .restartFull _ sel _ | .restartTraffic _ sel _ => some (4, 0x10E, sel)
  | _ => none

/-- The command is a RESTART. -/
def isRestart : Instr → Bool
  | .restartFull _ _ _ | .restartTraffic _ _ _ => true
  | _ => false

/-- The row of the table that a request other than a READ is, by its kind and its class or command (R159, R160, 12.5).
-/
def rowOf (h : Header) (kind code : Nat) (sel : Selector) (body : List Field) : Option Instr :=
  match kind, code with
  | 2, 1 => some (.portWrite h sel body)
  | 2, 2 => some (.flowWrite h sel body)
  | 2, 3 => some (.tenantWrite h sel body)
  | 2, 4 => some (if namesParams sel then .parametersWrite h body else .shareSetWrite h sel body)
  | 2, 6 => some (.linkWrite h sel body)
  | 2, 7 => some (.profileWrite h sel body)
  | 2, 8 => some (.stepWrite h sel body)
  | 2, 11 => some (.scheduleWrite h sel body)
  | 2, 12 => some (.timingWrite h sel body)
  | 2, 13 => some (.pulseOutputWrite h sel body)
  | 2, 15 => some (.noticeConfigWrite h sel body)
  | 3, 2 => some (.flowDelete h sel body)
  | 3, 11 => some (.scheduleDelete h sel body)
  | 4, 0x101 => some (.activateSet h sel body)
  | 4, 0x102 => some (.setTime h sel body)
  | 4, 0x103 => some (.retest h sel body)
  | 4, 0x104 => some (.admitLink h sel body)
  | 4, 0x105 => some (.stopRun h sel body)
  | 4, 0x106 => some (.clearConditions h sel body)
  | 4, 0x107 => some (.clearResetCause h sel body)
  | 4, 0x108 => some (.eraseSlot h sel body)
  | 4, 0x109 => some (.saveSlot h sel body)
  | 4, 0x10A => some (.loadSlot h sel body)
  | 4, 0x10B => some (.invalidateSlot h sel body)
  | 4, 0x10C => some (.writeInfo h sel body)
  | 4, 0x10D => some (.eraseInfo h sel body)
  | 4, 0x10E =>
    match body with
    | f :: rest =>
      if f = { id := 1, value := [1#8] } then some (.restartFull h sel rest)
      else if f = { id := 1, value := [2#8] } then some (.restartTraffic h sel rest)
      else none
    | [] => none
  | _, _ => none

/-- The three checks of R5 pass, and the device is RUNNING (R6). -/
def Reaches (p : Port) (bytes : List Byte) (s : State) : Prop :=
  lengthOk p bytes s = true ∧ fcsOk bytes = true ∧ tagOk bytes = true ∧ s.startup.state = .running

/-- A frame that reaches the second stage (R7). -/
def Classified (p : Port) (bytes : List Byte) (s : State) : Prop :=
  Reaches p bytes s ∧ isRequest bytes = false ∧ isRateNotice bytes = false

/-- The counter of a frame that is discarded before any queue, without a hit; in RESET none is received (R6). By the
checks in their order (R5), by the start-up state (R6), as misdirected (R7), or as a miss from a backhaul port (R10). -/
def discardCounter (p : Port) (bytes : List Byte) (s : State) : Option PortCounter :=
  if s.startup.state = .reset then none
  else if lengthOk p bytes s = false then some .lengthErrors
  else if fcsOk bytes = false then some .checkErrors
  else if tagOk bytes = false then some .tagErrors
  else
    match s.startup.state with
    | .reset => none
    | .checking | .loading => some .notRunning
    | .fault =>
      if p = .sp ∧ isRequest bytes = true then
        if dstOf bytes = s.store.runAddr then none else some .misdirected
      else some .notRunning
    | .running =>
      if isRequest bytes = true then if dstOf bytes = s.store.runAddr then none else some .misdirected
      else if isRateNotice bytes = true then if roleOf p = .backhaul then none else some .misdirected
      else if roleOf p = .backhaul ∧ (findKey (frameKey p bytes) s.flows).isNone = true then some .flowMisses else none

/-- The tenant and the link preference of an upstream frame that is no timing frame (R9). -/
def tenantOf (p : Port) (bytes : List Byte) (s : State) : Option (Tenant × Pref) :=
  match findKey (frameKey p bytes) s.flows with
  | none => some ((s.cfg.ports.get p).defaultTenant, .any)
  | some (_, e) =>
    match e.spec.action, e.spec.tenant with
    | .forward, some i => some (i, e.spec.pref.getD .any)
    | _, _ => none

/-- The Flow Table after a frame's lookup: the matching entry's hit count and last-hit time (R8, R28). -/
def hitFlows (p : Port) (bytes : List Byte) (s : State) : List (Nat × FlowEntry) :=
  match findKey (frameKey p bytes) s.flows with
  | none => s.flows
  | some (slot, _) => s.flows.map fun y =>
      if y.1 = slot then (y.1, { y.2 with hits := y.2.hits + 1, lastHit := some s.nowNs }) else y

/-- A frame of n bytes takes the cells of a descriptor from the free cells (R13, R15). -/
def Joins (s : State) (bytes : List Byte) (d : Descriptor) : Prop :=
  d.length = bytes.length ∧ d.arrival = s.now ∧ d.cells = s.pool.free.take ((bytes.length + 255) / 256)

/-- The pool without the cells of a frame of n bytes. -/
def poolAfter (s : State) (bytes : List Byte) : Pool :=
  { s.pool with free := s.pool.free.drop ((bytes.length + 255) / 256) }

/-- What is transmitted is a tenant frame of a tenant (R60, R99). -/
def carriesTenant (item : TxItem) (i : Tenant) : Bool :=
  match item with
  | .pool d => decide (d.cls = .tenant ∧ d.tenant = some i)
  | .store _ => false

/-! ## RESTART TRAFFIC and the selection pass -/

/-- What a RESTART TRAFFIC with nothing to report leaves (R14, R17, R19, R88, R94, R176): every queue is empty, local
queues among them, and no frame starts; the cells of the queued frames are free; the demand byte counts and the credits
are 0 as of now, the pointers are at T7, and the flag is in the cause record. -/
structure Restarted (s t : State) : Prop where
  queues : t.queues = { tenant := Vector.replicate 8 [], timing := [], test := .both [], down := .all [], locals := .all [] }
  tx : ∀ p, (t.port p).tx = (s.port p).tx
  cells : ∀ d c, d ∈ s.queues.all → c ∈ d.cells → c ∈ t.pool.free
  free : ∀ c, c ∈ s.pool.free → c ∈ t.pool.free
  demand : ∀ i, (t.tenant i).demandBytes = 0 ∧ (t.tenant i).demand = (s.tenant i).demand
  credits : ∀ b, (t.bucket b).credit = 0 ∧ (t.bucket b).residue = 0 ∧ (t.bucket b).last = s.nowNs
  pointers : t.sched.pointer = .both 7
  causes : t.startup = { s.startup with causes := s.startup.causes ||| 16#5 }

/-- A backhaul port is ready for a pass now (R90). -/
def ReadyNow (l : Link) (s : State) : Prop :=
  (s.port (.bh l)).linkUp = true ∧ (s.port (.bh l)).tx = none
    ∧ 0 ≤ ((s.bucket (.pacing l)).refresh s.nowNs).credit

/-- A bucket charged a frame of n bytes now (R84, R85). -/
def chargedNow (b : BucketId) (n : Nat) (s : State) : Bucket :=
  { (s.bucket b).refresh s.nowNs with credit := ((s.bucket b).refresh s.nowNs).credit - (n : Int) * 8 }

/-- A tenant's queue without its aged heads (R95). -/
def freshQ (s : State) (i : Tenant) : List Descriptor :=
  (s.tenantQ i).dropWhile (isAged s.now (s.tenantCfg i).maxAge)

/-- The walk serves a tenant when it reaches it (R94): it is active, and its head is eligible and its credit is not
negative. -/
def tenantGoes (l : Link) (s : State) (i : Tenant) : Bool :=
  (s.tenantCfg i).active && (match freshQ s i with
    | [] => false
    | d :: _ => eligible s d.pref l && decide (0 ≤ ((s.bucket (.tenant i)).refresh s.nowNs).credit))

/-- The tenant that a walk serves (R94). -/
def tenantServed (l : Link) (s : State) : Option Tenant := (walkOrder (s.sched.pointer.get l)).find? (tenantGoes l s)

/-- A walk examines a tenant's head for age (R94, R95): an active tenant, up to the one that it serves. -/
def examined (l : Link) (s : State) (i : Tenant) : Prop :=
  (s.tenantCfg i).active = true ∧ (tenantServed l s = some i
    ∨ i ∈ (walkOrder (s.sched.pointer.get l)).takeWhile fun k => !tenantGoes l s k)

/-- A link's test queue without its refused heads (R96). -/
def freshTest (l : Link) (s : State) : List Descriptor := (s.queues.test.get l).dropWhile (testRefused (s.ctx l))

/-- The head of the timing queue goes on a link (R92, R93): it is eligible, and the timing credit is not negative. -/
def timingGoes (l : Link) (s : State) (d : Descriptor) : Bool :=
  eligible s d.pref l && decide (0 ≤ ((s.bucket .timing).refresh s.nowNs).credit)

/-- What a pass takes (R92): the head of the local queue; the head of the timing queue if it goes; the head of the test
queue; the head of the tenant that the walk serves. -/
def passTakes (l : Link) (s : State) : Option TxItem :=
  match s.localQ (.bh l), s.queues.timing.head?.filter (timingGoes l s), freshTest l s with
  | f :: _, _, _ => some (.store f)
  | [], some d, _ => some (.pool d)
  | [], none, d :: _ => some (.pool d)
  | [], none, [] => (tenantServed l s).bind fun i => (freshQ s i).head?.map TxItem.pool

/-- The aged heads of a tenant's queue (R95). -/
def agedHeads (s : State) (i : Tenant) : List Descriptor :=
  (s.tenantQ i).takeWhile (isAged s.now (s.tenantCfg i).maxAge)

/-- A pass of a ready port comes to the tenants (R92). -/
def Walks (l : Link) (s : State) : Prop :=
  s.localQ (.bh l) = [] ∧ s.queues.timing.head?.filter (timingGoes l s) = none ∧ freshTest l s = []

/-- A round-robin walk was made (R94, R95, R98): every tenant examined has lost its aged heads, which are counted, raise
AGED_DISCARD each and give back their cells; the tenant served starts its head, its bucket and the pacing bucket are
charged, and the pointer is at it. -/
structure Walked (l : Link) (s t : State) : Prop where
  queue : ∀ i, examined l s i →
    t.tenantQ i = if tenantServed l s = some i then (freshQ s i).tail else freshQ s i
  others : ∀ i, ¬examined l s i → t.tenantQ i = s.tenantQ i ∧ t.tenant i = s.tenant i
  aged : ∀ i, examined l s i → (t.tenant i).aged = (s.tenant i).aged + BitVec.ofNat 64 (agedHeads s i).length
  condition : ∀ i, examined l s i →
    t.latch (.agedDiscard i) = (agedHeads s i).foldl (fun x _ => x.occur s.nowNs none) (s.latch (.agedDiscard i))
  latches : ∀ c, (∀ i, c = .agedDiscard i → ¬examined l s i) → t.latch c = s.latch c
  cells : ∀ i d c, examined l s i → d ∈ agedHeads s i → c ∈ d.cells → c ∈ t.pool.free
  serves : ∀ i d, tenantServed l s = some i → (freshQ s i).head? = some d →
    (t.port (.bh l)).tx = some { item := .pool d, bytes := d.frame, ends := txEnd s.now false d.frame.length }
      ∧ t.sched.pointer = s.sched.pointer.set l i
      ∧ t.bucket (.tenant i) = chargedNow (.tenant i) d.length s
      ∧ t.bucket (.pacing l) = chargedNow (.pacing l) d.length s
  rests : tenantServed l s = none → (t.port (.bh l)).tx = none ∧ t.sched.pointer = s.sched.pointer

/-- A queue went on first in, first out, and took at most one frame (R12). -/
def Fifo {α : Type} (q r : List α) : Prop := r <:+ q ∨ ∃ d, r <:+ q ++ [d]

/-- The rewrite of a timing frame that starts on a port with a hop delay (R123 to R126): with its correction field
inside, the bytes are rewritten, and a sum above the greatest value raises CORRECTION_SATURATED; otherwise the frame
goes unmodified and is a correction-offset error. -/
def CorrectedOn (p : Port) (d : Descriptor) (hop : Nat) (s t : State) : Prop :=
  let off := d.offset.getD 0
  let res := (s.now - d.ingress.getD 0).toNat
  let sum : Int := bytesToInt64 (slice off 8 d.frame) + ((res + hop * 65536 : Nat) : Int)
  let errors (u : State) := tget (u.port p).counters (PortCounter.idx .correctionOffsetErrors)
  (∃ x, (t.port p).tx = some x ∧ x.item = .pool d
    ∧ x.bytes = if off + 8 ≤ d.length - 4 then rewritten d.frame off res hop else d.frame)
  ∧ errors t = (if off + 8 ≤ d.length - 4 then errors s else errors s + 1)
  ∧ t.latch .correctionSaturated
      = (if off + 8 ≤ d.length - 4 ∧ 2 ^ 63 - 1 < sum then (s.latch .correctionSaturated).occur s.nowNs none
         else s.latch .correctionSaturated)

/-- A sequence lies in the measure range of a context (R149). -/
def inMeasureRange (c : Context) (seq : Nat) : Bool :=
  match c.range with
  | some (a, b) => decide (a.toNat ≤ seq ∧ seq ≤ b.toNat)
  | none => false

end Sys2Proof.Machine
end

