-- ==== Sys2Proof/Certificates/Slice0/Obligations.lean ====
section
/-!
DEFINITION. The statements for the provers. Each speaks of every state and operand that meets its hypotheses; a
statement about a command concludes that exec answers a next state, says what that state holds, and says by Kept what
the command leaves as it was.
-/

open Sys2Proof Sys2Proof.Machine

/-! ## Requests that write configuration (R2, R104, R115, R139, R163) -/

/-- R2: an accepted PORT write replaces the configurable fields it carries in the named port's record, and nothing
else; it is answered OK. A PORT write that would leave no port with management permitted is refused NOT_PERMITTED and
changes nothing. -/
def Obligations.PortWriteReplacesTheRecord : Prop :=
  (∀ (h : Header) (sel : Selector) (body : List Field) (s : State) (p : Port),
    Accepts h s → selPort sel = some p → portWriteOk p body s = true → saveRuns s = false →
    anyMgmt (s.cfg.ports.set p (portWritten body (s.cfg.ports.get p))) = true →
    ∃ t, exec (.portWrite h sel body) s = .next t
      ∧ t.cfg = { s.cfg with ports := s.cfg.ports.set p (portWritten body (s.cfg.ports.get p)) }
      ∧ Kept [.locals, .config] s t ∧ Answered h 2 1 sel .ok s t)
  ∧ (∀ (h : Header) (sel : Selector) (body : List Field) (s : State) (p : Port),
    Accepts h s → selPort sel = some p → portWriteOk p body s = true → saveRuns s = false →
    anyMgmt (s.cfg.ports.set p (portWritten body (s.cfg.ports.get p))) = false →
    ∃ t, exec (.portWrite h sel body) s = .next t ∧ Kept [.locals] s t ∧ Answered h 2 1 sel .notPermitted s t)

/-- R139, R163, R165: an accepted STEP write replaces the named step record's carried fields, and an accepted
NOTICE_CONFIG write the notice configuration's; each is answered OK, and nothing else is written, but for a pending
notice when the notice interval is carried: its due time is taken again from the last notice time with the new interval,
and one that has passed falls due within the write: the notice is built where a latch is reportable, and otherwise the
flag is cleared. -/
def Obligations.StepAndNoticeWritesReplaceTheirRecords : Prop :=
  (∀ (h : Header) (sel : Selector) (body : List Field) (s : State) (i : Fin 32),
    Accepts h s → selIndex 32 sel = some i → stepWriteOk body = true → saveRuns s = false →
    ∃ t, exec (.stepWrite h sel body) s = .next t
      ∧ t.cfg = { s.cfg with steps := tset s.cfg.steps i (stepWritten body (tget s.cfg.steps i)) }
      ∧ t.mgmt = s.mgmt ∧ Kept [.locals, .config] s t ∧ Answered h 2 8 sel .ok s t)
  ∧ (∀ (h : Header) (sel : Selector) (body : List Field) (s : State),
    Accepts h s → sel.kind.toNat ≤ 3 → noticeWriteOk body = true → saveRuns s = false →
    ∃ t, exec (.noticeConfigWrite h sel body) s = .next t
      ∧ t.cfg = { s.cfg with notice := noticeWritten body s.cfg.notice }
      ∧ t.mgmt.latches = s.mgmt.latches ∧ Kept [.locals, .config, .notice] s t
      ∧ ((bytes? body 25).isSome = false ∨ s.mgmt.notice.pending = false →
          t.mgmt.notice = s.mgmt.notice ∧ Answered h 2 15 sel .ok s t)
      ∧ (∀ x, (bytes? body 25).isSome = true → s.mgmt.notice.pending = true → s.mgmt.notice.last = some x →
          (if t.cfg.notice.interval * 1000000 ≤ (s.nowNs - x).toNat then
            FallsDue (fun p => if p = h.port ∧ (s.port p).linkUp = true then 1 else 0) s t
              ∧ ∃ items, RespondedWith True h 2 15 sel .ok items s t
           else
            t.mgmt.notice
                = { s.mgmt.notice with due := some (x + BitVec.ofNat 64 (t.cfg.notice.interval * 1000000)) }
              ∧ Answered h 2 15 sel .ok s t)))

/-- R104, R113, R116: an accepted TIMING write replaces the carried fields, each clamped to its range, and is answered
OK. When it carries the holdover limit in HOLDOVER, the expiry is taken again from the recorded holdover start: a limit
already reached expires within the write, the servo goes to FREE_RUN, TIME_FREE_RUN occurs, and outputs that may no
longer pulse fall. Otherwise nothing else is written. -/
def Obligations.TimingWriteReplacesTheRecord : Prop :=
  ∀ (h : Header) (sel : Selector) (body : List Field) (s : State),
    Accepts h s → sel.kind.toNat ≤ 3 → timingWriteOk body = true → saveRuns s = false →
    let v := s.time.servo
    ∃ t, exec (.timingWrite h sel body) s = .next t
      ∧ t.cfg = { s.cfg with timing := timingWritten body s.cfg.timing }
      ∧ Answered h 2 12 sel .ok s t
      ∧ ((bytes? body 7).isSome = false ∨ v.state ≠ .holdover → Kept [.locals, .config] s t)
      ∧ (∀ x, (bytes? body 7).isSome = true → v.state = .holdover → v.holdoverStart = some x →
          let ends := x + BitVec.ofNat 64 (t.cfg.timing.holdoverLimit * 1000000000)
          if reachedNs s.nowNs ends = true then
            Kept [.locals, .config, .time, .latches] s t ∧ LatchesKept [.timeFreeRun] s t
              ∧ t.latch .timeFreeRun = (s.latch .timeFreeRun).occur s.nowNs none
              ∧ t.time.servo = { v with state := .freeRun, holdoverStart := none, holdoverEnds := none }
              ∧ t.time.elapsed = s.time.elapsed ∧ t.time.site = s.time.site ∧ t.time.valid = s.time.valid
              ∧ Squelched s t
          else
            t.time = { s.time with servo := { v with holdoverEnds := some ends } }
              ∧ Kept [.locals, .config, .time] s t)

/-- R115, R116: an accepted PULSE_OUTPUT write replaces the carried fields of the named output, and an output that is
high and no longer allowed becomes low at once; nothing else is written, and it is answered OK. -/
def Obligations.PulseOutputWriteReplacesTheRecord : Prop :=
  ∀ (h : Header) (sel : Selector) (body : List Field) (s : State) (k : Fin 4),
    Accepts h s → selIndex 4 sel = some k → pulseWriteOk body = true → saveRuns s = false →
    ∃ t, exec (.pulseOutputWrite h sel body) s = .next t
      ∧ t.cfg = { s.cfg with pulses := tset s.cfg.pulses k (pulseWritten body (tget s.cfg.pulses k)) }
      ∧ t.time = { s.time with pulses := t.time.pulses }
      ∧ Squelched s t
      ∧ Kept [.locals, .config, .time] s t ∧ Answered h 2 13 sel .ok s t

/-! ## Requests on the Flow Table (R24 to R26, R31) -/

/-- R24, R25, R31: a FLOW write of a valid entry places a new MANAGEMENT entry in the lowest free slot when no entry
holds the key, replaces a MANAGEMENT entry that holds it in its slot with counts started anew, and is refused TABLE_FULL
or NOT_PERMITTED, with nothing changed, when no slot is free or the holder is a TEST entry. A change of a link's REFLECT
presence is reported. (That the report of an IN_SERVICE link is followed by a computation also where its allowance is 0
is the model's choice: log entry 25.) -/
def Obligations.FlowWritePlacesOrReplaces : Prop :=
  ∀ (h : Header) (sel : Selector) (body : List Field) (s : State) (x : FlowSpec),
    Accepts h s → flowWriteSpec sel body s = some x → saveRuns s = false →
    ∃ t, exec (.flowWrite h sel body) s = .next t ∧
      (match findKey x.key s.flows, lowestFree s.flows with
       | none, some n =>
          t.flows.map withoutLastLink = (placeEntry n (newEntry x .management) s.flows).map withoutLastLink
            ∧ ReflectReported s t ∧ Kept (computed ++ [.locals, .flows]) s t ∧ Answered h 2 2 sel .ok s t
       | none, none => Kept [.locals] s t ∧ Answered h 2 2 sel .tableFull s t
       | some (n, e), _ =>
          if e.owner = .test then Kept [.locals] s t ∧ Answered h 2 2 sel .notPermitted s t
          else
            t.flows.map withoutLastLink
                = (updateSlot n (fun _ => newEntry x .management) s.flows).map withoutLastLink
              ∧ ReflectReported s t ∧ Kept (computed ++ [.locals, .flows]) s t ∧ Answered h 2 2 sel .ok s t)

/-- R26, R31: a FLOW delete frees the slot of the MANAGEMENT entry it names and is answered OK with the slot's number; a
free slot or an absent key is NOT_FOUND, and a TEST entry NOT_PERMITTED, with nothing changed. A name that is neither a
slot from 0 to 1,023 nor a key is INVALID_VALUE, and while a SAVE_SLOT runs the delete is BUSY. No other entry moves,
and a change of a link's REFLECT presence is reported. (The form that the body of a delete must have, log entry 12,
the identifier 70 of the slot number, log entry 21, and that the report of an IN_SERVICE link is followed by a
computation also where its allowance is 0, log entry 25, are the model's choices.) -/
def Obligations.FlowDeleteFreesTheSlot : Prop :=
  ∀ (h : Header) (sel : Selector) (body : List Field) (s : State), Accepts h s →
    (∀ n : FlowName, selFlow sel = some n → (shapeTo 11).ok body = true → saveRuns s = false →
      ∃ t, exec (.flowDelete h sel body) s = .next t ∧
        (match namedFlow n s with
         | none => Kept [.locals] s t ∧ AnsweredWith h 3 2 sel .notFound [] s t
         | some (k, e) =>
            if e.owner = .test then Kept [.locals] s t ∧ AnsweredWith h 3 2 sel .notPermitted [] s t
            else
              t.flows.map withoutLastLink = (s.flows.filter fun y => y.1 != k).map withoutLastLink
                ∧ ReflectReported s t ∧ Kept (computed ++ [.locals, .flows]) s t
                ∧ AnsweredWith h 3 2 sel .ok [nf 70 k] s t))
    ∧ (selFlow sel = none →
      ∃ t, exec (.flowDelete h sel body) s = .next t ∧ Kept [.locals] s t ∧ AnsweredWith h 3 2 sel .invalidValue [] s t)
    ∧ (∀ n : FlowName, selFlow sel = some n → (shapeTo 11).ok body = true → saveRuns s = true →
      ∃ t, exec (.flowDelete h sel body) s = .next t ∧ Kept [.locals] s t ∧ AnsweredWith h 3 2 sel .busy [] s t)

/-! ## Requests on tenants and shares (R61, R62, R64 to R66, R68) -/

/-- R61, R62, R87: an accepted TENANT write replaces the carried fields of the named tenant; a carried depth is the
bucket's depth in bits; a change of the active flag is followed by one computation, and without one nothing is
computed. An activation that would break the share-sum law is refused SHARE_EXCEEDED and changes nothing. -/
def Obligations.TenantWriteReplacesTheRecord : Prop :=
  ∀ (h : Header) (sel : Selector) (body : List Field) (s : State) (i : Tenant),
    Accepts h s → selIndex 8 sel = some i → tenantWriteOk body = true → saveRuns s = false →
    let c := tenantWritten body (s.tenantCfg i)
    ∃ t, exec (.tenantWrite h sel body) s = .next t ∧
      (if c.active = true ∧ (s.tenantCfg i).active = false ∧ shareLaw (tset s.cfg.tenants i c) s.cfg.sets = false then
        Kept [.locals] s t ∧ Answered h 2 3 sel .shareExceeded s t
       else
        t.cfg = { s.cfg with tenants := tset s.cfg.tenants i c } ∧ Answered h 2 3 sel .ok s t
        ∧ (t.bucket (.tenant i)).depth
            = (if (bytes? body 4).isSome then c.depth * 8 else (s.bucket (.tenant i)).depth)
        ∧ DepthsKept [.tenant i] s t
        ∧ (if c.active = (s.tenantCfg i).active then
            Kept [.locals, .config, .rates] s t ∧ ∀ b, (t.bucket b).rate = (s.bucket b).rate
           else
            OneComputation s t ∧ t.share = { s.share with table := t.share.table } ∧ OtherRatesKept [] s t
              ∧ LatchesKept [.capacityChanged] s t ∧ Kept (computed ++ [.locals, .config]) s t))

/-- R64, R68: a SHARE_SET write within the share-sum law replaces the carried values of the named set, and one
computation follows when the set is the active one; a write over the law is refused SHARE_EXCEEDED and changes nothing.
A PARAMETERS write replaces the carried parameters, and one computation follows when it carries the timing reservation.
-/
def Obligations.ShareWritesReplaceAndCompute : Prop :=
  (∀ (h : Header) (sel : Selector) (body : List Field) (s : State) (k : SetId),
    Accepts h s → namesParams sel = false → selIndex 4 sel = some k → shareWriteOk body = true → saveRuns s = false →
    let x := setWritten body (tget s.cfg.sets k)
    ∃ t, exec (.shareSetWrite h sel body) s = .next t ∧
      (if guaranteeSum s.cfg.tenants x ≤ 1000 then
        t.cfg = { s.cfg with sets := tset s.cfg.sets k x } ∧ Answered h 2 4 sel .ok s t
          ∧ (if k = s.cfg.activeSet then ComputedOnce s t else Kept [.locals, .config] s t)
       else Kept [.locals] s t ∧ Answered h 2 4 sel .shareExceeded s t))
  ∧ (∀ (h : Header) (body : List Field) (s : State),
    Accepts h s → paramWriteOk body = true → saveRuns s = false →
    ∃ t, exec (.parametersWrite h body) s = .next t
      ∧ t.cfg = { s.cfg with params :=
          { windowMs := numOr body 1 s.cfg.params.windowMs, tRes := numOr body 2 s.cfg.params.tRes } }
      ∧ Answered h 2 4 paramSelector .ok s t
      ∧ (if (bytes? body 2).isSome then ComputedOnce s t else Kept [.locals, .config] s t))

/-- R66: ACTIVATE_SET of another set makes it active and one computation follows; of the active set it changes nothing;
both are answered OK. Any other value is refused INVALID_VALUE, and while a SAVE_SLOT runs the command is refused BUSY;
both change nothing. No condition but CAPACITY_CHANGED latches. -/
def Obligations.ActivateSetComputes : Prop :=
  ∀ (h : Header) (sel : Selector) (body : List Field) (s : State), Accepts h s → sel.kind.toNat ≤ 3 →
    (∀ k, (shapeOf [1]).ok body = true → (num? body 1).bind (finOf 4) = some k → saveRuns s = false →
      ∃ t, exec (.activateSet h sel body) s = .next t ∧ Answered h 4 0x101 sel .ok s t
        ∧ (if k = s.cfg.activeSet then Kept [.locals] s t
           else t.cfg = { s.cfg with activeSet := k } ∧ ComputedOnce s t))
    ∧ ((num? body 1).bind (finOf 4) = none →
      ∃ t, exec (.activateSet h sel body) s = .next t ∧ Kept [.locals] s t ∧ Answered h 4 0x101 sel .invalidValue s t)
    ∧ (∀ k, (shapeOf [1]).ok body = true → (num? body 1).bind (finOf 4) = some k → saveRuns s = true →
      ∃ t, exec (.activateSet h sel body) s = .next t ∧ Kept [.locals] s t ∧ Answered h 4 0x101 sel .busy s t)

/-! ## Requests on links and profiles (R36, R37, R40, R46) -/

/-- R36, R72, R84, R86: an accepted LINK write replaces the carried fields of the named link. At each write of the
reflect allowance the link's reflect bucket is brought up to date and takes it as its rate, and one computation follows
when it changes X_L of an IN_SERVICE link. (That a write which leaves X_L as it is computes nothing, where R36 and R81
name each write of the allowance while there are REFLECT entries, is the model's choice: log entry 25.) -/
def Obligations.LinkWriteReplacesTheRecord : Prop :=
  ∀ (h : Header) (sel : Selector) (body : List Field) (s : State) (l : Link),
    Accepts h s → selLink sel = some l → linkWriteOk body = true → saveRuns s = false →
    let c := linkWritten body (s.cfg.links.get l)
    ∃ t, exec (.linkWrite h sel body) s = .next t
      ∧ t.cfg = { s.cfg with links := s.cfg.links.set l c } ∧ Answered h 2 6 sel .ok s t
      ∧ (if (bytes? body 14).isSome = false then Kept [.locals, .config] s t
         else
          t.bucket (.reflect l) = { (s.bucket (.reflect l)).refresh s.nowNs with rate := c.reflectAllowance }
          ∧ t.bucket (.reflect l.other) = s.bucket (.reflect l.other)
          ∧ OtherRatesKept [.reflect l] s t ∧ DepthsKept [] s t
          ∧ (if c.reflectAllowance ≠ (s.cfg.links.get l).reflectAllowance ∧ s.share.reflectPresent.get l = true
                ∧ s.inService l = true then
              OneComputation s t ∧ t.share = { s.share with table := t.share.table }
                ∧ LatchesKept [.capacityChanged] s t ∧ Kept (computed ++ [.locals, .config, .reflect]) s t
             else Kept [.locals, .config, .rates, .reflect] s t
              ∧ ∀ b, isShared b = true → (t.bucket b).rate = (s.bucket b).rate))

/-- R37, R38, R40, R46, R148: an accepted PROFILE write replaces the carried fields of the named entry. It raises
PROFILE_UNKNOWN, once, when it makes the entry of the current or the pending index invalid. The link is reported when
its E_L changed; an E_L of an IN_SERVICE link that is now below the rate of its running LOAD step aborts that run with
cause CAPACITY. (That the condition occurs when a valid entry becomes invalid, and once where both indexes name it, is
the model's choice: log entry 25.) -/
def Obligations.ProfileWriteReportsTheLink : Prop :=
  ∀ (h : Header) (sel : Selector) (body : List Field) (s : State) (l : Link) (i : Fin 16),
    Accepts h s → selProfile sel = some (l, i) → profileWriteOk body = true → saveRuns s = false →
    let p := profileWritten body (tget (s.cfg.profiles.get l) i)
    ∃ t, exec (.profileWrite h sel body) s = .next t
      ∧ t.cfg = { s.cfg with profiles := s.cfg.profiles.set l (tset (s.cfg.profiles.get l) i p) }
      ∧ Answered h 2 7 sel .ok s t
      ∧ t.latch (.profileUnknown l)
          = (if losesProfile l i p s = true then (s.latch (.profileUnknown l)).occur s.nowNs none
             else s.latch (.profileUnknown l))
      ∧ LatchesKept [.capacityChanged, .profileUnknown l] s t ∧ Reported l s t
      ∧ (match (s.ctx l).step with
         | some r =>
            if t.el l ≠ s.el l ∧ s.inService l = true ∧ (s.ctx l).inService = true ∧ r.kind = .load
                ∧ ((s.ctx l).state = .settle ∨ (s.ctx l).state = .measure) ∧ t.el l < r.rate then
              (t.ctx l).state = .aborted ∧ (t.ctx l).cause = .capacity ∧ t.share.testRate.get l = 0
                ∧ Kept (computed ++ [.locals, .config, .flows, .qual]) s t
            else Kept (computed ++ [.locals, .config]) s t
         | none => Kept (computed ++ [.locals, .config]) s t)

/-! ## Requests on the schedule and site time (R114, R129 to R135) -/

/-- R130: a SCHEDULE write is checked in order for the past of valid site time (INVALID_VALUE), a time already held
(DUPLICATE) and 32 entries held (TABLE_FULL), each changing nothing; otherwise the entry joins the table at the place
its time gives it, and the answer is OK. -/
def Obligations.ScheduleWriteInsertsInOrder : Prop :=
  ∀ (h : Header) (sel : Selector) (body : List Field) (s : State) (e : ScheduleEntry),
    Accepts h s → sel.kind.toNat ≤ 3 → writtenEntry body = some e → saveRuns s = false →
    ∃ t, exec (.scheduleWrite h sel body) s = .next t ∧
      (if s.time.valid = true ∧ e.time ≤ s.time.site.seconds then Kept [.locals] s t ∧ Answered h 2 11 sel .invalidValue s t
       else if ∃ x, x ∈ s.cfg.schedule ∧ x.time = e.time then Kept [.locals] s t ∧ Answered h 2 11 sel .duplicate s t
       else if 32 ≤ s.cfg.schedule.length then Kept [.locals] s t ∧ Answered h 2 11 sel .tableFull s t
       else
        t.cfg = { s.cfg with schedule := t.cfg.schedule }
          ∧ (scheduleLaw s.cfg.schedule → scheduleLaw t.cfg.schedule)
          ∧ t.cfg.schedule.Perm (e :: s.cfg.schedule) ∧ Kept [.locals, .config] s t ∧ Answered h 2 11 sel .ok s t)

/-- R131: a SCHEDULE delete removes the entry it names by time or by position, and is answered OK with the entry; a name
of no entry is NOT_FOUND and changes nothing. -/
def Obligations.ScheduleDeleteRemovesTheEntry : Prop :=
  ∀ (h : Header) (sel : Selector) (body : List Field) (s : State) (n : EntryName),
    Accepts h s → selEntry sel = some n → (shapeTo 3).ok body = true → saveRuns s = false →
    ∃ t, exec (.scheduleDelete h sel body) s = .next t ∧
      (match (match n with
              | .position k => if k < s.cfg.schedule.length then some k else none
              | .time x => s.cfg.schedule.findIdx? fun e => e.time == x) with
       | none => Kept [.locals] s t ∧ AnsweredWith h 3 11 sel .notFound [] s t
       | some k =>
          ∃ e, s.cfg.schedule[k]? = some e ∧ t.cfg = { s.cfg with schedule := s.cfg.schedule.eraseIdx k }
            ∧ Kept [.locals, .config] s t ∧ AnsweredWith h 3 11 sel .ok (entryItems e) s t)

/-- R114, R133, R135: an accepted SET_TIME makes site time valid; in LOCKED and HOLDOVER it sets the seconds only, in
FREE_RUN and ACQUIRING the seconds and nanoseconds, with a fraction of 0. When the flag becomes true, or site time moves
forward, every entry at or before the new seconds count fires in the same event; otherwise none does. -/
def Obligations.SetTimeSetsSiteTimeAndFires : Prop :=
  ∀ (h : Header) (sel : Selector) (body : List Field) (s : State) (sec ns : Nat),
    Accepts h s → sel.kind.toNat ≤ 3 → (shapeOf [1, 2]).ok body = true → num? body 1 = some sec → num? body 2 = some ns →
    sec < 2 ^ 48 → ns ≤ 999999999 → scheduleLaw s.cfg.schedule →
    ∃ t, exec (.setTime h sel body) s = .next t
      ∧ t.time = { s.time with
          valid := true
          site := if s.time.servo.state = .locked ∨ s.time.servo.state = .holdover then
                    { s.time.site with seconds := sec } else { seconds := sec, nanos := ns, frac := 0 } }
      ∧ Answered h 4 0x102 sel .ok s t
      ∧ (if s.time.valid = false ∨ t.time.site.later s.time.site = true then Fired s t
         else t.cfg = s.cfg ∧ Kept [.locals, .time] s t)

/-! ## Commands on links (R49, R53 to R57, R143 to R145) -/

/-- R56: ADMIT of a BARRED link whose carrier is present puts it into IN_SERVICE with its admitted flag set, its bar
cause NONE and its supervision timer running; LINK_ADMITTED occurs, one computation follows, and the answer is OK. In
any other case it is refused NOT_PERMITTED and changes nothing. -/
def Obligations.AdmitPutsABarredLinkIntoService : Prop :=
  ∀ (h : Header) (sel : Selector) (body : List Field) (s : State) (l : Link),
    Accepts h s → sel.kind.toNat ≤ 3 → commandLink body = some l →
    ∃ t, exec (.admitLink h sel body) s = .next t ∧
      (if (s.link l).state = .barred ∧ (s.link l).carrier = true then
        t.links = s.links.set l { s.link l with
          state := .inService, admitted := true, barCause := .none, holdTimer := none
          supTimer := some ((s.link l).supTimer.getD (afterMs s.now (s.cfg.links.get l).supervision)) }
        ∧ OneComputation s t ∧ t.share = { s.share with table := t.share.table } ∧ OtherRatesKept [] s t
        ∧ DepthsKept [] s t ∧ t.latch (.linkAdmitted l) = (s.latch (.linkAdmitted l)).occur s.nowNs none
        ∧ LatchesKept [.capacityChanged, .linkAdmitted l] s t ∧ Kept (computed ++ [.locals, .links]) s t
        ∧ Answered h 4 0x104 sel .ok s t
       else Kept [.locals] s t ∧ Answered h 4 0x104 sel .notPermitted s t)

/-- R57, R152: STOP of a run under way on a QUALIFYING link aborts it with cause STOPPED, puts the link into BARRED with
that cause and LINK_BARRED occurs; on an IN_SERVICE link it aborts the run and the link stays as it is, with one
computation when the run's test rate was not 0. The run's TEST_RETURN entry is removed and its test rate is 0. Without a
run it is refused NOT_PERMITTED and changes nothing. (That the measure range is NONE with the counts is deduced: log
entry 36. That the generator and the step copy are NONE too is the model's choice: log entry 43.) -/
def Obligations.StopAbortsTheRun : Prop :=
  ∀ (h : Header) (sel : Selector) (body : List Field) (s : State) (l : Link),
    Accepts h s → sel.kind.toNat ≤ 3 → commandLink body = some l →
    ∃ t, exec (.stopRun h sel body) s = .next t ∧
      (if (s.ctx l).underWay = true ∧ ((s.link l).state = .qualifying ∨ (s.link l).state = .inService) then
        Aborted l .stopped s t
        ∧ Answered h 4 0x105 sel .ok s t
        ∧ (if (s.link l).state = .qualifying then
            t.links = s.links.set l { s.link l with state := .barred, barCause := .stopped, supTimer := none }
            ∧ t.latch (.linkBarred l) = (s.latch (.linkBarred l)).occur s.nowNs none
            ∧ LatchesKept [.linkBarred l] s t ∧ t.share.table = s.share.table
            ∧ Kept [.locals, .links, .qual, .flows, .share, .latches] s t
           else if s.share.testRate.get l = 0 then t.share = s.share ∧ Kept [.locals, .qual, .flows] s t
           else OneComputation s t ∧ LatchesKept [.capacityChanged] s t ∧ Kept (computed ++ [.locals, .qual, .flows]) s t)
       else Kept [.locals] s t ∧ Answered h 4 0x105 sel .notPermitted s t)

/-- R55, R143 to R145: RETEST of a BARRED link with carrier, or of an IN_SERVICE link with no run under way, whose
programme can start begins a run: the run number is one more, the TEST_RETURN entry stands in the lowest free slot, the
results of the run's range are empty, and its first step is in SETTLE with the step record copied and the step's test
rate held. The BARRED link is QUALIFYING then; an IN_SERVICE link stays so, and a changed test rate is followed by a
computation. (A LOAD step of an in-service run that E_L does not carry is left out.) With a SETTLE time of 0 the step
goes on to MEASURE, or to RECOVER in a WAIT step, within the event. A start that is refused for its programme, its key
or a full table leaves the context FAILED with that cause and the run number stepped: a BARRED link is BARRED with it,
and for an IN_SERVICE link RETEST_FAILED occurs. RETEST of an IN_SERVICE link with a run under way is answered BUSY, and
of a link that is neither IN_SERVICE nor BARRED with carrier NOT_PERMITTED; both change nothing. (That a refused start
leaves the generator and the step copy NONE is the model's choice: log entry 43.) -/
def Obligations.RetestStartsARun : Prop :=
  (∀ (h : Header) (sel : Selector) (body : List Field) (s : State) (l : Link) (first last : Fin 32) (n : Nat),
    Accepts h s → sel.kind.toNat ≤ 3 → commandLink body = some l →
    ((s.link l).state = .barred ∧ (s.link l).carrier = true ∨
      (s.link l).state = .inService ∧ (s.ctx l).underWay = false) →
    (s.cfg.links.get l).startIndex = some first →
    ((List.finRange 32).find? fun i => decide (first ≤ i) && (tget s.cfg.steps i).last) = some last →
    findKey { port := .bh l, vlan := some (s.cfg.links.get l).testVlan } s.flows = none →
    lowestFree s.flows = some n →
    0 < (tget s.cfg.steps first).settle → (tget s.cfg.steps first).settle ≤ 10000 →
    ((s.link l).state = .inService → (tget s.cfg.steps first).kind = .load → (tget s.cfg.steps first).rate ≤ s.el l) →
    ∃ t, exec (.retest h sel body) s = .next t
      ∧ t.ctx l =
        { state := .settle, runNo := (s.ctx l).runNo + 1, inService := decide ((s.link l).state = .inService)
          cause := .none, first := some first, last := some last, current := some first
          step := some (tget s.cfg.steps first)
          testKey := some { port := .bh l, vlan := some (s.cfg.links.get l).testVlan }, slot := some n
          phaseEnd := some (afterMs s.now (tget s.cfg.steps first).settle)
          gen := startGenerator (tget s.cfg.steps first) s.now, nextSeq := 0, range := none, sent := 0, returned := 0
          minRt := none, maxRt := none, sumRt := 0 }
      ∧ t.ctx l.other = s.ctx l.other
      ∧ (∀ i, tget t.qual.results i = if first ≤ i ∧ i ≤ last then none else tget s.qual.results i)
      ∧ t.flows.map withoutLastLink
          = (placeEntry n (testEntry { port := .bh l, vlan := some (s.cfg.links.get l).testVlan }) s.flows).map
              withoutLastLink
      ∧ t.share.testRate.get l = stepRate (tget s.cfg.steps first)
      ∧ t.share.testRate.get l.other = s.share.testRate.get l.other
      ∧ Answered h 4 0x103 sel .ok s t
      ∧ (if (s.link l).state = .barred then
          t.links = s.links.set l { s.link l with
            state := .qualifying, barCause := .none
            supTimer := some ((s.link l).supTimer.getD (afterMs s.now (s.cfg.links.get l).supervision)) }
          ∧ t.share.table = s.share.table ∧ Kept [.locals, .links, .qual, .flows, .share] s t
         else
          (stepRate (tget s.cfg.steps first) ≠ s.share.testRate.get l → OneComputation s t)
          ∧ Kept (computed ++ [.locals, .qual, .flows]) s t))
  ∧ (∀ (h : Header) (sel : Selector) (body : List Field) (s : State) (l : Link),
    Accepts h s → sel.kind.toNat ≤ 3 → commandLink body = some l →
    (((s.link l).state = .inService ∧ (s.ctx l).underWay = true) →
      ∃ t, exec (.retest h sel body) s = .next t ∧ Kept [.locals] s t ∧ Answered h 4 0x103 sel .busy s t)
    ∧ ((s.link l).state ≠ .inService → ¬((s.link l).state = .barred ∧ (s.link l).carrier = true) →
      ∃ t, exec (.retest h sel body) s = .next t ∧ Kept [.locals] s t ∧ Answered h 4 0x103 sel .notPermitted s t))
  ∧ (∀ (h : Header) (sel : Selector) (body : List Field) (s : State) (l : Link) (first last : Fin 32) (n : Nat),
    Accepts h s → sel.kind.toNat ≤ 3 → commandLink body = some l →
    (s.link l).state = .barred → (s.link l).carrier = true → Startable l s.cfg s.flows first last n →
    let r := tget s.cfg.steps first
    r.settle = 0 →
    (r.kind ≠ .wait → 0 < r.measure → r.measure ≤ 60000 →
      ∃ t, exec (.retest h sel body) s = .next t
        ∧ t.ctx l = { startedContext l s.cfg (s.ctx l) s.now false first last n with
            state := .measure, phaseEnd := some (afterMs s.now r.measure) }
        ∧ t.share.testRate.get l = stepRate r ∧ Answered h 4 0x103 sel .ok s t)
    ∧ (r.kind = .wait → 0 < r.recover → r.recover ≤ 10000 →
      ∃ t, exec (.retest h sel body) s = .next t
        ∧ t.ctx l = { startedContext l s.cfg (s.ctx l) s.now false first last n with
            state := .recover, phaseEnd := some (afterMs s.now r.recover) }
        ∧ t.share.testRate.get l = 0 ∧ Answered h 4 0x103 sel .ok s t))
  ∧ (∀ (h : Header) (sel : Selector) (body : List Field) (s : State) (l : Link) (cause : Cause),
    Accepts h s → sel.kind.toNat ≤ 3 → commandLink body = some l → startRefusal l s.cfg s.flows = some cause →
    ((s.link l).state = .barred → (s.link l).carrier = true →
      ∃ t, exec (.retest h sel body) s = .next t
        ∧ t.qual = { s.qual with ctx := s.qual.ctx.set l (refusedContext (s.ctx l) false cause) }
        ∧ t.links = s.links.set l { s.link l with state := .barred, barCause := cause, supTimer := none }
        ∧ t.latch (.linkBarred l) = (s.latch (.linkBarred l)).occur s.nowNs none ∧ LatchesKept [.linkBarred l] s t
        ∧ Kept [.locals, .qual, .links, .latches] s t ∧ Answered h 4 0x103 sel .ok s t)
    ∧ ((s.link l).state = .inService → (s.ctx l).underWay = false →
      ∃ t, exec (.retest h sel body) s = .next t
        ∧ t.qual = { s.qual with ctx := s.qual.ctx.set l (refusedContext (s.ctx l) true cause) }
        ∧ t.latch (.retestFailed l) = (s.latch (.retestFailed l)).occur s.nowNs none ∧ LatchesKept [.retestFailed l] s t
        ∧ Kept [.locals, .qual, .latches] s t ∧ Answered h 4 0x103 sel .ok s t))

/-! ## Clearing (R164, R176) -/

/-- R164, R176: CLEAR_CONDITIONS clears each latch it names, every latch when it names none, and is answered OK with the
number of latches that were latched; CLEAR_RESET_CAUSE empties the reset cause record. Nothing else is written. (That a
latch named twice is counted once, and that an absent list is an empty one, are the model's choices: log entry 32; so is
the identifier 1 of the number: log entry 21.) -/
def Obligations.ClearsClearWhatTheyName : Prop :=
  (∀ (h : Header) (sel : Selector) (body : List Field) (s : State) (cs : List Cond),
    Accepts h s → sel.kind.toNat ≤ 3 → clearShape.ok body = true → clearedBy body = some cs →
    ∃ t, exec (.clearConditions h sel body) s = .next t
      ∧ (∀ c : Cond,
          t.latch c = if c ∈ cs then { latched := false, occurrences := 0, first := none, last := none, detail := none }
                      else s.latch c)
      ∧ Kept [.locals, .latches] s t
      ∧ AnsweredWith h 4 0x106 sel .ok
          [nf 1 (allConds.filter fun c => decide (c ∈ cs) && (s.latch c).latched).length] s t)
  ∧ (∀ (h : Header) (sel : Selector) (s : State),
    Accepts h s → sel.kind.toNat ≤ 3 →
    ∃ t, exec (.clearResetCause h sel []) s = .next t ∧ t.startup = { s.startup with causes := 0 }
      ∧ Kept [.locals, .startup] s t ∧ AnsweredWith h 4 0x107 sel .ok [] s t)

/-! ## Store commands (R168 to R173) -/

/-- R170, R171, R173: on an idle store, ERASE_SLOT, and ERASE_INFO with its confirmation value, begin an erase;
SAVE_SLOT of an ERASED slot begins the programs of the copy it takes of the running classes and the MANAGEMENT entries;
WRITE_INFO of an ERASED page begins the programs of its address and label; each is answered ACCEPTED. INVALIDATE_SLOT of
a marker that is not all zeros begins one program and is answered OK. The carried times stay; the running classes do not
change. -/
def Obligations.StoreCommandsBeginTheirOperations : Prop :=
  (∀ (h : Header) (sel : Selector) (body : List Field) (s : State) (k : Fin 4),
    Accepts h s → sel.kind.toNat ≤ 3 → commandSlot body = some k → s.store.op = none →
    let times := timesWritten body s.store.times
    (∃ t, exec (.eraseSlot h sel body) s = .next t
      ∧ t.store = { s.store with
          times, op := some { job := .eraseSlot k, phase := .erase, done := 0, total := 0
                              ends := afterMs s.now times.slotErase } }
      ∧ Kept [.locals, .store] s t ∧ Answered h 4 0x108 sel .accepted s t)
    ∧ (slotReport s.store k = .erased →
      ∃ t, exec (.saveSlot h sel body) s = .next t
      ∧ t.store = { s.store with
          times
          op := some
            { job := .saveSlot k { classes := s.cfg, flows := managementFlows s.flows } (nextSaveCount s.store)
              phase := .program, done := 0, total := 24 + (16 * (managementFlows s.flows).length + 255) / 256 + 2
              ends := afterMs s.now times.program } }
      ∧ Kept [.locals, .store] s t ∧ Answered h 4 0x109 sel .accepted s t)
    ∧ ((tget s.store.slots k).marker ≠ 0#8 →
      ∃ t, exec (.invalidateSlot h sel body) s = .next t
      ∧ t.store = { s.store with
          times, op := some { job := .invalidateSlot k, phase := .program, done := 0, total := 1
                              ends := afterMs s.now times.program } }
      ∧ slotReport t.store k = .invalid ∧ Kept [.locals, .store] s t ∧ Answered h 4 0x10B sel .ok s t))
  ∧ (∀ (h : Header) (sel : Selector) (body : List Field) (s : State) (addr : Mac) (label : List Byte),
    Accepts h s → sel.kind.toNat ≤ 3 → writtenInfo body = some (addr, label) → s.store.op = none →
    pageReport s.store = .erased →
    ∃ t, exec (.writeInfo h sel body) s = .next t
      ∧ t.store = { s.store with
          times := timesWritten body s.store.times
          op := some { job := .writeInfo addr label, phase := .program, done := 0, total := 2
                       ends := afterMs s.now (timesWritten body s.store.times).program } }
      ∧ Kept [.locals, .store] s t ∧ Answered h 4 0x10C sel .accepted s t)
  ∧ (∀ (h : Header) (sel : Selector) (body : List Field) (s : State),
    Accepts h s → sel.kind.toNat ≤ 3 → (storeShape [1]).ok body = true → timesOk body = true →
    num? body 1 = some 0xC3 → s.store.op = none →
    ∃ t, exec (.eraseInfo h sel body) s = .next t
      ∧ t.store = { s.store with
          times := timesWritten body s.store.times
          op := some { job := .eraseInfo, phase := .erase, done := 0, total := 0
                       ends := afterMs s.now (timesWritten body s.store.times).infoErase } }
      ∧ Kept [.locals, .store] s t ∧ Answered h 4 0x10D sel .accepted s t)

/-- R172, R33, R58, R152: LOAD_SLOT of a VALID slot whose body keeps the share-sum law replaces every running class and
the whole management content of the Flow Table in one step, makes a computation, and is answered OK; site time, the
results and the store are kept. A run under way is aborted with cause RESTART, and its link keeps its state; for a
QUALIFYING link a new run is requested within the event, on the loaded programme. (A valid site time, with which the
load fires past entries, runs on both links at once and a new run that is refused are left out by the hypotheses. That
the outputs and the due time of a pending notice stay as they are, log entry 24, and that the measure range of an
aborted run is NONE, log entry 36, are deduced; that its generator and step copy are NONE too is the model's choice: log
entry 43.) -/
def Obligations.LoadSlotReplacesEveryClass : Prop :=
  (∀ (h : Header) (sel : Selector) (body : List Field) (s : State) (k : Fin 4) (b : SlotBody),
      Accepts h s → sel.kind.toNat ≤ 3 → commandSlot body = some k → s.store.op = none →
      slotReport s.store k = .valid → (tget s.store.slots k).body = some b →
      shareLaw b.classes.tenants b.classes.sets = true →
      (∀ l, (s.ctx l).underWay = false) → s.time.valid = false →
      ∃ t, exec (.loadSlot h sel body) s = .next t
        ∧ t.cfg = b.classes
        ∧ t.flows.map withoutLastLink = b.flows.map (fun x => (x.1, newEntry x.2 .management))
        ∧ Computed t ∧ (∀ l, t.share.reflectPresent.get l = decide (0 < reflectCount l t.flows))
        ∧ (∀ i, (t.bucket (.tenant i)).depth = (tget b.classes.tenants i).depth * 8)
        ∧ (∀ l, (t.bucket (.reflect l)).rate = (b.classes.links.get l).reflectAllowance)
        ∧ t.store = { s.store with times := timesWritten body s.store.times }
        ∧ Kept (computed ++ [.locals, .config, .flows, .reflect, .store]) s t ∧ Answered h 4 0x10A sel .ok s t)
  ∧ (∀ (h : Header) (sel : Selector) (body : List Field) (s : State) (k : Fin 4) (b : SlotBody) (l : Link),
    Accepts h s → sel.kind.toNat ≤ 3 → commandSlot body = some k → s.store.op = none →
    slotReport s.store k = .valid → (tget s.store.slots k).body = some b →
    shareLaw b.classes.tenants b.classes.sets = true →
    (s.ctx l).underWay = true → (s.ctx l.other).underWay = false → s.time.valid = false →
    let loaded := b.flows.map fun x => (x.1, newEntry x.2 .management)
    ((s.link l).state = .inService →
      ∃ t, exec (.loadSlot h sel body) s = .next t ∧ t.cfg = b.classes ∧ Computed t ∧ t.links = s.links
        ∧ t.qual = { s.qual with ctx := s.qual.ctx.set l { s.ctx l with
            state := .aborted, cause := .restart, current := none, step := none, phaseEnd := none, gen := .none
            slot := none, testKey := none, range := none, sent := 0, returned := 0, minRt := none, maxRt := none
            sumRt := 0 } }
        ∧ t.flows.map withoutLastLink = loaded.map withoutLastLink ∧ t.share.testRate.get l = 0
        ∧ Answered h 4 0x10A sel .ok s t)
    ∧ (∀ first last n, (s.link l).state = .qualifying → Startable l b.classes loaded first last n →
      0 < (tget b.classes.steps first).settle → (tget b.classes.steps first).settle ≤ 10000 →
      ∃ t, exec (.loadSlot h sel body) s = .next t ∧ t.cfg = b.classes ∧ Computed t ∧ t.links = s.links
        ∧ t.ctx l = startedContext l b.classes (s.ctx l) s.now false first last n ∧ t.ctx l.other = s.ctx l.other
        ∧ t.flows.map withoutLastLink
            = (placeEntry n (testEntry (testKeyOf l b.classes)) loaded).map withoutLastLink
        ∧ t.share.testRate.get l = stepRate (tget b.classes.steps first) ∧ Answered h 4 0x10A sel .ok s t))

/-! ## RESTART (R160, R176) -/

/-- R160, R169, R176: a confirmed RESTART FULL leaves the device as every reset that asserts reset-out does, its flag
added to the cause record, whatever it was doing: a slot whose erase or program was under way reports INVALID unless
every byte reads as ones, and the other slots are kept. (What a cut erase or program leaves besides is the model's: log
entry 13.) -/
def Obligations.RestartFullResets : Prop :=
  ∀ (h : Header) (sel : Selector) (body : List Field) (s : State),
    Accepts h s → sel.kind.toNat ≤ 3 → (shapeOf [1, 2]).ok (restartBody 1 body) = true →
    num? (restartBody 1 body) 2 = some 0xC3 →
    ∃ t, exec (.restartFull h sel body) s = .next t ∧ AfterReset .restartFull s t

/-- R14, R17, R19, R58, R70, R88, R94, R152, R175, R176: a confirmed RESTART TRAFFIC with no run under way empties every
queue, the local queues with the response in them, and returns the cells of the frames; no frame starts. Every demand
byte count is 0, every bucket has credit 0 as of now, both pointers are at T7, the flag is in the cause record, and in
RUNNING a demand window starts; in FAULT none does. Site time, the links, the flow entries, the configuration, the
counters and the latches are kept. A run under way is aborted with cause RESTART and its link keeps its state; for a
QUALIFYING link a new run is requested within the event. (What it does in FAULT beyond the queues and the flag, log
entry 28, and that the measure range of an aborted run is NONE, log entry 36, are deduced; that its generator and step
copy are NONE too is the model's choice: log entry 43.) -/
def Obligations.RestartTrafficFlushes : Prop :=
  (∀ (h : Header) (sel : Selector) (body : List Field) (s : State),
    Accepts h s → sel.kind.toNat ≤ 3 → (shapeOf [1, 2]).ok (restartBody 2 body) = true →
    num? (restartBody 2 body) 2 = some 0xC3 → (∀ l, (s.ctx l).underWay = false) →
    ∃ t, exec (.restartTraffic h sel body) s = .next t ∧ Restarted s t
      ∧ t.share = { s.share with
          window := some { lengthMs := s.cfg.params.windowMs, ends := afterMs s.now s.cfg.params.windowMs } }
      ∧ t.mgmt = s.mgmt ∧ Kept [.traffic, .demand, .share, .reflect, .startup] s t)
  ∧ (∀ (h : Header) (sel : Selector) (body : List Field) (s : State),
    s.startup.state = .fault → h.port = .sp → (s.cfg.ports.get h.port).mgmt = true → s.placesTaken h.port < 16 →
    sel.kind.toNat ≤ 3 → (shapeOf [1, 2]).ok (restartBody 2 body) = true → num? (restartBody 2 body) 2 = some 0xC3 →
    ∃ t, exec (.restartTraffic h sel body) s = .next t ∧ Restarted s t
      ∧ t.mgmt = s.mgmt ∧ Kept [.traffic, .demand, .reflect, .startup] s t)
  ∧ (∀ (h : Header) (sel : Selector) (body : List Field) (s : State) (l : Link),
    Accepts h s → sel.kind.toNat ≤ 3 → (shapeOf [1, 2]).ok (restartBody 2 body) = true →
    num? (restartBody 2 body) 2 = some 0xC3 → (s.ctx l).underWay = true → (s.ctx l.other).underWay = false →
    ((s.link l).state = .inService →
      ∃ t, exec (.restartTraffic h sel body) s = .next t ∧ Aborted l .restart s t ∧ t.links = s.links
        ∧ (∀ i, t.tenantQ i = []) ∧ t.queues.timing = [] ∧ (∀ k, t.queues.test.get k = [])
        ∧ (if s.share.testRate.get l = 0 then t.share.table = s.share.table else OneComputation s t)
        ∧ LatchesKept [.capacityChanged] s t
        ∧ Kept (computed ++ [.traffic, .demand, .reflect, .startup, .qual, .flows, .locals]) s t)
    ∧ (∀ first last n, (s.link l).state = .qualifying → Startable l s.cfg (withoutTest l s) first last n →
      0 < (tget s.cfg.steps first).settle → (tget s.cfg.steps first).settle ≤ 10000 →
      ∃ t, exec (.restartTraffic h sel body) s = .next t
        ∧ t.ctx l = startedContext l s.cfg (s.ctx l) s.now false first last n ∧ t.ctx l.other = s.ctx l.other
        ∧ t.flows.map withoutLastLink
            = (placeEntry n (testEntry (testKeyOf l s.cfg)) (withoutTest l s)).map withoutLastLink
        ∧ t.share.testRate = s.share.testRate.set l (stepRate (tget s.cfg.steps first))
        ∧ t.share.table = s.share.table ∧ t.mgmt = s.mgmt
        ∧ Kept [.traffic, .demand, .share, .reflect, .startup, .qual, .flows] s t)
    ∧ (∀ cause, (s.link l).state = .qualifying → startRefusal l s.cfg (withoutTest l s) = some cause →
      ∃ t, exec (.restartTraffic h sel body) s = .next t
        ∧ (t.ctx l).state = .failed ∧ (t.ctx l).cause = cause ∧ (t.ctx l).runNo = (s.ctx l).runNo + 1
        ∧ t.links = s.links.set l { s.link l with state := .barred, barCause := cause, supTimer := none }
        ∧ t.latch (.linkBarred l) = (s.latch (.linkBarred l)).occur s.nowNs none ∧ LatchesKept [.linkBarred l] s t))

/-! ## Acceptance and refusal of requests (R6, R157, R161, R175) -/

/-- R161: a request that is answered with any status but OK and ACCEPTED changes no state. -/
def Obligations.RefusedRequestsChangeNothing : Prop :=
  ∀ (kind code : Nat) (sel : Selector) (body : List Field) (s : State),
    (requestByKind kind code sel body s).1.status ≠ .ok → (requestByKind kind code sel body s).1.status ≠ .accepted →
    (requestByKind kind code sel body s).2 = s

/-- R6, R157: in RUNNING a request on a port without management permitted is a management refusal of that port and
MGMT_REFUSED occurs with the port's code; a request on a permitted port whose 16 local places are taken is a management
refusal alone; in CHECKING and LOADING a request is a not-running discard. Nothing else is written, and nothing is
answered: no frame joins a local queue but a notice of the new latching. In FAULT (R175) a request on SP other than a
READ or a RESTART is answered FAULT, with the kind, the code and the selector that its row has, and changes nothing; a
request on any other port is a not-running discard. (That a local frame under transmission holds one of the 16 places
is deduced: log entry 34.) -/
def Obligations.RequestsOutsideRunningAndRefused : Prop :=
  (∀ (c : Instr) (h : Header) (s : State), requestHeader c = some h →
    (s.startup.state = .running → (s.cfg.ports.get h.port).mgmt = false →
      ∃ t, exec c s = .next t ∧ Counted [(h.port, .mgmtRefusals, 1)] s t
        ∧ t.latch .mgmtRefused = (s.latch .mgmtRefused).occur s.nowNs (some (codeOf h.port))
        ∧ LatchesKept [.mgmtRefused] s t ∧ Kept [.counters, .latches] s t)
    ∧ (s.startup.state = .running → (s.cfg.ports.get h.port).mgmt = true → 16 ≤ s.placesTaken h.port →
      ∃ t, exec c s = .next t ∧ Counted [(h.port, .mgmtRefusals, 1)] s t ∧ Kept [.counters] s t)
    ∧ (s.startup.state = .checking ∨ s.startup.state = .loading →
      ∃ t, exec c s = .next t ∧ Counted [(h.port, .notRunning, 1)] s t ∧ Kept [.counters] s t))
  ∧ (∀ (c : Instr) (h : Header) (s : State), requestHeader c = some h → s.startup.state = .fault →
    (h.port = .sp → isRestart c = false → (s.cfg.ports.get h.port).mgmt = true → s.placesTaken h.port < 16 →
      ∃ t kind code sel, requestNames c = some (kind, code, sel) ∧ exec c s = .next t ∧ t.mgmt = s.mgmt
        ∧ Kept [.locals] s t ∧ AnsweredWith h kind code sel .fault [] s t)
    ∧ (h.port ≠ .sp → ∃ t, exec c s = .next t ∧ Counted [(h.port, .notRunning, 1)] s t ∧ Kept [.counters] s t))

/-- R5, R7, R157 to R160, R178: a received request frame for the device is counted as received, and then does what its
row of the table does: the row that its kind, its class or command, its selector and its body of fields name. A READ has
no row: it is answered with what its class gives, read as the frame's reception left the state, and changes nothing.
(That a row stands for a request already received is the model's choice: log entry 1.) -/
def Obligations.RequestFrameIsItsRow : Prop :=
  (∀ (p : Port) (bytes : List Byte) (s : State) (stamp : Instant) (body : List Field) (c : Instr),
      (s.port p).rx = some stamp → Reaches p bytes s → isRequest bytes = true → dstOf bytes = s.store.runAddr →
      headerComplete bytes = true → (parseRequest (payload bytes)).body = some body →
      rowOf (headerOf p bytes) (parseRequest (payload bytes)).kind (parseRequest (payload bytes)).code
        (parseRequest (payload bytes)).sel body = some c →
      ∃ s', (∃ t, exec (.frameReceived p bytes) s = .next t ∧ exec c s' = .next t)
        ∧ s' = { s with ports := s'.ports } ∧ ReceptionOver p s s' ∧ Part.kept .linkUp s s'
        ∧ (∀ q, (s'.port q).tx = (s.port q).tx)
        ∧ Counted [(p, .framesReceived, 1), (p, .bytesReceived, bytes.length)] s s')
  ∧ (∀ (p : Port) (bytes : List Byte) (s : State) (stamp : Instant) (body : List Field),
    (s.port p).rx = some stamp → Reaches p bytes s → isRequest bytes = true → dstOf bytes = s.store.runAddr →
    headerComplete bytes = true → (parseRequest (payload bytes)).body = some body →
    (parseRequest (payload bytes)).kind = 1 → (parseRequest (payload bytes)).sel.kind.toNat ≤ 3 →
    (s.cfg.ports.get p).mgmt = true → s.placesTaken p < 16 →
    let r := parseRequest (payload bytes)
    ∃ s' t, exec (.frameReceived p bytes) s = .next t
      ∧ s' = { s with ports := s'.ports } ∧ ReceptionOver p s s' ∧ Part.kept .linkUp s s'
      ∧ (∀ q, (s'.port q).tx = (s.port q).tx)
      ∧ Counted [(p, .framesReceived, 1), (p, .bytesReceived, bytes.length)] s s'
      ∧ AnsweredWith (headerOf p bytes) 1 r.code r.sel (readRequest r.code r.sel body s').1.status
          (readRequest r.code r.sel body s').1.body s' t
      ∧ t.mgmt = s.mgmt ∧ Kept [.locals] s' t)

/-! ## Frames (R4 to R10, R13 to R15, R41 to R44, R49, R52, R89, R119, R120, R149, R153) -/

/-- R5, R6, R120: when a frame's reception begins on a port whose link is up, the port takes the elapsed counter as its
stamp, and nothing else changes; otherwise nothing does. A reception that ends in RESET is over, and the frame is not
received: nothing is counted, and nothing else changes. -/
def Obligations.ReceptionTakesTheStamp : Prop :=
  (∀ (p : Port) (s : State),
      exec (.frameReceptionBegins p) s = .next
        (if (s.port p).linkUp = true then
          { s with ports := s.ports.set p { linkUp := (s.port p).linkUp, counters := (s.port p).counters, rx := some s.now
                                            tx := (s.port p).tx } }
         else s))
  ∧ (∀ (p : Port) (bytes : List Byte) (s : State) (stamp : Instant), (s.port p).rx = some stamp →
    s.startup.state = .reset →
    ∃ t, exec (.frameReceived p bytes) s = .next t ∧ ReceptionOver p s t ∧ Kept [.reception] s t)

/-- R5, R6, R7, R9, R10, R28: a received frame that fails a check, or is discarded for the start-up state, as
misdirected or as a flow miss, is counted as received with its bytes and in its one discard counter, by the first cause
in the order of the rules; it takes no cells, and nothing else is written. A frame that matches an entry is discarded
with its hit recorded when the action is DISCARD, when the action is TEST_RETURN and it is no test frame (misdirected),
and when the action is TIMING and the tenant is inactive. (That a request for another address counts as misdirected on
SP in FAULT is deduced: log entry 30.) -/
def Obligations.DiscardedFramesAreCounted : Prop :=
  (∀ (p : Port) (bytes : List Byte) (s : State) (stamp : Instant) (c : PortCounter),
      (s.port p).rx = some stamp → discardCounter p bytes s = some c →
      ∃ t, exec (.frameReceived p bytes) s = .next t ∧ ReceptionOver p s t
        ∧ Counted [(p, .framesReceived, 1), (p, .bytesReceived, bytes.length), (p, c, 1)] s t
        ∧ Kept [.reception, .counters] s t)
  ∧ (∀ (p : Port) (bytes : List Byte) (s : State) (stamp : Instant) (slot : Nat) (e : FlowEntry) (c : PortCounter),
    (s.port p).rx = some stamp → Classified p bytes s → findKey (frameKey p bytes) s.flows = some (slot, e) →
    (e.spec.action = .discard ∧ c = .actionDiscards
      ∨ roleOf p = .backhaul ∧ e.spec.action = .testReturn ∧ isTestFrame bytes = false ∧ c = .misdirected
      ∨ roleOf p ≠ .backhaul ∧ e.spec.action = .timing ∧ c = .inactiveTenant
          ∧ ∃ i, e.spec.tenant = some i ∧ (s.tenantCfg i).active = false) →
    ∃ t, exec (.frameReceived p bytes) s = .next t ∧ ReceptionOver p s t
      ∧ t.flows.map withoutLastLink = (hitFlows p bytes s).map withoutLastLink
      ∧ Counted [(p, .framesReceived, 1), (p, .bytesReceived, bytes.length), (p, c, 1)] s t
      ∧ Kept [.reception, .counters, .flows] s t)

/-- R8, R9, R13 to R15, R28, R60: an upstream frame for an active tenant is added to the tenant's demand, and its hit is
recorded; when its queue and the free cells allow, it joins the tail of the tenant's queue with cells of its own and
frames accepted is stepped; otherwise frames dropped is stepped and QUEUE_OVERFLOW occurs. For an inactive tenant it is
an inactive-tenant discard. (Which free cells a frame is given is the model's choice: log entry 20.) -/
def Obligations.UpstreamFramesJoinTheirTenantsQueue : Prop :=
  ∀ (p : Port) (bytes : List Byte) (s : State) (stamp : Instant) (i : Tenant) (pref : Pref),
    (s.port p).rx = some stamp → roleOf p ≠ .backhaul → Classified p bytes s → tenantOf p bytes s = some (i, pref) →
    ∃ t, exec (.frameReceived p bytes) s = .next t ∧ ReceptionOver p s t
      ∧ t.flows.map withoutLastLink = (hitFlows p bytes s).map withoutLastLink ∧
      (if (s.tenantCfg i).active = true then
        Counted [(p, .framesReceived, 1), (p, .bytesReceived, bytes.length)] s t
        ∧ (∀ k, (t.tenant k).demandBytes = (s.tenant k).demandBytes + (if k = i then bytes.length else 0)
            ∧ (t.tenant k).demand = (s.tenant k).demand ∧ (t.tenant k).departed = (s.tenant k).departed)
        ∧ (if occupancy (s.tenantQ i) + (bytes.length + 255) / 256 ≤ (s.tenantCfg i).queueLimit
              ∧ (bytes.length + 255) / 256 ≤ s.pool.free.length then
            (∀ k, (t.tenant k).accepted = (s.tenant k).accepted + (if k = i then 1 else 0)
              ∧ (t.tenant k).dropped = (s.tenant k).dropped)
            ∧ (∃ d, Joins s bytes d ∧ d.cls = .tenant ∧ d.frame = bytes ∧ d.tenant = some i ∧ d.pref = some pref
              ∧ TrafficKept { s with
                  queues := { s.queues with tenant := tset s.queues.tenant i (s.tenantQ i ++ [d]) }
                  pool := poolAfter s bytes } t)
            ∧ Kept [.reception, .counters, .traffic, .demand, .tallies, .flows] s t
           else
            (∀ k, (t.tenant k).dropped = (s.tenant k).dropped + (if k = i then 1 else 0)
              ∧ (t.tenant k).accepted = (s.tenant k).accepted)
            ∧ t.latch (.queueOverflow i) = (s.latch (.queueOverflow i)).occur s.nowNs none
            ∧ LatchesKept [.queueOverflow i] s t
            ∧ Kept [.reception, .counters, .demand, .tallies, .flows, .latches] s t)
       else
        Counted [(p, .framesReceived, 1), (p, .bytesReceived, bytes.length), (p, .inactiveTenant, 1)] s t
          ∧ Kept [.reception, .counters, .flows] s t)

/-- R9, R11, R13, R119, R120: an upstream frame that matches a TIMING entry of an active tenant joins the timing queue
with its ingress stamp, its slot, its correction offset and its link preference when 64 cells and the free cells allow;
otherwise it is a timing-queue drop. It adds nothing to demand. (Which free cells a frame is given is the model's
choice: log entry 20.) -/
def Obligations.UpstreamTimingFramesJoinTheTimingQueue : Prop :=
  ∀ (p : Port) (bytes : List Byte) (s : State) (stamp : Instant) (slot : Nat) (e : FlowEntry) (i : Tenant),
    (s.port p).rx = some stamp → roleOf p ≠ .backhaul → Classified p bytes s →
    findKey (frameKey p bytes) s.flows = some (slot, e) → e.spec.action = .timing → e.spec.tenant = some i →
    (s.tenantCfg i).active = true →
    ∃ t, exec (.frameReceived p bytes) s = .next t ∧ ReceptionOver p s t
      ∧ t.flows.map withoutLastLink = (hitFlows p bytes s).map withoutLastLink ∧
      (if occupancy s.queues.timing + (bytes.length + 255) / 256 ≤ 64
          ∧ (bytes.length + 255) / 256 ≤ s.pool.free.length then
        Counted [(p, .framesReceived, 1), (p, .bytesReceived, bytes.length)] s t
        ∧ (∃ d, Joins s bytes d ∧ d.cls = .timing ∧ d.frame = bytes ∧ d.tenant = some i ∧ d.pref = e.spec.pref
            ∧ d.slot = some slot ∧ d.offset = e.spec.offset ∧ d.ingress = some stamp
            ∧ TrafficKept { s with queues := { s.queues with timing := s.queues.timing ++ [d] }
                                   pool := poolAfter s bytes } t)
        ∧ Kept [.reception, .counters, .traffic, .flows] s t
       else
        Counted [(p, .framesReceived, 1), (p, .bytesReceived, bytes.length), (p, .timingQueueDrops, 1)] s t
          ∧ Kept [.reception, .counters, .flows] s t)

/-- R4, R10, R13, R39, R119: a downstream frame that matches a FORWARD or a TIMING entry joins the queue of the entry's
egress port when its link is up and its limit and the free cells allow, a TIMING frame with its ingress stamp, slot,
offset and the air delay in use of its link; otherwise it is a link-down discard or an egress drop of that port. (Which
free cells a frame is given is the model's choice: log entry 20.) -/
def Obligations.DownstreamFramesJoinTheirEgressQueue : Prop :=
  ∀ (l : Link) (bytes : List Byte) (s : State) (stamp : Instant) (slot : Nat) (e : FlowEntry) (q : Port),
    (s.port (.bh l)).rx = some stamp → Classified (.bh l) bytes s →
    findKey (frameKey (.bh l) bytes) s.flows = some (slot, e) → e.spec.action = .forward ∨ e.spec.action = .timing →
    e.spec.egress = some q → q ≠ .bh l →
    ∃ t, exec (.frameReceived (.bh l) bytes) s = .next t ∧ ReceptionOver (.bh l) s t
      ∧ t.flows.map withoutLastLink = (hitFlows (.bh l) bytes s).map withoutLastLink ∧
      (if (s.port q).linkUp = true then
        if occupancy (s.queues.down.get q) + (bytes.length + 255) / 256
              ≤ (if q = .sp then 512 else (s.cfg.ports.get q).downLimit)
            ∧ (bytes.length + 255) / 256 ≤ s.pool.free.length then
          Counted [(.bh l, .framesReceived, 1), (.bh l, .bytesReceived, bytes.length)] s t
          ∧ (∃ d, Joins s bytes d ∧ d.frame = bytes
              ∧ (e.spec.action = .forward → d.cls = .downstream)
              ∧ (e.spec.action = .timing → d.cls = .timing ∧ d.slot = some slot ∧ d.offset = e.spec.offset
                  ∧ d.ingress = some stamp ∧ d.airDelay = some (s.airDelay l))
              ∧ TrafficKept { s with queues := { s.queues with
                                down := s.queues.down.set q (s.queues.down.get q ++ [d]) }
                                     pool := poolAfter s bytes } t)
          ∧ Kept [.reception, .counters, .traffic, .flows] s t
        else
          Counted [(.bh l, .framesReceived, 1), (.bh l, .bytesReceived, bytes.length), (q, .egressDrops, 1)] s t
            ∧ Kept [.reception, .counters, .flows] s t
       else
        Counted [(.bh l, .framesReceived, 1), (.bh l, .bytesReceived, bytes.length), (q, .linkDownDiscards, 1)] s t
          ∧ Kept [.reception, .counters, .flows] s t)

/-- R84, R85, R89, R153: a frame that matches a REFLECT entry goes to its link's test queue with its addresses
exchanged, a test frame with its ingress stamp as the peer receive stamp, and is charged to the link's reflect bucket,
when the bucket's credit, brought up to date, is not negative and the queue takes it; otherwise it is a reflect drop and
is not charged. (Which free cells a frame is given is the model's choice: log entry 20.) -/
def Obligations.ReflectedFramesAreChargedAndQueued : Prop :=
  ∀ (l : Link) (bytes : List Byte) (s : State) (stamp : Instant) (slot : Nat) (e : FlowEntry),
    (s.port (.bh l)).rx = some stamp → Classified (.bh l) bytes s →
    findKey (frameKey (.bh l) bytes) s.flows = some (slot, e) → e.spec.action = .reflect →
    ∃ t, exec (.frameReceived (.bh l) bytes) s = .next t ∧ ReceptionOver (.bh l) s t
      ∧ t.flows.map withoutLastLink = (hitFlows (.bh l) bytes s).map withoutLastLink
      ∧ t.bucket (.reflect l.other) = s.bucket (.reflect l.other) ∧
      (if 0 ≤ ((s.bucket (.reflect l)).refresh s.nowNs).credit
          ∧ occupancy (s.queues.test.get l) + (bytes.length + 255) / 256 ≤ 128
          ∧ (bytes.length + 255) / 256 ≤ s.pool.free.length then
        Counted [(.bh l, .framesReceived, 1), (.bh l, .bytesReceived, bytes.length)] s t
        ∧ (∃ d, Joins s bytes d ∧ d.cls = .reflected ∧ d.frame.length = bytes.length
            ∧ slice 0 6 d.frame = slice 6 6 bytes ∧ slice 6 6 d.frame = slice 0 6 bytes
            ∧ (if isTestFrame bytes = true ∧ holdsPayload bytes 32 = true then
                slice (payloadOffset bytes + 16) 8 d.frame = natToBytes 8 (wholeNs stamp).toNat
                ∧ slice 12 (payloadOffset bytes + 4) d.frame = slice 12 (payloadOffset bytes + 4) bytes
                ∧ d.frame.drop (payloadOffset bytes + 24) = bytes.drop (payloadOffset bytes + 24)
               else d.frame.drop 12 = bytes.drop 12)
            ∧ TrafficKept { s with queues := { s.queues with
                              test := s.queues.test.set l (s.queues.test.get l ++ [d]) }
                                   pool := poolAfter s bytes } t)
        ∧ t.bucket (.reflect l) = { (s.bucket (.reflect l)).refresh s.nowNs with
            credit := ((s.bucket (.reflect l)).refresh s.nowNs).credit - (bytes.length : Int) * 8 }
        ∧ Kept [.reception, .counters, .traffic, .reflect, .flows] s t
       else
        Counted [(.bh l, .framesReceived, 1), (.bh l, .bytesReceived, bytes.length), (.bh l, .reflectDrops, 1)] s t
          ∧ t.bucket (.reflect l) = (s.bucket (.reflect l)).refresh s.nowNs
          ∧ Kept [.reception, .counters, .reflect, .flows] s t)

/-- R149: a returned test frame of the run under way, of its step and of a sequence of its measure range, steps the
returned count, and its round trip enters the minimum, the maximum and the sum; any other return changes no context. -/
def Obligations.ReturnsAreCountedForTheirRun : Prop :=
  ∀ (l : Link) (bytes : List Byte) (s : State) (stamp : Instant) (slot : Nat) (e : FlowEntry),
    (s.port (.bh l)).rx = some stamp → Classified (.bh l) bytes s →
    findKey (frameKey (.bh l) bytes) s.flows = some (slot, e) → e.spec.action = .testReturn → isTestFrame bytes = true →
    let c := s.ctx l
    let p := payload bytes
    let rt := roundTrip (wholeNs stamp) p
    ∃ t, exec (.frameReceived (.bh l) bytes) s = .next t ∧ ReceptionOver (.bh l) s t
      ∧ t.flows.map withoutLastLink = (hitFlows (.bh l) bytes s).map withoutLastLink
      ∧ Counted [(.bh l, .framesReceived, 1), (.bh l, .bytesReceived, bytes.length)] s t
      ∧ Kept [.reception, .counters, .flows, .qual] s t
      ∧ t.qual = (if (c.state = .settle ∨ c.state = .measure ∨ c.state = .recover) ∧ pbyte p 1 = c.runNo
            ∧ c.current.map (fun i => i.val) = some (pbyte p 2).toNat
            ∧ inMeasureRange c (bytesToNat (slice 4 4 p)) = true then
          { s.qual with ctx := s.qual.ctx.set l { c with
              returned := c.returned + 1, minRt := some (min (c.minRt.getD rt) rt)
              maxRt := some (max (c.maxRt.getD rt) rt), sumRt := c.sumRt + BitVec.ofNat 64 rt } }
         else s.qual)

/-- R41, R42, R44, R46, R47, R148: a CURRENT notice with carrier present, taken in QUALIFYING, IN_SERVICE or BARRED,
sets the carrier, the current index and the level, clears the pending profile and the stale flag, restarts the
supervision timer outside BARRED, is counted, and raises PROFILE_UNKNOWN for an invalid entry; a changed E_L is reported
(R40), and a LOAD step of an in-service run that it does not carry is aborted. The state stays. A PENDING notice with
carrier sets the pending profile and starts the pending timer; without carrier it is counted as ignored and nothing
else. A malformed notice is counted and nothing else. -/
def Obligations.CurrentNoticeUpdatesTheLink : Prop :=
  (∀ (l : Link) (bytes : List Byte) (s : State) (stamp : Instant) (i : Fin 16) (v : BitVec 8),
      (s.port (.bh l)).rx = some stamp → Reaches (.bh l) bytes s → isRequest bytes = false → isRateNotice bytes = true →
      parseNotice (payload bytes) = some { current := true, index := some i, level := v } →
      (s.link l).state ≠ .down → (s.link l).state ≠ .faded →
      ((s.link l).state = .inService → (s.ctx l).underWay = false) →
      ∃ t, exec (.frameReceived (.bh l) bytes) s = .next t ∧ ReceptionOver (.bh l) s t
        ∧ Counted [(.bh l, .framesReceived, 1), (.bh l, .bytesReceived, bytes.length)] s t
        ∧ t.links = s.links.set l { s.link l with
            carrier := true, current := i, pending := none, pendTimer := none, stale := false, level := some v
            supTimer := if (s.link l).state = .barred then (s.link l).supTimer
                        else some (afterMs s.now (s.cfg.links.get l).supervision)
            counters := { (s.link l).counters with currentTaken := (s.link l).counters.currentTaken + 1 } }
        ∧ t.latch (.profileUnknown l)
            = (if (tget (s.cfg.profiles.get l) i).valid = true then s.latch (.profileUnknown l)
               else (s.latch (.profileUnknown l)).occur s.nowNs none)
        ∧ LatchesKept [.capacityChanged, .profileUnknown l] s t ∧ Reported l s t
        ∧ Kept (computed ++ [.reception, .counters, .links]) s t)
  ∧ (∀ (l : Link) (bytes : List Byte) (s : State) (stamp : Instant) (i : Fin 16) (v : BitVec 8),
    (s.port (.bh l)).rx = some stamp → Reaches (.bh l) bytes s → isRequest bytes = false → isRateNotice bytes = true →
    parseNotice (payload bytes) = some { current := true, index := some i, level := v } →
    (s.link l).state = .inService → (s.ctx l).underWay = true →
    ∃ t, exec (.frameReceived (.bh l) bytes) s = .next t ∧ ReceptionOver (.bh l) s t
      ∧ Counted [(.bh l, .framesReceived, 1), (.bh l, .bytesReceived, bytes.length)] s t
      ∧ t.links = s.links.set l { s.link l with
          carrier := true, current := i, pending := none, pendTimer := none, stale := false, level := some v
          supTimer := some (afterMs s.now (s.cfg.links.get l).supervision)
          counters := { (s.link l).counters with currentTaken := (s.link l).counters.currentTaken + 1 } }
      ∧ t.latch (.profileUnknown l)
          = (if (tget (s.cfg.profiles.get l) i).valid = true then s.latch (.profileUnknown l)
             else (s.latch (.profileUnknown l)).occur s.nowNs none)
      ∧ LatchesKept [.capacityChanged, .profileUnknown l] s t
      ∧ ReportedToRun l [.reception, .counters, .links, .latches] s t)
  ∧ (∀ (l : Link) (bytes : List Byte) (s : State) (stamp : Instant) (i : Fin 16) (v : BitVec 8),
    (s.port (.bh l)).rx = some stamp → Reaches (.bh l) bytes s → isRequest bytes = false → isRateNotice bytes = true →
    parseNotice (payload bytes) = some { current := false, index := some i, level := v } →
    ((s.link l).carrier = true → ((s.link l).state = .inService → (s.ctx l).underWay = false) →
      ∃ t, exec (.frameReceived (.bh l) bytes) s = .next t ∧ ReceptionOver (.bh l) s t
        ∧ Counted [(.bh l, .framesReceived, 1), (.bh l, .bytesReceived, bytes.length)] s t
        ∧ t.links = s.links.set l { s.link l with
            pending := some i, pendTimer := some (afterMs s.now (s.cfg.links.get l).pendingTimeout), level := some v
            counters := { (s.link l).counters with pendingTaken := (s.link l).counters.pendingTaken + 1 } }
        ∧ t.latch (.profileUnknown l)
            = (if (tget (s.cfg.profiles.get l) i).valid = true then s.latch (.profileUnknown l)
               else (s.latch (.profileUnknown l)).occur s.nowNs none)
        ∧ LatchesKept [.capacityChanged, .profileUnknown l] s t ∧ Reported l s t
        ∧ Kept (computed ++ [.reception, .counters, .links]) s t)
    ∧ ((s.link l).carrier = false →
      ∃ t, exec (.frameReceived (.bh l) bytes) s = .next t ∧ ReceptionOver (.bh l) s t
        ∧ Counted [(.bh l, .framesReceived, 1), (.bh l, .bytesReceived, bytes.length)] s t
        ∧ t.links = s.links.set l { s.link l with
            counters := { (s.link l).counters with pendingIgnored := (s.link l).counters.pendingIgnored + 1 } }
        ∧ Kept [.reception, .counters, .links] s t))
  ∧ (∀ (l : Link) (bytes : List Byte) (s : State) (stamp : Instant),
    (s.port (.bh l)).rx = some stamp → Reaches (.bh l) bytes s → isRequest bytes = false → isRateNotice bytes = true →
    parseNotice (payload bytes) = none →
    ∃ t, exec (.frameReceived (.bh l) bytes) s = .next t ∧ ReceptionOver (.bh l) s t
      ∧ Counted [(.bh l, .framesReceived, 1), (.bh l, .bytesReceived, bytes.length)] s t
      ∧ t.links = s.links.set l { s.link l with
          counters := { (s.link l).counters with malformed := (s.link l).counters.malformed + 1 } }
      ∧ Kept [.reception, .counters, .links] s t)

/-- R42, R49, R52, R54, R143, R144: a CURRENT notice with carrier present puts a FADED link, and a DOWN link that is
admitted without a run, into IN_SERVICE: the admitted flag is set, the hold-off timer stops, the supervision timer runs,
LINK_ADMITTED occurs, and the allocation table is computed with the link in service. A DOWN link that is not admitted
without a run enters QUALIFYING and its run starts; a start that is refused leaves it BARRED with the cause of the
refusal. (That a refused start leaves the generator and the step copy NONE is the model's choice: log entry 43.) -/
def Obligations.CurrentNoticeAdmitsTheLink : Prop :=
  (∀ (l : Link) (bytes : List Byte) (s : State) (stamp : Instant) (i : Fin 16) (v : BitVec 8),
      (s.port (.bh l)).rx = some stamp → Reaches (.bh l) bytes s → isRequest bytes = false → isRateNotice bytes = true →
      parseNotice (payload bytes) = some { current := true, index := some i, level := v } →
      ((s.link l).state = .faded ∨ (s.link l).state = .down ∧
        ((s.cfg.links.get l).startIndex = none ∨ s.startup.straps.bringup = false ∧ (s.link l).admitted = false)) →
      ∃ t, exec (.frameReceived (.bh l) bytes) s = .next t ∧ ReceptionOver (.bh l) s t
        ∧ t.links = s.links.set l { s.link l with
            state := .inService, admitted := true, barCause := .none, holdTimer := none
            carrier := true, current := i, pending := none, pendTimer := none, stale := false, level := some v
            supTimer := some ((s.link l).supTimer.getD (afterMs s.now (s.cfg.links.get l).supervision))
            counters := { (s.link l).counters with currentTaken := (s.link l).counters.currentTaken + 1 } }
        ∧ t.latch (.linkAdmitted l) = (s.latch (.linkAdmitted l)).occur s.nowNs none
        ∧ LatchesKept [.capacityChanged, .profileUnknown l, .linkAdmitted l] s t ∧ Reported l s t ∧ Computed t
        ∧ Kept (computed ++ [.reception, .counters, .links]) s t)
  ∧ (∀ (l : Link) (bytes : List Byte) (s : State) (stamp : Instant) (i : Fin 16) (v : BitVec 8),
    (s.port (.bh l)).rx = some stamp → Reaches (.bh l) bytes s → isRequest bytes = false → isRateNotice bytes = true →
    parseNotice (payload bytes) = some { current := true, index := some i, level := v } →
    (s.link l).state = .down → (s.cfg.links.get l).startIndex ≠ none →
    (s.startup.straps.bringup = true ∨ (s.link l).admitted = true) →
    let taken : LinkUnit := { s.link l with
      carrier := true, current := i, pending := none, pendTimer := none, stale := false, level := some v
      counters := { (s.link l).counters with currentTaken := (s.link l).counters.currentTaken + 1 } }
    (∀ first last n, Startable l s.cfg s.flows first last n →
      0 < (tget s.cfg.steps first).settle → (tget s.cfg.steps first).settle ≤ 10000 →
      ∃ t, exec (.frameReceived (.bh l) bytes) s = .next t ∧ ReceptionOver (.bh l) s t
        ∧ Counted [(.bh l, .framesReceived, 1), (.bh l, .bytesReceived, bytes.length)] s t
        ∧ t.links = s.links.set l { taken with
            state := .qualifying, barCause := .none
            supTimer := some ((s.link l).supTimer.getD (afterMs s.now (s.cfg.links.get l).supervision)) }
        ∧ t.ctx l = startedContext l s.cfg (s.ctx l) s.now false first last n ∧ t.ctx l.other = s.ctx l.other
        ∧ (∀ i, tget t.qual.results i = if first ≤ i ∧ i ≤ last then none else tget s.qual.results i)
        ∧ t.flows.map withoutLastLink
            = (placeEntry n (testEntry (testKeyOf l s.cfg)) s.flows).map withoutLastLink
        ∧ t.share.testRate = s.share.testRate.set l (stepRate (tget s.cfg.steps first))
        ∧ (t.el l = s.el l → t.share.table = s.share.table)
        ∧ (t.el l ≠ s.el l → (t.bucket (.pacing l)).rate = t.el l)
        ∧ LatchesKept [.capacityChanged, .profileUnknown l] s t
        ∧ Kept (computed ++ [.reception, .counters, .links, .qual, .flows]) s t)
    ∧ (∀ cause, startRefusal l s.cfg s.flows = some cause →
      ∃ t, exec (.frameReceived (.bh l) bytes) s = .next t ∧ ReceptionOver (.bh l) s t
        ∧ Counted [(.bh l, .framesReceived, 1), (.bh l, .bytesReceived, bytes.length)] s t
        ∧ t.links = s.links.set l { taken with state := .barred, barCause := cause, supTimer := none }
        ∧ t.qual = { s.qual with ctx := s.qual.ctx.set l (refusedContext (s.ctx l) false cause) }
        ∧ t.latch (.linkBarred l) = (s.latch (.linkBarred l)).occur s.nowNs none
        ∧ LatchesKept [.capacityChanged, .profileUnknown l, .linkBarred l] s t ∧ Reported l s t
        ∧ Kept (computed ++ [.reception, .counters, .links, .qual]) s t))

/-- R4, R19: the loss of the physical link of an access port or SP ends the reception and the transmission there, and
flushes its two queues; each frame cut off or flushed is a link-down discard, its cells are free, and nothing is
received or sent there until the link is up. A link already down changes nothing: that is the model's choice
(log entry 8). -/
def Obligations.AccessLinkLossFlushesThePort : Prop :=
  ∀ (p : Port) (s : State), roleOf p ≠ .backhaul →
    ((s.port p).linkUp = false → exec (.flowDown p) s = .next s) ∧
    ((s.port p).linkUp = true → ∃ t, exec (.flowDown p) s = .next t
      ∧ (∀ q, (t.port q).linkUp = if q = p then false else (s.port q).linkUp) ∧ ReceptionOver p s t
      ∧ (t.port p).tx = none ∧ t.localQ p = [] ∧ t.queues.down.get p = []
      ∧ Counted [(p, .linkDownDiscards, if (s.port p).tx.isSome then 1 else 0),
          (p, .linkDownDiscards, (s.localQ p).length), (p, .linkDownDiscards, (s.queues.down.get p).length)] s t
      ∧ (∀ d c, d ∈ s.queues.down.get p → c ∈ d.cells → c ∈ t.pool.free)
      ∧ (∀ d c, sends s p (.pool d) → c ∈ d.cells → c ∈ t.pool.free)
      ∧ TrafficKept { s with
          ports := s.ports.set p { s.port p with linkUp := false, tx := none }
          queues := { s.queues with locals := s.queues.locals.set p [], down := s.queues.down.set p [] } } t
      ∧ Kept [.linkUp, .reception, .counters, .traffic] s t)

/-- R4, R43, R50 to R52, R152: the loss of the physical link of a backhaul port also flushes the link's test queue and
is a carrier-absent report: an IN_SERVICE link with a hold-off above 0 fades, its pending profile and its supervision
timer end, its hold-off timer runs, the fade is counted, LINK_FADED occurs and the table is computed without it; with a
hold-off of 0 it goes on to DOWN; a QUALIFYING link enters DOWN; a run under way on either is aborted with cause
CARRIER; a link that is DOWN, FADED or BARRED keeps its state with the carrier absent and no pending profile. A rate
notice with carrier absent does the same, is counted, sets the level, and clears the stale flag when it is a CURRENT
one. (That the measure range of the aborted run is NONE is deduced: log entry 36. That its generator and step copy are
NONE too is the model's choice: log entry 43.) -/
def Obligations.BackhaulLinkLossFadesTheLink : Prop :=
  (∀ (l : Link) (s : State), (s.port (.bh l)).linkUp = true → (s.link l).state ≠ .qualifying →
      ((s.link l).state = .inService → (s.ctx l).underWay = false ∧ 0 < (s.cfg.links.get l).holdOff) →
      ∃ t, exec (.flowDown (.bh l)) s = .next t
        ∧ (∀ q, (t.port q).linkUp = if q = .bh l then false else (s.port q).linkUp) ∧ ReceptionOver (.bh l) s t
        ∧ (t.port (.bh l)).tx = none ∧ t.localQ (.bh l) = [] ∧ t.queues.test.get l = []
        ∧ Counted [(.bh l, .linkDownDiscards, if (s.port (.bh l)).tx.isSome then 1 else 0),
            (.bh l, .linkDownDiscards, (s.localQ (.bh l)).length),
            (.bh l, .linkDownDiscards, (s.queues.test.get l).length)] s t
        ∧ (∀ d c, d ∈ s.queues.test.get l → c ∈ d.cells → c ∈ t.pool.free)
        ∧ (∀ d c, sends s (.bh l) (.pool d) → c ∈ d.cells → c ∈ t.pool.free)
        ∧ TrafficKept { s with
            ports := s.ports.set (.bh l) { s.port (.bh l) with linkUp := false, tx := none }
            queues := { s.queues with
              locals := s.queues.locals.set (.bh l) [], test := s.queues.test.set l [] } } t
        ∧ Reported l s t
        ∧ Kept (computed ++ [.linkUp, .reception, .counters, .traffic, .links]) s t
        ∧ (if (s.link l).state = .inService then
            t.links = s.links.set l { s.link l with
              state := .faded, carrier := false, pending := none, pendTimer := none, supTimer := none
              holdTimer := some (afterMs s.now (s.cfg.links.get l).holdOff)
              counters := { (s.link l).counters with fades := (s.link l).counters.fades + 1 } }
            ∧ t.latch (.linkFaded l) = (s.latch (.linkFaded l)).occur s.nowNs none
            ∧ LatchesKept [.capacityChanged, .linkFaded l] s t
           else
            t.links = s.links.set l { s.link l with carrier := false, pending := none, pendTimer := none }
            ∧ LatchesKept [.capacityChanged] s t))
  ∧ (∀ (l : Link) (s : State), (s.port (.bh l)).linkUp = true →
    ∃ t, exec (.flowDown (.bh l)) s = .next t
      ∧ (∀ q, (t.port q).linkUp = if q = .bh l then false else (s.port q).linkUp)
      ∧ CarrierLost l false (s.link l) s t
      ∧ Kept (computed ++ [.linkUp, .reception, .counters, .traffic, .links, .qual, .flows]) s t)
  ∧ (∀ (l : Link) (bytes : List Byte) (s : State) (stamp : Instant) (cur : Bool) (v : BitVec 8),
    (s.port (.bh l)).rx = some stamp → Reaches (.bh l) bytes s → isRequest bytes = false → isRateNotice bytes = true →
    parseNotice (payload bytes) = some { current := cur, index := none, level := v } →
    let k := (s.link l).counters
    ∃ t, exec (.frameReceived (.bh l) bytes) s = .next t ∧ ReceptionOver (.bh l) s t
      ∧ Counted [(.bh l, .framesReceived, 1), (.bh l, .bytesReceived, bytes.length)] s t
      ∧ CarrierLost l cur { s.link l with
          level := some v
          counters := if cur = true then { k with currentTaken := k.currentTaken + 1 }
                      else { k with pendingTaken := k.pendingTaken + 1 } } s t
      ∧ Kept (computed ++ [.reception, .counters, .links, .qual, .flows]) s t)

/-- R4: a physical link comes up: link up becomes yes, and nothing else is written; a link already up changes nothing:
that is the model's choice (log entry 8). -/
def Obligations.LinkUpIsTaken : Prop :=
  ∀ (p : Port) (s : State),
    ((s.port p).linkUp = true → exec (.portLinkUp p) s = .next s) ∧
    ((s.port p).linkUp = false → ∃ t, exec (.portLinkUp p) s = .next t
      ∧ (∀ q, (t.port q).linkUp = if q = p then true else (s.port q).linkUp)
      ∧ TrafficKept { s with ports := s.ports.set p { s.port p with linkUp := true } } t
      ∧ Kept [.linkUp, .traffic] s t)

/-- R15, R17, R18: when a transmission ends on an access port or SP, it is counted with its bytes, its cells are free,
and the port's next frame starts within the event: the head of the local queue if it has one, else the head of its other
queue. Before its end nothing happens: that is the model's choice (log entry 8). -/
def Obligations.AccessTransmissionEnds : Prop :=
  ∀ (p : Port) (s : State) (x : Transmission), p.isAccess = true → (s.port p).tx = some x →
    (reached s.now x.ends = false → exec (.accessTransmissionEnd p) s = .next s) ∧
    (reached s.now x.ends = true → ∃ t, exec (.accessTransmissionEnd p) s = .next t
      ∧ Counted [(p, .framesTransmitted, 1), (p, .bytesTransmitted, x.bytes.length)] s t
      ∧ TrafficKept { s with ports := s.ports.set p { s.port p with tx := none } } t
      ∧ (∀ d c, x.item = .pool d → c ∈ d.cells → c ∈ t.pool.free)
      ∧ ((s.port p).linkUp = true →
          (∀ f rest, s.localQ p = f :: rest → sends t p (.store f))
          ∧ (∀ d rest, s.localQ p = [] → s.queues.down.get p = d :: rest → sends t p (.pool d)))
      ∧ Kept [.counters, .traffic] s t)

/-- R15, R60, R92, R94, R95, R98, R99: when a transmission ends on a backhaul port, it is counted with its bytes, its
cells are free, the bytes of a tenant frame are added to its tenant's bytes departed, and a port that is ready starts
what its pass takes. A pass that comes to the tenants walks them from the one after the pointer: each active tenant
reached loses its aged heads, which are counted, raise AGED_DISCARD and give back their cells, and the first whose head
is eligible and whose credit is not negative starts it, is charged with the pacing bucket, and takes the pointer. -/
def Obligations.BackhaulTransmissionEnds : Prop :=
  (∀ (l : Link) (s : State) (x : Transmission), (s.port (.bh l)).tx = some x → reached s.now x.ends = true →
      ∃ t, exec (.backhaulTransmissionEnd l) s = .next t
        ∧ Counted [(.bh l, .framesTransmitted, 1), (.bh l, .bytesTransmitted, x.bytes.length)] s t
        ∧ TrafficKept { s with ports := s.ports.set (.bh l) { s.port (.bh l) with tx := none } } t
        ∧ (∀ d c, x.item = .pool d → c ∈ d.cells → c ∈ t.pool.free)
        ∧ (∀ i, (t.tenant i).departed = (s.tenant i).departed +
            (if carriesTenant x.item i = true then BitVec.ofNat 64 x.bytes.length else 0)
            ∧ (t.tenant i).accepted = (s.tenant i).accepted ∧ (t.tenant i).dropped = (s.tenant i).dropped)
        ∧ Kept [.counters, .traffic, .tallies] s t)
  ∧ (∀ (l : Link) (s : State) (x : Transmission) (item : TxItem), (s.port (.bh l)).tx = some x →
      reached s.now x.ends = true →
    let idle := { s with ports := s.ports.set (.bh l) { s.port (.bh l) with tx := none } }
    ReadyNow l idle → passTakes l idle = some item →
    ∃ t, exec (.backhaulTransmissionEnd l) s = .next t ∧ sends t (.bh l) item)
  ∧ (∀ (l : Link) (s : State), ReadyNow l s → Walks l s → Walked l s (serveBackhaul l s))

/-- R90 to R93, R100: when the negative credit of a link's pacing bucket reaches 0, the link's arbiter makes a pass:
with the port's link up and its transmitter idle, the head of its local queue starts, or what else the pass takes; the
credit of a tenant or of the timing queue calls both arbiters. A credit that has not reached 0 changes nothing: that is
the model's choice (log entry 8). In every step a tenant frame or a timing frame starts only on a link that is
IN_SERVICE, and the test queues hold test and reflected frames only. -/
def Obligations.CreditStartsTheArbiter : Prop :=
  (∀ (b : BucketId) (s : State), b.awaited = true →
      (¬((s.bucket b).credit < 0 ∧ 0 ≤ ((s.bucket b).refresh s.nowNs).credit) →
        exec (.creditReachesZero b) s = .next s) ∧
      (((s.bucket b).credit < 0 ∧ 0 ≤ ((s.bucket b).refresh s.nowNs).credit) →
        ∃ t, exec (.creditReachesZero b) s = .next t ∧ Kept [] s t
          ∧ ∀ l f rest, b = .pacing l → (s.port (.bh l)).linkUp = true → (s.port (.bh l)).tx = none →
              s.localQ (.bh l) = f :: rest → sends t (.bh l) (.store f)))
  ∧ (∀ (b : BucketId) (l : Link) (s : State) (item : TxItem), b.awaited = true →
    (s.bucket b).credit < 0 → 0 ≤ ((s.bucket b).refresh s.nowNs).credit →
    (b = .pacing l ∨ isShared b = true ∧ ¬ReadyNow l.other s) → ReadyNow l s → passTakes l s = some item →
    ∃ t, exec (.creditReachesZero b) s = .next t ∧ sends t (.bh l) item)
  ∧ (∀ (s t : State), TestQueues s → step s = .next t →
    TestQueues t
    ∧ ∀ (l : Link) (x : Transmission) (d : Descriptor), (t.port (.bh l)).tx = some x → x.item = .pool d →
        (d.cls = .tenant ∨ d.cls = .timing) → (s.port (.bh l)).tx = some x ∨ t.inService l = true)

/-! ## Timers of capacity and links (R45, R48, R50, R52, R69) -/

/-- R69, R81: at the expiry of the demand window every tenant's demand is its byte count times 8, divided by the
window's length in ms; the counts are 0, the next window runs from the expiry with the length then held, and one
computation follows. Before the expiry nothing happens: that is the model's choice (log entry 8). (The start from the
nominal expiry also where the event is taken later is deduced: log entry 27.) -/
def Obligations.DemandWindowExpiryMeasures : Prop :=
  ∀ (s : State) (w : Window), s.share.window = some w →
    (reached s.now w.ends = false → exec .demandWindowExpiry s = .next s) ∧
    (reached s.now w.ends = true → ∃ t, exec .demandWindowExpiry s = .next t
      ∧ (∀ i, (t.tenant i).demand = (s.tenant i).demandBytes * 8 / w.lengthMs ∧ (t.tenant i).demandBytes = 0)
      ∧ OneComputation s t
      ∧ t.share = { s.share with
          table := t.share.table
          window := some { lengthMs := s.cfg.params.windowMs, ends := afterMs w.ends s.cfg.params.windowMs } }
      ∧ OtherRatesKept [] s t ∧ DepthsKept [] s t ∧ LatchesKept [.capacityChanged] s t
      ∧ Kept (computed ++ [.demand]) s t)

/-- R45, R48, R50, R52: the supervision timer makes an IN_SERVICE link stale, with STALE, and puts a QUALIFYING link
DOWN with its run aborted for NOTICE_LOST; the pending timer ends the pending profile and is counted; the hold-off timer
puts a FADED link DOWN. A link that enters DOWN is no longer stale, its timers stop and LINK_DOWN occurs. A changed E_L
is reported (R40). A LOAD step of an in-service run that the changed E_L does not carry is aborted (R148). A timer that
has not expired does nothing: that is the model's choice (log entry 8). (That the measure range of the aborted run is
NONE is deduced: log entry 36. That its generator and step copy are NONE too is the model's choice: log entry 43.) -/
def Obligations.LinkTimersExpire : Prop :=
  ∀ (l : Link) (s : State),
    (∀ x, (s.link l).supTimer = some x → reached s.now x = true → (s.link l).state = .inService →
      (s.ctx l).underWay = false →
      ∃ t, exec (.supervisionExpiry l) s = .next t
        ∧ t.links = s.links.set l { s.link l with
            stale := true, supTimer := none
            counters := { (s.link l).counters with staleOnsets := (s.link l).counters.staleOnsets + 1 } }
        ∧ t.latch (.stale l) = (s.latch (.stale l)).occur s.nowNs none
        ∧ LatchesKept [.capacityChanged, .stale l] s t ∧ Reported l s t ∧ Kept (computed ++ [.links]) s t)
    ∧ (∀ x, (s.link l).supTimer = some x → reached s.now x = true → (s.link l).state = .qualifying →
      (s.ctx l).underWay = true →
      ∃ t, exec (.supervisionExpiry l) s = .next t
        ∧ t.links = s.links.set l { s.link l with
            state := .down, stale := false, supTimer := none, holdTimer := none }
        ∧ Aborted l .noticeLost s t
        ∧ t.latch (.linkDown l) = (s.latch (.linkDown l)).occur s.nowNs none
        ∧ ((s.link l).stale = false → t.share.table = s.share.table ∧ LatchesKept [.linkDown l] s t
            ∧ Kept [.links, .qual, .flows, .share, .latches] s t)
        ∧ (t.el l ≠ s.el l → (t.bucket (.pacing l)).rate = t.el l)
        ∧ LatchesKept [.capacityChanged, .linkDown l] s t ∧ Kept (computed ++ [.links, .qual, .flows]) s t)
    ∧ (∀ x, (s.link l).supTimer = some x → reached s.now x = false → exec (.supervisionExpiry l) s = .next s)
    ∧ (∀ x, (s.link l).pendTimer = some x → reached s.now x = true →
      ((s.ctx l).underWay = false ∨ (s.link l).state ≠ .inService) →
      ∃ t, exec (.pendingTimeout l) s = .next t
        ∧ t.links = s.links.set l { s.link l with
            pending := none, pendTimer := none
            counters := { (s.link l).counters with pendingTimeouts := (s.link l).counters.pendingTimeouts + 1 } }
        ∧ LatchesKept [.capacityChanged] s t ∧ Reported l s t ∧ Kept (computed ++ [.links]) s t)
    ∧ (∀ x, (s.link l).pendTimer = some x → reached s.now x = false → exec (.pendingTimeout l) s = .next s)
    ∧ (∀ x, (s.link l).holdTimer = some x → reached s.now x = true → (s.link l).state = .faded →
      ∃ t, exec (.holdOffExpiry l) s = .next t
        ∧ t.links = s.links.set l { s.link l with
            state := .down, stale := false, supTimer := none, holdTimer := none }
        ∧ t.latch (.linkDown l) = (s.latch (.linkDown l)).occur s.nowNs none
        ∧ LatchesKept [.capacityChanged, .linkDown l] s t ∧ Reported l s t ∧ Kept (computed ++ [.links]) s t)
    ∧ (∀ x, (s.link l).holdTimer = some x → reached s.now x = false → exec (.holdOffExpiry l) s = .next s)
    ∧ (∀ x, (s.link l).supTimer = some x → reached s.now x = true → (s.link l).state = .inService →
      (s.ctx l).underWay = true →
      ∃ t, exec (.supervisionExpiry l) s = .next t
        ∧ t.links = s.links.set l { s.link l with
            stale := true, supTimer := none
            counters := { (s.link l).counters with staleOnsets := (s.link l).counters.staleOnsets + 1 } }
        ∧ t.latch (.stale l) = (s.latch (.stale l)).occur s.nowNs none
        ∧ LatchesKept [.capacityChanged, .stale l] s t ∧ ReportedToRun l [.links, .latches] s t)
    ∧ (∀ x, (s.link l).pendTimer = some x → reached s.now x = true → (s.link l).state = .inService →
      (s.ctx l).underWay = true →
      ∃ t, exec (.pendingTimeout l) s = .next t
        ∧ t.links = s.links.set l { s.link l with
            pending := none, pendTimer := none
            counters := { (s.link l).counters with pendingTimeouts := (s.link l).counters.pendingTimeouts + 1 } }
        ∧ LatchesKept [.capacityChanged] s t ∧ ReportedToRun l [.links] s t)

/-! ## The servo and the pulse outputs (R106 to R113, R115, R116) -/

/-- R106 to R111, R116, R133, R179: an edge outside RUNNING, or after less than 100 ns low, is not taken. An edge
outside the window of R106 is rejected: it is counted, PPS_REJECTED occurs, and nothing else changes. An accepted edge
is counted and becomes the reference with its phase error e. In FREE_RUN, or with |e| above the step limit, it steps
site time by -e and starts ACQUIRING; otherwise it disciplines the servo, and the lock and unlock counts move its state.
Outputs that may no longer pulse fall (R116; that the outputs see the state after the edge, also where it passed through
ACQUIRING, is deduced: log entry 38). -/
def Obligations.PulseEdgesDriveTheServo : Prop :=
  ∀ (lowNs : Nat) (s : State),
    let v := s.time.servo
    let c := s.cfg.timing
    let d : Int := (s.time.site.nanos : Int) - (c.comp : Int)
    let e : Int := if d < 500000000 then d else d - 1000000000
    let inWindow : Prop := ∀ r, v.reference = some r →
      999000000 ≤ (s.nowNs - r).toNat ∧ (s.nowNs - r).toNat ≤ 1001000000
    (s.startup.state ≠ .running ∨ lowNs < 100 → exec (.ppsEdge lowNs) s = .next s)
    ∧ (s.startup.state = .running → 100 ≤ lowNs → ¬inWindow →
      ∃ t, exec (.ppsEdge lowNs) s = .next t
        ∧ t.time = { s.time with servo := { v with rejected := v.rejected + 1 } }
        ∧ t.latch .ppsRejected = (s.latch .ppsRejected).occur s.nowNs none
        ∧ LatchesKept [.ppsRejected] s t ∧ Kept [.time, .latches] s t)
    ∧ (s.startup.state = .running → 100 ≤ lowNs → inWindow → v.state = .freeRun ∨ c.stepLimit < e.natAbs →
      scheduleLaw s.cfg.schedule →
      ∃ t, exec (.ppsEdge lowNs) s = .next t
        ∧ t.time.servo = { v with
            state := .acquiring, slew := 0, slewEnd := none, lockCtr := 0, unlockCtr := 0, holdoverStart := none
            holdoverEnds := none, steps := v.steps + 1, accepted := v.accepted + 1, reference := some s.nowNs, phaseError := some e }
        ∧ t.time.site.frac = s.time.site.frac ∧ t.time.site.nanos < 1000000000
        ∧ ((t.time.site.seconds : Int) * 1000000000 + t.time.site.nanos)
            = ((s.time.site.seconds : Int) * 1000000000 + s.time.site.nanos - e) % (2 ^ 48 * 1000000000)
        ∧ t.time.elapsed = s.time.elapsed ∧ t.time.valid = s.time.valid ∧ Squelched s t
        ∧ t.latch .timeStepped = (s.latch .timeStepped).occur s.nowNs none
        ∧ (if e < 0 ∧ s.time.valid = true then FiredBeside [.timeStepped] [.time, .latches] s t
           else LatchesKept [.timeStepped] s t ∧ Kept [.time, .latches] s t))
    ∧ (s.startup.state = .running → 100 ≤ lowNs → inWindow → v.state ≠ .freeRun → e.natAbs ≤ c.stepLimit →
      let lock0 := if v.state = .holdover then 0 else v.lockCtr
      let unlock0 := if v.state = .holdover then 0 else v.unlockCtr
      let lock := if e.natAbs ≤ c.lockThreshold then min (lock0 + 1) 255 else 0
      let unlock := if e.natAbs ≤ c.lockThreshold then 0 else min (unlock0 + 1) 255
      ∃ t, exec (.ppsEdge lowNs) s = .next t
        ∧ t.time.servo = { v with
            state := if v.state = .locked then if c.unlockCount ≤ unlock then .acquiring else .locked
                     else if c.lockCount ≤ lock then .locked else .acquiring
            f := max (-200000) (min 200000 (v.f - e.tdiv (2 ^ c.gainShift)))
            slew := -e, slewEnd := some (s.nowNs + 1000000000), lockCtr := lock, unlockCtr := unlock
            holdoverStart := none, holdoverEnds := none, accepted := v.accepted + 1, reference := some s.nowNs, phaseError := some e }
        ∧ t.time.site = s.time.site ∧ t.time.elapsed = s.time.elapsed ∧ t.time.valid = s.time.valid ∧ Squelched s t
        ∧ t.latch .timeLocked = (if t.time.servo.state = .locked ∧ v.state ≠ .locked then
            (s.latch .timeLocked).occur s.nowNs none else s.latch .timeLocked)
        ∧ LatchesKept [.timeLocked] s t ∧ Kept [.time, .latches] s t)

/-- R110, R112, R113, R116: 1,500,000,000 ns after the reference the pulse is lost: the reference is NONE and the slew
ends, a LOCKED servo goes to HOLDOVER, where the timer of the holdover limit runs from that moment, and an ACQUIRING one
to FREE_RUN, with its condition. At the expiry of that timer HOLDOVER goes to FREE_RUN with TIME_FREE_RUN. Outputs that
may no longer pulse fall. At the slew end the slew is 0. Before its moment each of them does nothing: that is the
model's choice (log entry 8). -/
def Obligations.ServoTimersExpire : Prop :=
  ∀ (s : State),
    let v := s.time.servo
    (∀ r, v.reference = some r →
      ((s.nowNs - r).toNat < 1500000000 → exec .pulseMissingExpiry s = .next s)
      ∧ (1500000000 ≤ (s.nowNs - r).toNat → ∃ t, exec .pulseMissingExpiry s = .next t
        ∧ t.time = { s.time with
            pulses := t.time.pulses
            servo := { v with
              reference := none, slew := 0, slewEnd := none
              state := if v.state = .locked then .holdover else if v.state = .acquiring then .freeRun else v.state
              holdoverStart := if v.state = .locked then some s.nowNs else v.holdoverStart
              holdoverEnds := if v.state = .locked then
                  some (s.nowNs + BitVec.ofNat 64 (s.cfg.timing.holdoverLimit * 1000000000)) else v.holdoverEnds } }
        ∧ (if v.state = .locked ∨ v.state = .acquiring then Squelched s t else t.time.pulses = s.time.pulses)
        ∧ (∀ x : Cond, x.ofDeparture = false → t.latch x =
            (if (v.state = .locked ∧ x = .timeHoldover) ∨ (v.state = .acquiring ∧ x = .timeFreeRun) then
              (s.latch x).occur s.nowNs none else s.latch x))
        ∧ Kept [.time, .latches] s t))
    ∧ (∀ x, v.state = .holdover → v.holdoverEnds = some x →
      (reachedNs s.nowNs x = false → exec .holdoverLimitExpiry s = .next s)
      ∧ (reachedNs s.nowNs x = true → ∃ t, exec .holdoverLimitExpiry s = .next t
        ∧ t.time = { s.time with
            pulses := t.time.pulses
            servo := { v with state := .freeRun, holdoverStart := none, holdoverEnds := none } }
        ∧ Squelched s t ∧ t.latch .timeFreeRun = (s.latch .timeFreeRun).occur s.nowNs none
        ∧ LatchesKept [.timeFreeRun] s t ∧ Kept [.time, .latches] s t))
    ∧ (∀ x, v.slewEnd = some x →
      (reachedNs s.nowNs x = false → exec .slewEnd s = .next s)
      ∧ (reachedNs s.nowNs x = true → ∃ t, exec .slewEnd s = .next t
        ∧ t.time = { s.time with servo := { v with slew := 0, slewEnd := none } } ∧ Kept [.time] s t))

/-- R115, R116: an output that reaches its rise point while site time is valid, and its policy admits the servo state,
is high for its width and counted; one that may not pulse stays as it is. It falls at its fall time. (That the command
is trusted to come at the rise point, and that a fall before its time does nothing, are the model's choices: log entries
17 and 8.) -/
def Obligations.PulseOutputsRiseAndFall : Prop :=
  ∀ (k : Fin 4) (s : State),
    let u := tget s.time.pulses k
    let p := tget s.cfg.pulses k
    (∃ t, exec (.pulseOutputRise k) s = .next t
      ∧ (if s.time.valid = true
            ∧ (p.policy = .always ∨ s.time.servo.state = .locked ∨ s.time.servo.state = .holdover) then
          t.time = { s.time with
            pulses := tset s.time.pulses k { high := true, fall := some (afterMs s.now p.width), pulses := u.pulses + 1 } }
          ∧ Kept [.time] s t
         else Kept [] s t))
    ∧ (∀ x, u.fall = some x →
      (reached s.now x = false → exec (.pulseOutputFall k) s = .next s)
      ∧ (reached s.now x = true → ∃ t, exec (.pulseOutputFall k) s = .next t
        ∧ t.time = { s.time with pulses := tset s.time.pulses k { u with high := false, fall := none } }
        ∧ Kept [.time] s t))

/-- R101, R102, R116, R132 to R135: while site time is valid, every schedule entry at or before its seconds count fires
in one event; while it is invalid, or with every entry in the future, nothing does. A seconds count that has passed 2^48
- 1 wraps to 0, which fires nothing and keeps the validity flag. On an empty queue, with no event of the device due, one
unit of the elapsed counter passes; at a whole nanosecond site time moves on by 1 ns plus f and the slew, in units of
2^-32 ns, and an entry's second, a rise point and the wrap that it reaches join the queue. Where events are due, one of
them joins it and no time passes. (The clock of the empty queue and its order, the state between the advance and the
wrap, the rise as a command, and a command that comes early and does nothing are the model's choices: log entries 2, 18,
17 and 8.) -/
def Obligations.ScheduledEntriesFireAndSecondsWrap : Prop :=
  (∀ (s : State),
      (scheduleLaw s.cfg.schedule → s.time.valid = true → (∃ e, e ∈ s.cfg.schedule ∧ e.time ≤ s.time.site.seconds) →
        ∃ t, exec .scheduleFire s = .next t ∧ t.time = s.time ∧ FiredBeside [] [] s t)
      ∧ (s.time.valid = false ∨ (∀ e, e ∈ s.cfg.schedule → s.time.site.seconds < e.time) →
        exec .scheduleFire s = .next s)
      ∧ (∃ t, exec .siteSecondsWrap s = .next t ∧ Kept [.time] s t
        ∧ t.time = { s.time with
            site := { s.time.site with
              seconds := if 2 ^ 48 ≤ s.time.site.seconds then s.time.site.seconds - 2 ^ 48 else s.time.site.seconds } }))
  ∧ (∀ (s : State), s.pending = [] → dueEvents s s.freeCount = [] →
    ∃ t, step s = .next t ∧ t.time.elapsed = s.time.elapsed + 1
      ∧ ((s.time.elapsed + 1).extractLsb' 0 16 ≠ 0#16 →
          t = { s with time := { s.time with elapsed := s.time.elapsed + 1 } })
      ∧ ((s.time.elapsed + 1).extractLsb' 0 16 = 0#16 → (s.time.servo.f + s.time.servo.slew).natAbs < 1000000000 →
          s.time.site.frac < 2 ^ 32 →
          let moved : Int := 2 ^ 32 + (s.time.servo.f + s.time.servo.slew) * 2 ^ 32 / 1000000000
          let whole : Nat := ((s.time.site.frac : Int) + moved).toNat / 2 ^ 32
          let units (x : SiteTime) : Int := ((x.seconds : Int) * 1000000000 + x.nanos) * 2 ^ 32 + x.frac
          t = { s with
            time := { s.time with elapsed := s.time.elapsed + 1, site := t.time.site }
            pending := t.pending, freeCount := t.freeCount }
          ∧ units t.time.site = units s.time.site + moved ∧ t.time.site.nanos < 1000000000 ∧ t.time.site.frac < 2 ^ 32
          ∧ (Instr.scheduleFire ∈ t.pending ↔
              s.time.valid = true ∧ ∃ e, s.cfg.schedule.head? = some e ∧ e.time ≤ t.time.site.seconds)
          ∧ (∀ k, Instr.pulseOutputRise k ∈ t.pending ↔
              ∃ j, 1 ≤ j ∧ j ≤ whole ∧ (s.time.site.nanos + j) % 1000000000
                = (1000000000 - (tget s.cfg.pulses k).advance) % 1000000000)
          ∧ (Instr.siteSecondsWrap ∈ t.pending ↔ 2 ^ 48 ≤ t.time.site.seconds)))
  ∧ (∀ (s : State), s.pending = [] → dueEvents s s.freeCount ≠ [] →
    ∃ c, c ∈ dueEvents s s.freeCount ∧ step s = .next { s with pending := [c], freeCount := s.freeCount + 1 })

/-! ## Qualification and notices (R145, R146, R150, R151, R165, R166) -/

/-- R145, R148, R150, R151: at a phase end SETTLE goes to MEASURE, or to RECOVER in a WAIT step, and MEASURE goes to
RECOVER, with the next phase end taken from the end before it; RECOVER has no generator and test rate 0. At the end of
RECOVER the step's result is written. A failed step ends the run FAILED and bars a QUALIFYING link; the last step passed
ends it PASSED and puts a QUALIFYING link into service; another step passed begins the next. A MEASURE or a RECOVER of 0
ms ends within the same event. A phase whose end is not reached goes on: that is the model's choice (log entry 8); the
next phase from the nominal end also where the event is taken later is deduced (log entry 27); that
the generator is NONE in RECOVER, and with the step copy at the end of a run, is the model's choice (log entry 43). (A
LOAD step of an in-service run that E_L does not carry is left out by the hypotheses.) -/
def Obligations.PhasesFollowEachOther : Prop :=
  ∀ (l : Link) (s : State) (x : Instant) (r : StepRecord) (i : Fin 32),
    (s.ctx l).phaseEnd = some x → (s.ctx l).step = some r → (s.ctx l).current = some i →
    (reached s.now x = false → exec (.phaseEnd l) s = .next s)
    ∧ (reached s.now x = true → (s.ctx l).state = .settle → r.kind ≠ .wait →
      reached s.now (afterMs x r.measure) = false →
      ∃ t, exec (.phaseEnd l) s = .next t ∧ Kept [.qual] s t
        ∧ t.qual = { s.qual with ctx := s.qual.ctx.set l { s.ctx l with
            state := .measure, phaseEnd := some (afterMs x r.measure) } })
    ∧ (reached s.now x = true → ((s.ctx l).state = .settle ∧ r.kind = .wait ∨ (s.ctx l).state = .measure) →
      reached s.now (afterMs x r.recover) = false →
      ∃ t, exec (.phaseEnd l) s = .next t
        ∧ t.qual = { s.qual with ctx := s.qual.ctx.set l { s.ctx l with
            state := .recover, phaseEnd := some (afterMs x r.recover), gen := .none } }
        ∧ t.share.testRate = s.share.testRate.set l 0
        ∧ (if s.share.testRate.get l ≠ 0 ∧ s.inService l = true then
            OneComputation s t ∧ LatchesKept [.capacityChanged] s t ∧ Kept (computed ++ [.qual]) s t
           else t.share.table = s.share.table ∧ Kept [.qual, .share] s t))
    ∧ (reached s.now x = true → (s.ctx l).state = .recover → s.share.testRate.get l = 0 →
      let c := s.ctx l
      let loss := if c.sent = 0 then 1000000 else (c.sent.toNat - c.returned.toNat) * 1000000 / c.sent.toNat
      let pass : Prop := r.kind = .wait ∨ (c.sent ≠ 0 ∧ loss ≤ r.maxLoss
        ∧ (r.maxRoundTrip = 0 ∨ ∃ m, c.maxRt = some m ∧ m ≤ r.maxRoundTrip * 1000)
        ∧ (r.maxVariation = 0 ∨ ∃ lo hi, c.minRt = some lo ∧ c.maxRt = some hi ∧ hi - lo ≤ r.maxVariation * 1000))
      let nx := tget s.cfg.steps (i + 1)
      (pass → c.last ≠ some i → 0 < nx.settle → nx.settle ≤ 10000 →
        (c.inService = true → nx.kind = .load → nx.rate ≤ s.el l) →
        ∃ t, exec (.phaseEnd l) s = .next t
          ∧ t.ctx l = { c with
              state := .settle, current := some (i + 1), step := some nx, phaseEnd := some (afterMs s.now nx.settle)
              gen := startGenerator nx s.now, nextSeq := 0, range := none, sent := 0, returned := 0, minRt := none
              maxRt := none, sumRt := 0 }
          ∧ t.ctx l.other = s.ctx l.other ∧ t.share.testRate = s.share.testRate.set l (stepRate nx)
          ∧ (∃ res, t.qual.results = tset s.qual.results i (some res) ∧ res.link = l ∧ res.runNo = c.runNo
              ∧ res.kind = r.kind ∧ res.pass = true ∧ res.writtenAt = s.nowNs)
          ∧ LatchesKept [.capacityChanged] s t ∧ Kept (computed ++ [.qual]) s t)
      ∧ (¬pass ∨ c.last = some i →
        ∃ t, exec (.phaseEnd l) s = .next t
          ∧ (∃ res, t.qual.results = tset s.qual.results i (some res) ∧ res.link = l ∧ res.runNo = c.runNo
              ∧ res.kind = r.kind ∧ (res.pass = true ↔ pass) ∧ res.writtenAt = s.nowNs
              ∧ (r.kind ≠ .wait → res.sent = c.sent ∧ res.returned = c.returned ∧ res.loss = loss
                  ∧ res.minRt = c.minRt ∧ res.maxRt = c.maxRt))
          ∧ t.ctx l.other = s.ctx l.other
          ∧ (pass → t.ctx l = { c with
              state := .passed, current := none, step := none, phaseEnd := none, gen := .none, slot := none
              testKey := none })
          ∧ (¬pass → t.ctx l = { c with
              state := .failed, cause := .stepFailed, current := none, step := none, phaseEnd := none, gen := .none
              slot := none, testKey := none })
          ∧ t.flows.map withoutLastLink
              = (s.flows.filter fun y => !(some y.1 == c.slot && decide (y.2.owner = .test))).map withoutLastLink
          ∧ t.latch (.qualifyDone l) = (s.latch (.qualifyDone l)).occur s.nowNs none
          ∧ (if c.inService = true then
              (¬pass → t.latch (.retestFailed l) = (s.latch (.retestFailed l)).occur s.nowNs none)
              ∧ (pass → LatchesKept [.qualifyDone l] s t)
              ∧ LatchesKept [.qualifyDone l, .retestFailed l] s t ∧ Kept [.qual, .flows, .latches] s t
             else (s.link l).state = .qualifying →
              (pass → OneComputation s t
                ∧ t.links = s.links.set l { s.link l with
                    state := .inService, admitted := true, barCause := .none, holdTimer := none
                    supTimer := some ((s.link l).supTimer.getD (afterMs s.now (s.cfg.links.get l).supervision)) }
                ∧ t.latch (.linkAdmitted l) = (s.latch (.linkAdmitted l)).occur s.nowNs none
                ∧ LatchesKept [.qualifyDone l, .linkAdmitted l, .capacityChanged] s t
                ∧ Kept (computed ++ [.qual, .flows, .links]) s t)
              ∧ (¬pass →
                t.links = s.links.set l { s.link l with state := .barred, barCause := .stepFailed, supTimer := none }
                ∧ t.latch (.linkBarred l) = (s.latch (.linkBarred l)).occur s.nowNs none
                ∧ LatchesKept [.qualifyDone l, .linkBarred l] s t ∧ Kept [.qual, .flows, .links, .latches] s t))))
    ∧ (reached s.now x = true → (s.ctx l).state = .settle → r.kind ≠ .wait → r.measure = 0 →
      reached s.now (afterMs x r.recover) = false →
      ∃ t, exec (.phaseEnd l) s = .next t
        ∧ t.qual = { s.qual with ctx := s.qual.ctx.set l { s.ctx l with
            state := .recover, phaseEnd := some (afterMs x r.recover), gen := .none } }
        ∧ t.share.testRate = s.share.testRate.set l 0)
    ∧ (reached s.now x = true → ((s.ctx l).state = .settle ∧ r.kind = .wait ∨ (s.ctx l).state = .measure) → r.recover = 0 →
      let c := s.ctx l
      let loss := if c.sent = 0 then 1000000 else (c.sent.toNat - c.returned.toNat) * 1000000 / c.sent.toNat
      let pass : Prop := r.kind = .wait ∨ (c.sent ≠ 0 ∧ loss ≤ r.maxLoss
        ∧ (r.maxRoundTrip = 0 ∨ ∃ m, c.maxRt = some m ∧ m ≤ r.maxRoundTrip * 1000)
        ∧ (r.maxVariation = 0 ∨ ∃ lo hi, c.minRt = some lo ∧ c.maxRt = some hi ∧ hi - lo ≤ r.maxVariation * 1000))
      ¬pass ∨ c.last = some i →
      ∃ t, exec (.phaseEnd l) s = .next t
        ∧ (∃ res, t.qual.results = tset s.qual.results i (some res) ∧ res.link = l ∧ res.runNo = c.runNo
            ∧ res.kind = r.kind ∧ (res.pass = true ↔ pass) ∧ res.writtenAt = s.nowNs
            ∧ (r.kind ≠ .wait → res.sent = c.sent ∧ res.returned = c.returned ∧ res.loss = loss
                ∧ res.minRt = c.minRt ∧ res.maxRt = c.maxRt))
        ∧ t.ctx l.other = s.ctx l.other ∧ t.share.testRate = s.share.testRate.set l 0
        ∧ (pass → t.ctx l = { c with
            state := .passed, current := none, step := none, phaseEnd := none, gen := .none, slot := none
            testKey := none })
        ∧ (¬pass → t.ctx l = { c with
            state := .failed, cause := .stepFailed, current := none, step := none, phaseEnd := none, gen := .none
            slot := none, testKey := none })
        ∧ t.flows.map withoutLastLink = (withoutTest l s).map withoutLastLink
        ∧ t.latch (.qualifyDone l) = (s.latch (.qualifyDone l)).occur s.nowNs none)

/-- R96, R98, R146, R147, R154: in SETTLE and MEASURE a frame falls due when a LOAD step's credit, brought up to date
and capped at one frame, holds a whole frame, or when a PROBE step's next time is reached. Its due time is spent, and
with room in the test queue the frame joins it with the run number, the step and the next sequence number, which moves
on; in MEASURE it is counted as sent and enters the measure range. (A phase end of the same moment comes first, and is
left out here.) A pass that finds neither a local frame nor a timing frame to take removes the test heads of no run
under way, and starts the next one, charged to the pacing bucket, with the transmit stamp of a generated frame or the
peer transmit stamp of a reflected one. (That a frame that is not due is not built, that the next probe time is taken
from the nominal one, which cells a frame is given, and the unit in which a credit's fraction is held are the model's:
log entries 8, 27, 20 and 16.) -/
def Obligations.TestFramesAreGeneratedWhenDue : Prop :=
  (∀ (l : Link) (s : State) (x : Instant) (r : StepRecord) (i : Fin 32),
      (s.ctx l).phaseEnd = some x → reached s.now x = false → (s.ctx l).step = some r → (s.ctx l).current = some i →
      ((s.ctx l).state = .settle ∨ (s.ctx l).state = .measure) → 64 ≤ r.length →
      let c := s.ctx l
      let bits (res : Nat) (at' : Instant) := r.rate * (s.now - at').toNat + res
    let credit (k res : Nat) (at' : Instant) := min (k + bits res at' / (1000000 * 65536)) (r.length * 8)
      let due : Option Generator := match c.gen with
        | .none => none
        | .load k res at' =>
          if r.length * 8 ≤ credit k res at' then
            some (.load (credit k res at' - r.length * 8) (bits res at' % (1000000 * 65536)) s.now)
          else none
        | .probe next => if reached s.now next = true then some (.probe (afterMs next r.interval)) else none
      (due = none → exec (.testFrameDue l) s = .next s)
      ∧ (∀ g, due = some g → ∃ t, exec (.testFrameDue l) s = .next t
        ∧ (if occupancy (s.queues.test.get l) + (r.length + 255) / 256 ≤ 128
              ∧ (r.length + 255) / 256 ≤ s.pool.free.length then
            t.qual = { s.qual with ctx := s.qual.ctx.set l { c with
              gen := g, nextSeq := c.nextSeq + 1
              sent := if c.state = .measure then c.sent + 1 else c.sent
              range := if c.state = .measure then some ((c.range.map fun y => y.1).getD c.nextSeq, c.nextSeq) else c.range } }
            ∧ (∃ d, d.length = r.length ∧ d.frame.length = r.length ∧ d.arrival = s.now ∧ d.cls = .test ∧ d.link = some l
                ∧ d.cells = s.pool.free.take ((r.length + 255) / 256)
                ∧ slice 0 6 d.frame = natToBytes 6 s.store.runAddr.toNat ∧ slice 6 6 d.frame = slice 0 6 d.frame
                ∧ slice 18 4 d.frame = [0x04#8, c.runNo, BitVec.ofNat 8 i.val, 0#8]
                ∧ slice 22 4 d.frame = natToBytes 4 c.nextSeq.toNat
                ∧ TrafficKept { s with
                    queues := { s.queues with test := s.queues.test.set l (s.queues.test.get l ++ [d]) }
                    pool := { s.pool with free := s.pool.free.drop ((r.length + 255) / 256) }
                    qual := t.qual } t)
            ∧ Kept [.qual, .traffic] s t
           else
            t.qual = { s.qual with ctx := s.qual.ctx.set l { c with gen := g } } ∧ Kept [.qual] s t)))
  ∧ (∀ (l : Link) (s : State) (d : Descriptor) (rest : List Descriptor),
    ReadyNow l s → s.localQ (.bh l) = [] → s.queues.timing.head?.filter (timingGoes l s) = none →
    freshTest l s = d :: rest →
    let t := serveBackhaul l s
    let off := payloadOffset d.frame
    t.queues.test.get l = rest
    ∧ (∀ y c, y ∈ (s.queues.test.get l).takeWhile (testRefused (s.ctx l)) → c ∈ y.cells → c ∈ t.pool.free)
    ∧ t.bucket (.pacing l) = chargedNow (.pacing l) d.length s ∧ t.mgmt = s.mgmt ∧ t.queues.tenant = s.queues.tenant
    ∧ ∃ x, (t.port (.bh l)).tx = some x ∧ x.item = .pool d
      ∧ (holdsPayload d.frame 32 = true →
          x.bytes.length = d.frame.length ∧ fcsOk x.bytes = true
          ∧ (d.cls = .test → slice (off + 8) 8 x.bytes = natToBytes 8 s.nowNs.toNat)
          ∧ (d.cls ≠ .test → isTestFrame d.frame = true → slice (off + 24) 8 x.bytes = natToBytes 8 s.nowNs.toNat)
          ∧ (d.cls ≠ .test → isTestFrame d.frame = false →
              x.bytes.take (d.frame.length - 4) = d.frame.take (d.frame.length - 4))))

/-- R162, R165, R166: a pending notice that falls due is no longer pending: with a reportable latch a notice of the
state as it stands is built and offered to the local queue of every notice destination, the notice state holds its time,
counts it and counts each copy refused; without one the flag is cleared and nothing is built. In RUNNING and FAULT a new
latching of a level above 0 builds a notice at once at level 3, with no notice before it, or with the interval passed;
otherwise it sets the pending flag with the end of the interval as the due time, and leaves a flag that is set as it is.
In CHECKING and LOADING it sets the flag. A latching that is not new, or of level 0, changes the notice state in no way.
(That a notice that is not due does nothing is the model's choice: log entry 8.) -/
def Obligations.PendingNoticesFallDue : Prop :=
  (∀ (s : State) (x : Ns), s.mgmt.notice.pending = true → s.mgmt.notice.due = some x →
    (reachedNs s.nowNs x = false → exec .noticeDue s = .next s)
    ∧ (reachedNs s.nowNs x = true → ∃ t, exec .noticeDue s = .next t ∧ Kept [.notice, .locals] s t
      ∧ t.mgmt.latches = s.mgmt.latches ∧ LocalsAre True (fun _ => []) s t ∧ FallsDue (fun _ => 0) s t))
  ∧ (∀ (lowNs : Nat) (s : State) (r : Ns),
    s.startup.state = .running → 100 ≤ lowNs → s.time.servo.reference = some r →
    ¬(999000000 ≤ (s.nowNs - r).toNat ∧ (s.nowNs - r).toNat ≤ 1001000000) →
    ∃ t, exec (.ppsEdge lowNs) s = .next t
      ∧ (if (s.latch .ppsRejected).latched = false ∧ 1 ≤ s.level .ppsRejected then
          LatchingJudged .ppsRejected (fun _ => 0) s t
         else t.mgmt.notice = s.mgmt.notice))
  ∧ (∀ (c : Cond) (detail : Option Nat) (s : State),
    let t := raise c detail s
    let n := s.mgmt.notice
    t.latch c = (s.latch c).occur s.nowNs detail ∧ (∀ k, k ≠ c → t.latch k = s.latch k)
    ∧ ((s.latch c).latched = true ∨ s.level c = 0 → t.mgmt.notice = n ∧ t.ev = s.ev)
    ∧ ((s.latch c).latched = false → 1 ≤ s.level c →
      (s.startup.state = .running ∨ s.startup.state = .fault →
        if s.level c = 3 ∨ (∀ x, n.last = some x → s.cfg.notice.interval * 1000000 ≤ (s.nowNs - x).toNat) then
          t.mgmt.notice = { last := some s.nowNs, pending := false, due := none, built := n.built + 1, refused := n.refused }
            ∧ ∃ y, t.ev = { s.ev with outbox := s.ev.outbox ++ [y] } ∧ y.elapsed = s.nowNs
        else
          t.ev = s.ev ∧ t.mgmt.notice = (if n.pending = true then n else { n with
            pending := true
            due := n.last.map fun x => x + BitVec.ofNat 64 (s.cfg.notice.interval * 1000000) }))
      ∧ (s.startup.state = .checking ∨ s.startup.state = .loading →
          t.ev = s.ev ∧ t.mgmt.notice = { n with pending := true })))

/-! ## The store, resets and start-up (R16, R169 to R176, R179) -/

/-- R169 to R171, R173: an erase that reads back as ones leaves its bytes erased and goes on to its recovery; a
programmed block is followed by the next or by the recovery, and the last blocks of a save are its header and its valid
marker; the recovery ends the operation with last result DONE and STORE_DONE, and a WRITE_INFO's values become the
running copy. A read-back that differs ends the operation with last result FAILED and STORE_FAILED; an invalidate never
fails, and raises no condition. In every step what is erased carries no valid marker, and the marker that a save or a
WRITE_INFO programs last does not read valid before. (That a phase that is not due does nothing, that the next phase
starts at the nominal end, and that a failed erase leaves an INVALID slot are the model's readings: log entries 8, 27
and 13.) -/
def Obligations.StorePhasesEnd : Prop :=
  (∀ (s t : State), StoreLaw s.store → step s = .next t → StoreLaw t.store)
  ∧ ∀ (s : State) (o : StoreOp), s.store.op = some o →
    (reached s.now o.ends = false → ∀ ok, exec (.storeEraseEnd ok) s = .next s ∧ exec (.storeBlockProgrammed ok) s = .next s
      ∧ exec .storeRecoveryEnd s = .next s)
    ∧ (reached s.now o.ends = true → o.phase = .erase →
      (∃ t, exec (.storeEraseEnd true) s = .next t ∧ Kept [.store] s t
        ∧ t.store = { s.store with
            op := some { o with phase := .recovery, ends := afterMs o.ends s.store.times.recovery }
            slots := t.store.slots, info := t.store.info }
        ∧ (∀ k, tget t.store.slots k = if o.job = .eraseSlot k then
            { erased := true, body := none, header := none, marker := 0xFF#8 } else tget s.store.slots k)
        ∧ t.store.info = (if o.job = .eraseInfo then { erased := true, content := none, marker := 0xFF#8 }
            else s.store.info))
      ∧ (∃ t, exec (.storeEraseEnd false) s = .next t ∧ Kept [.store, .latches] s t ∧ t.store.op = none
        ∧ t.store.last = some { done := false, op := jobName o.job, slot := jobSlot o.job }
        ∧ (∀ k, o.job = .eraseSlot k → slotReport t.store k = .invalid)
        ∧ t.latch .storeFailed = (s.latch .storeFailed).occur s.nowNs none ∧ LatchesKept [.storeFailed] s t))
    ∧ (reached s.now o.ends = true → o.phase = .program → ∀ ok, (ok = true ∨ jobName o.job = .invalidateSlot) →
      ∃ t, exec (.storeBlockProgrammed ok) s = .next t ∧ Kept [.store] s t
        ∧ t.store = { s.store with
            op := some { o with
              done := o.done + 1
              phase := if o.done + 1 < o.total then .program else .recovery
              ends := afterMs o.ends (if o.done + 1 < o.total then s.store.times.program else s.store.times.recovery) }
            slots := t.store.slots, info := t.store.info }
        ∧ (∀ k b n, o.job = .saveSlot k b n →
            (o.done + 1 = o.total → tget t.store.slots k = { tget s.store.slots k with erased := false, marker := 0x5A#8 })
            ∧ (o.done + 2 = o.total → tget t.store.slots k = { tget s.store.slots k with
                erased := false, header := some { check := checkOf b, saveCount := n } })
            ∧ (o.done + 3 = o.total → tget t.store.slots k = { tget s.store.slots k with
                erased := false, body := some b }))
        ∧ (∀ k, o.job = .invalidateSlot k →
            tget t.store.slots k = { tget s.store.slots k with erased := false, marker := 0x00#8 })
        ∧ (∀ k, jobSlot o.job ≠ some k → tget t.store.slots k = tget s.store.slots k)
        ∧ (∀ a b, o.job = .writeInfo a b → t.store.info =
            if o.done + 1 = o.total then { s.store.info with erased := false, marker := 0x5A#8 }
            else { s.store.info with erased := false, content := some (a, b) }))
    ∧ (reached s.now o.ends = true → o.phase = .program → jobName o.job ≠ .invalidateSlot →
      ∃ t, exec (.storeBlockProgrammed false) s = .next t ∧ Kept [.store, .latches] s t ∧ t.store.op = none
        ∧ t.store.last = some { done := false, op := jobName o.job, slot := jobSlot o.job }
        ∧ (∀ k, jobSlot o.job ≠ some k → tget t.store.slots k = tget s.store.slots k)
        ∧ t.latch .storeFailed = (s.latch .storeFailed).occur s.nowNs none ∧ LatchesKept [.storeFailed] s t)
    ∧ (reached s.now o.ends = true → o.phase = .recovery →
      ∃ t, exec .storeRecoveryEnd s = .next t
        ∧ t.store = { s.store with
            op := none, last := some { done := true, op := jobName o.job, slot := jobSlot o.job }
            runAddr := match o.job with
              | .writeInfo a _ => a
              | _ => s.store.runAddr
            runLabel := match o.job with
              | .writeInfo _ b => b
              | _ => s.store.runLabel }
        ∧ t.latch .storeDone = (if jobName o.job = .invalidateSlot then s.latch .storeDone
            else (s.latch .storeDone).occur s.nowNs none)
        ∧ LatchesKept [.storeDone] s t ∧ Kept [.store, .latches] s t)

/-- R176, R179: power-on, a core supply low for the 50 µs of the monitor delay, and a pin low for 1 µs put the device
into the state that R20, R34, R59, R82, R88, R118, R138, R155, R167, R169 and R176 give; a shorter dip or pulse changes
nothing. A slot whose erase or program was under way reports INVALID unless every byte reads as ones, a page whose
program was under way reports INVALID, and the other bytes of the store are kept. (What a cut erase or program leaves
besides is the model's: log entry 13.) -/
def Obligations.ResetsLeaveThePowerOnState : Prop :=
  (∀ (s : State), ∃ t, exec .powerOnReset s = .next t ∧ AfterReset .powerOn s t)
  ∧ (∀ (n : Nat) (s : State),
      (n < 50000 → exec (.supplyLowReset n) s = .next s)
      ∧ (50000 ≤ n → ∃ t, exec (.supplyLowReset n) s = .next t ∧ AfterReset .supplyLow s t))
  ∧ (∀ (n : Nat) (s : State),
      (n < 1000 → exec (.pinReset n) s = .next s)
      ∧ (1000 ≤ n → ∃ t, exec (.pinReset n) s = .next t ∧ AfterReset .pin s t))

/-- R16, R165, R168, R172, R174 to R176: the release of the last reset latches the straps, reads the information page
and begins CHECKING with the first group that is not retired; a reset that is not the last leaves RESET as it is, and a
power-on reset is not released before the supply has been up for the 50 µs of the monitor delay. A
tested group is followed by the next one not retired; a bad one is retired, its cells leave the pool, and BUFFER_RETIRED
occurs with its number. After the last group more than 4 retired groups mean FAULT; otherwise LOADING begins with every
cell of the other groups free, and lasts for the blocks of the strapped slot. At the end of LOADING the device is
RUNNING with a first computation and a demand window, on the classes of the strapped slot when that is VALID within the
share-sum law, and otherwise as it stood, with STORE_INVALID. RUNNING and FAULT release the reset-out pin, and a notice
that start-up left pending falls due there. (A test or a read that is not due, resets held together, and the next group
from the nominal end are the model's readings: log entries 8, 26 and 27; so are the blocks of a slot, which give LOADING
its length, and the label of 32 spaces where the page holds none: log entries 13 and 6. The time of the supply above the
threshold is an operand: log entry 9.) -/
def Obligations.StartUpRunsInOrder : Prop :=
  (∀ (p : Straps) (n : Nat) (s : State), n < 50000 → exec (.resetRelease (.powerOn n) p) s = .next s)
  ∧ (∀ (k : Release) (p : Straps) (s : State), resetOf k ∈ s.startup.held → s.startup.state = .reset →
    (∀ n, k = .powerOn n → 50000 ≤ n) → (k = .restartFull → ∀ x, s.startup.restartEnds = some x → reached s.now x = true) →
    ((∃ h, h ∈ s.startup.held ∧ h ≠ resetOf k) → ∃ t, exec (.resetRelease k p) s = .next t ∧ Kept [.startup] s t
      ∧ t.startup = { s.startup with held := s.startup.held.filter (fun h => h != resetOf k), pins := p })
    ∧ ((∀ h, h ∈ s.startup.held → h = resetOf k) → ∀ g, g < 32 → g ∉ s.pool.retired → (∀ g', g' < g → g' ∈ s.pool.retired) →
      ∃ t, exec (.resetRelease k p) s = .next t ∧ Kept [.startup, .store] s t
        ∧ t.startup = { s.startup with
            state := .checking, held := [], straps := p, pins := p, restartEnds := none
            group := some (g, afterNs s.now 250000) }
        ∧ (match s.store.info.content with
           | some (addr, label) =>
             if s.store.info.marker = 0x5A#8 then t.store = { s.store with runAddr := addr, runLabel := label }
             else t.store = { s.store with runAddr := defaultAddress, runLabel := emptyLabel }
           | none => t.store = { s.store with runAddr := defaultAddress, runLabel := emptyLabel })))
  ∧ (∀ (bad : Bool) (s : State) (g : Nat) (x : Instant), s.startup.state = .checking → s.startup.group = some (g, x) →
    (reached s.now x = false → exec (.bufferGroupTested bad) s = .next s)
    ∧ (reached s.now x = true → ∃ t, exec (.bufferGroupTested bad) s = .next t
      ∧ (∀ y, y ∈ t.pool.retired ↔ y ∈ s.pool.retired ∨ (bad = true ∧ y = g))
      ∧ t.latch .bufferRetired
          = (if bad = true then (s.latch .bufferRetired).occur s.nowNs (some g) else s.latch .bufferRetired)
      ∧ LatchesKept [.bufferRetired] s t
      ∧ (∀ n, g < n → n < 32 → n ∉ s.pool.retired → (∀ m, g < m → m < n → m ∈ s.pool.retired) →
          t.startup = { s.startup with group := some (n, afterNs x 250000) }
          ∧ (∀ y, y ∈ t.pool.free ↔ y ∈ s.pool.free ∧ (bad = true → y / 256 ≠ g))
          ∧ t.mgmt.notice = flagged .bufferRetired bad s)
      ∧ ((∀ n, g < n → n < 32 → n ∈ s.pool.retired) →
          (∀ y, y < 8192 → y / 256 ∉ t.pool.retired → y ∈ t.pool.free)
          ∧ (if 4 < t.pool.retired.length then
              t.startup = { s.startup with state := .fault, resetOut := false, group := none }
              ∧ NoticeAtEntry (flagged .bufferRetired bad s) s t
             else
              (∃ e, t.startup = { s.startup with state := .loading, group := none, loadEnds := some e }
                ∧ ∀ b, (tget s.store.slots s.startup.straps.slotSel).body = some b →
                    e = afterNs s.now ((24 + (16 * b.flows.length + 255) / 256 + 2) * 50000))
              ∧ (∀ y, y ∈ t.pool.free → y < 8192 ∧ y / 256 ∉ t.pool.retired)
              ∧ t.mgmt.notice = flagged .bufferRetired bad s))
      ∧ TrafficKept { s with pool := t.pool } t
      ∧ LocalsAre (t.startup.state = .fault) (fun _ => []) s t
      ∧ Kept [.startup, .retired, .traffic, .latches, .notice, .locals] s t))
  ∧ (∀ (s : State) (x : Instant), s.startup.state = .loading → s.startup.loadEnds = some x →
    (reached s.now x = false → exec .startupSlotLoaded s = .next s)
    ∧ (reached s.now x = true → ∃ t, exec .startupSlotLoaded s = .next t
      ∧ t.startup = { s.startup with state := .running, resetOut := false, loadEnds := none } ∧ Computed t
      ∧ LocalsAre (newlyLatched s t ∨ s.mgmt.notice.pending = true) (fun _ => []) s t
      ∧ t.share.window = some { lengthMs := t.cfg.params.windowMs, ends := afterMs s.now t.cfg.params.windowMs }
      ∧ ((∀ b, slotReport s.store s.startup.straps.slotSel = .valid →
            (tget s.store.slots s.startup.straps.slotSel).body = some b →
            shareLaw b.classes.tenants b.classes.sets = true →
            t.cfg = b.classes
            ∧ t.flows.map withoutLastLink = b.flows.map (fun y => (y.1, newEntry y.2 .management))
            ∧ (∀ l, t.share.reflectPresent.get l = decide (0 < reflectCount l t.flows))
            ∧ (∀ l, (t.bucket (.pacing l)).rate = t.el l)
            ∧ (t.share.table.u = s.share.table.u → (∀ c : Cond, c.ofDeparture = true → t.latch c = s.latch c) →
                NoticeAtEntry s.mgmt.notice s t)
            ∧ LatchesKept [.capacityChanged] s t
            ∧ Kept (computed ++ [.config, .flows, .reflect, .startup, .notice, .locals]) s t)
        ∧ ((∀ b, slotReport s.store s.startup.straps.slotSel = .valid →
              (tget s.store.slots s.startup.straps.slotSel).body = some b →
              shareLaw b.classes.tenants b.classes.sets = false) →
            t.latch .storeInvalid = (s.latch .storeInvalid).occur s.nowNs none
            ∧ (t.share.table.u = s.share.table.u → (∀ c : Cond, c.ofDeparture = true → t.latch c = s.latch c) →
                NoticeAtEntry (flagged .storeInvalid true s) s t)
            ∧ LatchesKept [.capacityChanged, .storeInvalid] s t
            ∧ Kept (computed ++ [.startup, .notice, .locals]) s t))))

/-! ## The queue of commands, the arithmetic of the buckets and of the correction field -/

/-- A step takes the command at the front of the queue and is that command on the state with the queue's rest. (The
queue and the idle step are the model's own: log entries 1 and 2.) -/
def Obligations.StepRunsTheFrontCommand : Prop :=
  ∀ (c : Instr) (rest : List Instr) (s : State),
    step { s with pending := c :: rest } = exec c { s with pending := rest }

/-- R84: bringing a bucket up to date in two parts gives what bringing it up to date at once gives: no part of a bit is
lost, and the cap at the depth does not depend on the parts. -/
def Obligations.BucketUpdatesCompose : Prop :=
  ∀ (b : Bucket) (t1 t2 : Ns), (t1 - b.last).toNat + (t2 - t1).toNat < 2 ^ 64 →
    (b.refresh t1).refresh t2 = b.refresh t2

/-- R29, R85, R92, R93, R98, R121 to R127: a rewritten timing frame has its length and its correct FCS, its correction
field holds the exact sum of the old value, the residence and the hop delay in units of 2^-16 ns, or 2^63 - 1 where the
sum is above it, and no other byte before the FCS has changed. The head of the timing queue that a pass takes starts so
rewritten with its link's air delay, is charged to the timing and the pacing bucket, and its slot takes the link as its
last link, with TIMING_PATH_CHANGED when the last link was the other one. A timing frame on an access port or SP starts
so rewritten with the air delay it came with. A sum above the greatest value raises CORRECTION_SATURATED; a frame whose
field would not lie before the FCS goes unmodified and is counted as a correction-offset error. -/
def Obligations.RewrittenCorrectionIsTheExactSum : Prop :=
  (∀ (bytes : List Byte) (off res hop : Nat), off + 12 ≤ bytes.length →
      let old := bytesToInt64 (slice off 8 bytes)
      let out := rewritten bytes off res hop
      out.length = bytes.length ∧ fcsOk out = true
        ∧ bytesToInt64 (slice off 8 out) = min (old + ((res + hop * 65536 : Nat) : Int)) (2 ^ 63 - 1)
        ∧ out.take off = bytes.take off
        ∧ slice (off + 8) (bytes.length - 12 - off) out = slice (off + 8) (bytes.length - 12 - off) bytes)
  ∧ (∀ (l : Link) (s : State) (d : Descriptor) (rest : List Descriptor),
    ReadyNow l s → s.localQ (.bh l) = [] → s.queues.timing = d :: rest → timingGoes l s d = true →
    let t := serveBackhaul l s
    let entry := d.slot.bind fun n => (slotEntry n s.flows).filter FlowEntry.hasLastLink
    t.queues.timing = rest ∧ CorrectedOn (.bh l) d (s.airDelay l) s t
    ∧ t.bucket .timing = chargedNow .timing d.length s ∧ t.bucket (.pacing l) = chargedNow (.pacing l) d.length s
    ∧ t.flows = (match d.slot, entry with
        | some n, some _ => s.flows.map fun y => if y.1 = n then (y.1, { y.2 with lastLink := some l }) else y
        | _, _ => s.flows)
    ∧ t.latch .timingPathChanged = (match entry with
        | some e => if e.lastLink = some l.other then (s.latch .timingPathChanged).occur s.nowNs none
                    else s.latch .timingPathChanged
        | none => s.latch .timingPathChanged)
    ∧ (∀ c, c ≠ .timingPathChanged → c ≠ .correctionSaturated → t.latch c = s.latch c))
  ∧ (∀ (p : Port) (s : State) (d : Descriptor) (rest : List Descriptor),
    (s.port p).linkUp = true → (s.port p).tx = none → s.localQ p = [] → s.queues.down.get p = d :: rest →
    d.cls = .timing →
    let t := serveAccess p s
    t.queues.down.get p = rest ∧ CorrectedOn p d (d.airDelay.getD 0) s t
    ∧ (∀ c, c ≠ .correctionSaturated → t.latch c = s.latch c))

/-! ## What every step keeps -/

/-- R21, R30, R50, R51, R65, R129, R132, R141: every step keeps the Flow Table's keys distinct and its slots in order,
the schedule's times distinct and ascending, and the guarantees of the active tenants within 1,000 per mille in every
share set, in the running classes and in every slot body that may replace them. Every step keeps one TEST_RETURN entry
for each run under way, in the slot and with the key of its context, and no other TEST entry. While site time is valid,
no step leaves a schedule entry at or before it whose firing does not wait in the queue. The nanoseconds of site time
stay below 1,000,000,000 (R102). (The backward step of an edge that takes second 0 to 2^48 - 1 (R109) is left out by a
premise; the waiting of the firing is the model's: log entry 2.) -/
def Obligations.ClassLawsAreKept : Prop :=
  (∀ (s t : State), ClassLaws s → step s = .next t → ClassLaws t)
  ∧ (∀ (s t : State), ClassLaws s → TestLaw s → step s = .next t → TestLaw t)
  ∧ (∀ (s t : State), ClassLaws s → s.time.site.nanos < 1000000000 → ScheduleAhead s → step s = .next t →
      (∀ n rest, s.pending = .ppsEdge n :: rest → s.time.site.seconds = 0 → t.time.site.seconds < 2 ^ 48 - 1) →
      ScheduleAhead t)
  ∧ (∀ (s t : State), s.time.site.nanos < 1000000000 → step s = .next t → t.time.site.nanos < 1000000000)

/-- R40, R71 to R79: every step keeps the sum of the allocations plus the unassigned remainder equal to the U of the
same table, and that U within G; it keeps G, X and U what the rows of the table make them and no allocation below its
guarantee; and a link is counted in the table exactly while it is IN_SERVICE, with its E_L. The guarantee that a
computation gives a tenant is its share of U within its cap, and 0 for an inactive one, which is the
model's choice (log entry 41). -/
def Obligations.AllocationLawIsKept : Prop :=
  (∀ (s t : State), shareSumLaw s → allocationLaw s.share.table → step s = .next t → allocationLaw t.share.table)
  ∧ (∀ (s t : State), tableLaw s.share.table → step s = .next t → tableLaw t.share.table)
  ∧ (∀ (s t : State), LinksCounted s → step s = .next t → LinksCounted t)
  ∧ (∀ (s : State) (i : Tenant),
      let x := tget (tget s.cfg.sets s.cfg.activeSet) i
      let g := (computeTable s).u * x.guarantee / 1000
      (tget (computeTable s).tenants i).guarantee
        = if (s.tenantCfg i).active = true then (if x.cap = 0 then g else min g x.cap) else 0)

/-- R103, R110: every step keeps the frequency adjustment within ±200,000 ppb; the validity flag of site time becomes
true only by SET_TIME (which a received request frame also is), and false only by a reset that asserts reset-out. -/
def Obligations.TimeUnitLawsAreKept : Prop :=
  ∀ (s t : State), step s = .next t →
    (servoLaw s → servoLaw t)
    ∧ (s.time.valid = false → t.time.valid = true →
        (∃ h sel body rest, s.pending = .setTime h sel body :: rest)
        ∨ (∃ p bytes rest, s.pending = .frameReceived p bytes :: rest ∧ isRequest bytes = true))
    ∧ (s.time.valid = true → t.time.valid = false → t.startup.state = .reset ∧ t.time.elapsed = 0)

/-- R12, R15, R16, R17: every step keeps the retired-group list in ascending order without repeats, and a group leaves
the list only by a power-on reset. Every step keeps each cell of the other groups either free or held by one frame, and
none held outside RUNNING, and no local store above its 16 places (a local frame under transmission holds one: log entry
34). In every step each queue of frames is first in, first out, and takes at most one frame. -/
def Obligations.RetiredGroupsStayRetired : Prop :=
  (∀ (s t : State), step s = .next t →
    (retiredLaw s.pool → retiredLaw t.pool)
    ∧ ((∀ rest, s.pending ≠ .powerOnReset :: rest) → ∀ g, g ∈ s.pool.retired → g ∈ t.pool.retired))
  ∧ (∀ (s t : State), TestLaw s → PoolLaw s → step s = .next t → PoolLaw t)
  ∧ (∀ (s t : State), LocalLaw s → step s = .next t → LocalLaw t)
  ∧ (∀ (s t : State), step s = .next t →
      (∀ i, Fifo (s.tenantQ i) (t.tenantQ i)) ∧ Fifo s.queues.timing t.queues.timing
        ∧ (∀ l, Fifo (s.queues.test.get l) (t.queues.test.get l))
        ∧ ∀ p, Fifo (s.queues.down.get p) (t.queues.down.get p))

/-- The state right after reset meets every law that the steps keep. -/
def Obligations.ResetMeetsTheLaws : Prop :=
  ClassLaws State.reset ∧ allocationLaw State.reset.share.table ∧ servoLaw State.reset ∧ retiredLaw State.reset.pool
    ∧ tableLaw State.reset.share.table ∧ LinksCounted State.reset ∧ TestLaw State.reset ∧ ScheduleAhead State.reset
    ∧ PoolLaw State.reset ∧ LocalLaw State.reset ∧ TestQueues State.reset ∧ StoreLaw State.reset.store
    ∧ State.reset.time.site.nanos < 1000000000
end

