-- ==== Sys2Proof/Laws/Clock.lean ====
section
/-!
SUPPORT. What the order in which the clock takes the events of one moment can be: mergeReached says it once.
-/

namespace Sys2Proof.Machine

/-- Picking events reads free values and changes nothing else. -/
theorem mergeReached_state (fuel : Nat) (reached due : List Instr) (s : State) :
    (mergeReached fuel reached due s).2 = { s with freeCount := (mergeReached fuel reached due s).2.freeCount } := by
  induction fuel generalizing reached due s with
  | zero => rfl
  | succ fuel ih =>
    cases reached with
    | nil => rfl
    | cons r rs =>
      simp only [mergeReached]
      split <;> exact (ih ..).trans rfl

/-- What is picked was reached or due. -/
theorem mem_of_mem_mergeReached {c : Instr} (fuel : Nat) (reached due : List Instr) (s : State)
    (h : c ∈ (mergeReached fuel reached due s).1) : c ∈ reached ∨ c ∈ due := by
  induction fuel generalizing reached due s with
  | zero => exact .inl h
  | succ fuel ih =>
    cases reached with
    | nil => cases h
    | cons r rs =>
      simp only [mergeReached] at h
      rcases List.mem_cons.1 h with h | h
      · rw [h, List.getD_eq_getElem?_getD]
        cases e : ((r :: rs) ++ due)[Config.dueChoice (takeFree s).1 % (rs.length + 1 + due.length)]? with
        | none => simp
        | some x => simpa [or_assoc] using List.mem_of_getElem? e
      · split at h
        · exact (ih _ _ _ h).imp (fun m => List.mem_of_mem_eraseIdx m) id
        · exact (ih _ _ _ h).imp id (fun m => List.mem_of_mem_eraseIdx m)

/-- All that was reached is picked. -/
theorem mem_mergeReached {c : Instr} (fuel : Nat) (reached due : List Instr) (s : State)
    (hf : reached.length + due.length ≤ fuel) (h : c ∈ reached) : c ∈ (mergeReached fuel reached due s).1 := by
  induction fuel generalizing reached due s with
  | zero => exact h
  | succ fuel ih =>
    cases reached with
    | nil => cases h
    | cons r rs =>
      simp only [mergeReached]
      have hk : Config.dueChoice (takeFree s).1 % (rs.length + 1 + due.length) < rs.length + 1 + due.length :=
        Nat.mod_lt _ (by omega)
      generalize Config.dueChoice (takeFree s).1 % (rs.length + 1 + due.length) = k at hk
      simp only [List.length_cons] at hf
      rw [List.mem_cons]
      split
      · rename_i hlt
        by_cases hc : c ∈ (r :: rs).eraseIdx k
        · right
          refine ih _ _ _ ?_ hc
          have := List.length_eraseIdx_of_lt (l := r :: rs) (i := k) (by simpa using hlt)
          simp only [List.length_cons] at this
          omega
        · left
          obtain ⟨i, hi, rfl⟩ := List.mem_iff_getElem.1 h
          have e : i = k := by
            by_contra hne
            exact hc (List.mem_eraseIdx_iff_getElem.2 ⟨i, hi, hne, rfl⟩)
          subst e
          rw [List.getD_eq_getElem?_getD, List.getElem?_append_left hi, List.getElem?_eq_getElem hi]
          rfl
      · right
        refine ih _ _ _ ?_ h
        have := List.length_eraseIdx_of_lt (l := due) (i := k - (rs.length + 1)) (by omega)
        simp only [List.length_cons]
        omega

end Sys2Proof.Machine
end

