-- ==== Sys2Proof/Laws/State.lean ====
section
/-!
SUPPORT. The small lemmas of the containers and of the state's named updates: what an update leaves of each field, true
by rfl, so that no later proof unfolds a record update.
-/

namespace Sys2Proof

/-! ## One value for each link, and fixed tables -/

@[simp] theorem PerLink.get_set_same {α : Type} (v : PerLink α) (l : Link) (x : α) : (v.set l x).get l = x := by
  cases l <;> rfl

theorem PerLink.get_set {α : Type} (v : PerLink α) (l k : Link) (x : α) :
    (v.set l x).get k = if k = l then x else v.get k := by
  cases l <;> cases k <;> rfl

@[simp] theorem PerLink.get_both {α : Type} (l : Link) (x : α) : (PerLink.both x).get l = x := by cases l <;> rfl

@[simp] theorem tget_tset_same {α : Type} {n : Nat} (v : Vector α n) (i : Fin n) (x : α) : tget (tset v i x) i = x := by
  simp [tget, tset]

theorem tget_tset {α : Type} {n : Nat} (v : Vector α n) (i j : Fin n) (x : α) :
    tget (tset v i x) j = if j = i then x else tget v j := by
  unfold tget tset
  by_cases h : j = i
  · subst h; simp
  · rw [if_neg h, Vector.getElem_set_ne]
    exact fun e => h (Fin.ext e.symm)

@[simp] theorem tget_ofFn {α : Type} {n : Nat} (f : Fin n → α) (i : Fin n) : tget (Vector.ofFn f) i = f i := by
  simp [tget]

@[simp] theorem tget_map {α β : Type} {n : Nat} (f : α → β) (v : Vector α n) (i : Fin n) :
    tget (v.map f) i = f (tget v i) := by
  simp [tget]

@[simp] theorem tget_replicate {α : Type} {n : Nat} (x : α) (i : Fin n) : tget (Vector.replicate n x) i = x := by
  simp [tget]

@[simp] theorem PerPort.get_set_same {α : Type} (v : PerPort α) (p : Port) (x : α) : (v.set p x).get p = x := by
  cases p <;> simp [PerPort.set, PerPort.get]

theorem PerPort.get_set {α : Type} (v : PerPort α) (p q : Port) (x : α) :
    (v.set p x).get q = if q = p then x else v.get q := by
  cases p <;> cases q <;> simp [PerPort.set, PerPort.get, tget_tset, PerLink.get_set]

@[simp] theorem PerPort.get_all {α : Type} (p : Port) (x : α) : (PerPort.all x).get p = x := by
  cases p <;> simp [PerPort.all, PerPort.get]

end Sys2Proof

namespace Sys2Proof.Machine

/-! ## Reading back what an update wrote -/

@[simp] theorem State.port_setPort (s : State) (p : Port) (u : PortUnit) : (s.setPort p u).port p = u := by
  simp [State.port, State.setPort]

theorem State.port_setPort_ne (s : State) (p q : Port) (u : PortUnit) (h : q ≠ p) : (s.setPort p u).port q = s.port q := by
  simp [State.port, State.setPort, PerPort.get_set, h]

@[simp] theorem State.link_setLink (s : State) (l : Link) (u : LinkUnit) : (s.setLink l u).link l = u := by
  simp [State.link, State.setLink]

@[simp] theorem State.link_updLink (s : State) (l : Link) (f : LinkUnit → LinkUnit) :
    (updLink l f s).link l = f (s.link l) := by
  simp [updLink]

@[simp] theorem State.tenant_setTenant (s : State) (t : Tenant) (u : TenantUnit) : (s.setTenant t u).tenant t = u := by
  simp [State.tenant, State.setTenant]

theorem State.tenant_setTenant_ne (s : State) (t k : Tenant) (u : TenantUnit) (h : k ≠ t) :
    (s.setTenant t u).tenant k = s.tenant k := by
  simp [State.tenant, State.setTenant, tget_tset, h]

@[simp] theorem State.ctx_setCtx (s : State) (l : Link) (c : Context) : (s.setCtx l c).ctx l = c := by
  simp [State.ctx, State.setCtx]

@[simp] theorem State.localQ_setLocalQ (s : State) (p : Port) (q : List LocalFrame) : (s.setLocalQ p q).localQ p = q := by
  simp [State.localQ, State.setLocalQ]

/-- The places taken follow from the local queue and the transmitter. -/
theorem placesTaken_congr {s t : State} {p : Port} (hq : t.localQ p = s.localQ p) (hx : (t.port p).tx = (s.port p).tx) :
    t.placesTaken p = s.placesTaken p := by
  simp [State.placesTaken, State.sendingPlace, hq, hx]

/-- A frame that joins the local queue takes a place, and one that is flushed gives its place back. -/
theorem State.placesTaken_setLocalQ (s : State) (p : Port) (q : List LocalFrame) :
    (s.setLocalQ p q).placesTaken p = q.length + s.sendingPlace p := by
  show ((s.setLocalQ p q).localQ p).length + s.sendingPlace p = _
  rw [State.localQ_setLocalQ]

/-- A port that sends no local frame holds no place with its transmitter. -/
theorem State.sendingPlace_idle {s : State} {p : Port} (h : (s.port p).tx = none) : s.sendingPlace p = 0 := by
  simp [State.sendingPlace, h]

@[simp] theorem State.tenantQ_setTenantQ (s : State) (t : Tenant) (q : List Descriptor) :
    (s.setTenantQ t q).tenantQ t = q := by
  simp [State.tenantQ, State.setTenantQ]

@[simp] theorem State.bucket_setBucket (s : State) (i : BucketId) (b : Bucket) : (s.setBucket i b).bucket i = b := by
  cases i <;> simp [State.bucket, State.setBucket]

/-! ## What an update leaves of each other field -/

@[simp] theorem State.setPort_cfg (s : State) (p : Port) (u : PortUnit) : (s.setPort p u).cfg = s.cfg := rfl
@[simp] theorem State.setPort_flows (s : State) (p : Port) (u : PortUnit) : (s.setPort p u).flows = s.flows := rfl
@[simp] theorem State.setPort_queues (s : State) (p : Port) (u : PortUnit) : (s.setPort p u).queues = s.queues := rfl
@[simp] theorem State.setPort_pool (s : State) (p : Port) (u : PortUnit) : (s.setPort p u).pool = s.pool := rfl
@[simp] theorem State.setPort_tenants (s : State) (p : Port) (u : PortUnit) : (s.setPort p u).tenants = s.tenants := rfl
@[simp] theorem State.setPort_share (s : State) (p : Port) (u : PortUnit) : (s.setPort p u).share = s.share := rfl
@[simp] theorem State.setPort_sched (s : State) (p : Port) (u : PortUnit) : (s.setPort p u).sched = s.sched := rfl
@[simp] theorem State.setPort_links (s : State) (p : Port) (u : PortUnit) : (s.setPort p u).links = s.links := rfl
@[simp] theorem State.setPort_time (s : State) (p : Port) (u : PortUnit) : (s.setPort p u).time = s.time := rfl
@[simp] theorem State.setPort_firing (s : State) (p : Port) (u : PortUnit) : (s.setPort p u).firing = s.firing := rfl
@[simp] theorem State.setPort_qual (s : State) (p : Port) (u : PortUnit) : (s.setPort p u).qual = s.qual := rfl
@[simp] theorem State.setPort_mgmt (s : State) (p : Port) (u : PortUnit) : (s.setPort p u).mgmt = s.mgmt := rfl
@[simp] theorem State.setPort_store (s : State) (p : Port) (u : PortUnit) : (s.setPort p u).store = s.store := rfl
@[simp] theorem State.setPort_startup (s : State) (p : Port) (u : PortUnit) : (s.setPort p u).startup = s.startup := rfl
@[simp] theorem State.setPort_ev (s : State) (p : Port) (u : PortUnit) : (s.setPort p u).ev = s.ev := rfl
@[simp] theorem State.setPort_freeCount (s : State) (p : Port) (u : PortUnit) : (s.setPort p u).freeCount = s.freeCount := rfl
@[simp] theorem State.setPort_pending (s : State) (p : Port) (u : PortUnit) : (s.setPort p u).pending = s.pending := rfl

@[simp] theorem State.setLink_cfg (s : State) (l : Link) (u : LinkUnit) : (s.setLink l u).cfg = s.cfg := rfl
@[simp] theorem State.setLink_flows (s : State) (l : Link) (u : LinkUnit) : (s.setLink l u).flows = s.flows := rfl
@[simp] theorem State.setLink_ports (s : State) (l : Link) (u : LinkUnit) : (s.setLink l u).ports = s.ports := rfl
@[simp] theorem State.setLink_queues (s : State) (l : Link) (u : LinkUnit) : (s.setLink l u).queues = s.queues := rfl
@[simp] theorem State.setLink_pool (s : State) (l : Link) (u : LinkUnit) : (s.setLink l u).pool = s.pool := rfl
@[simp] theorem State.setLink_tenants (s : State) (l : Link) (u : LinkUnit) : (s.setLink l u).tenants = s.tenants := rfl
@[simp] theorem State.setLink_share (s : State) (l : Link) (u : LinkUnit) : (s.setLink l u).share = s.share := rfl
@[simp] theorem State.setLink_sched (s : State) (l : Link) (u : LinkUnit) : (s.setLink l u).sched = s.sched := rfl
@[simp] theorem State.setLink_time (s : State) (l : Link) (u : LinkUnit) : (s.setLink l u).time = s.time := rfl
@[simp] theorem State.setLink_firing (s : State) (l : Link) (u : LinkUnit) : (s.setLink l u).firing = s.firing := rfl
@[simp] theorem State.setLink_qual (s : State) (l : Link) (u : LinkUnit) : (s.setLink l u).qual = s.qual := rfl
@[simp] theorem State.setLink_mgmt (s : State) (l : Link) (u : LinkUnit) : (s.setLink l u).mgmt = s.mgmt := rfl
@[simp] theorem State.setLink_store (s : State) (l : Link) (u : LinkUnit) : (s.setLink l u).store = s.store := rfl
@[simp] theorem State.setLink_startup (s : State) (l : Link) (u : LinkUnit) : (s.setLink l u).startup = s.startup := rfl
@[simp] theorem State.setLink_ev (s : State) (l : Link) (u : LinkUnit) : (s.setLink l u).ev = s.ev := rfl
@[simp] theorem State.setLink_freeCount (s : State) (l : Link) (u : LinkUnit) : (s.setLink l u).freeCount = s.freeCount := rfl
@[simp] theorem State.setLink_pending (s : State) (l : Link) (u : LinkUnit) : (s.setLink l u).pending = s.pending := rfl

@[simp] theorem State.setTenant_cfg (s : State) (t : Tenant) (u : TenantUnit) : (s.setTenant t u).cfg = s.cfg := rfl
@[simp] theorem State.setTenant_flows (s : State) (t : Tenant) (u : TenantUnit) : (s.setTenant t u).flows = s.flows := rfl
@[simp] theorem State.setTenant_ports (s : State) (t : Tenant) (u : TenantUnit) : (s.setTenant t u).ports = s.ports := rfl
@[simp] theorem State.setTenant_queues (s : State) (t : Tenant) (u : TenantUnit) : (s.setTenant t u).queues = s.queues := rfl
@[simp] theorem State.setTenant_pool (s : State) (t : Tenant) (u : TenantUnit) : (s.setTenant t u).pool = s.pool := rfl
@[simp] theorem State.setTenant_share (s : State) (t : Tenant) (u : TenantUnit) : (s.setTenant t u).share = s.share := rfl
@[simp] theorem State.setTenant_sched (s : State) (t : Tenant) (u : TenantUnit) : (s.setTenant t u).sched = s.sched := rfl
@[simp] theorem State.setTenant_links (s : State) (t : Tenant) (u : TenantUnit) : (s.setTenant t u).links = s.links := rfl
@[simp] theorem State.setTenant_time (s : State) (t : Tenant) (u : TenantUnit) : (s.setTenant t u).time = s.time := rfl
@[simp] theorem State.setTenant_firing (s : State) (t : Tenant) (u : TenantUnit) : (s.setTenant t u).firing = s.firing := rfl
@[simp] theorem State.setTenant_qual (s : State) (t : Tenant) (u : TenantUnit) : (s.setTenant t u).qual = s.qual := rfl
@[simp] theorem State.setTenant_mgmt (s : State) (t : Tenant) (u : TenantUnit) : (s.setTenant t u).mgmt = s.mgmt := rfl
@[simp] theorem State.setTenant_store (s : State) (t : Tenant) (u : TenantUnit) : (s.setTenant t u).store = s.store := rfl
@[simp] theorem State.setTenant_startup (s : State) (t : Tenant) (u : TenantUnit) : (s.setTenant t u).startup = s.startup := rfl
@[simp] theorem State.setTenant_ev (s : State) (t : Tenant) (u : TenantUnit) : (s.setTenant t u).ev = s.ev := rfl
@[simp] theorem State.setTenant_freeCount (s : State) (t : Tenant) (u : TenantUnit) : (s.setTenant t u).freeCount = s.freeCount := rfl
@[simp] theorem State.setTenant_pending (s : State) (t : Tenant) (u : TenantUnit) : (s.setTenant t u).pending = s.pending := rfl

@[simp] theorem State.setCtx_cfg (s : State) (l : Link) (c : Context) : (s.setCtx l c).cfg = s.cfg := rfl
@[simp] theorem State.setCtx_flows (s : State) (l : Link) (c : Context) : (s.setCtx l c).flows = s.flows := rfl
@[simp] theorem State.setCtx_ports (s : State) (l : Link) (c : Context) : (s.setCtx l c).ports = s.ports := rfl
@[simp] theorem State.setCtx_queues (s : State) (l : Link) (c : Context) : (s.setCtx l c).queues = s.queues := rfl
@[simp] theorem State.setCtx_pool (s : State) (l : Link) (c : Context) : (s.setCtx l c).pool = s.pool := rfl
@[simp] theorem State.setCtx_tenants (s : State) (l : Link) (c : Context) : (s.setCtx l c).tenants = s.tenants := rfl
@[simp] theorem State.setCtx_share (s : State) (l : Link) (c : Context) : (s.setCtx l c).share = s.share := rfl
@[simp] theorem State.setCtx_sched (s : State) (l : Link) (c : Context) : (s.setCtx l c).sched = s.sched := rfl
@[simp] theorem State.setCtx_links (s : State) (l : Link) (c : Context) : (s.setCtx l c).links = s.links := rfl
@[simp] theorem State.setCtx_time (s : State) (l : Link) (c : Context) : (s.setCtx l c).time = s.time := rfl
@[simp] theorem State.setCtx_firing (s : State) (l : Link) (c : Context) : (s.setCtx l c).firing = s.firing := rfl
@[simp] theorem State.setCtx_mgmt (s : State) (l : Link) (c : Context) : (s.setCtx l c).mgmt = s.mgmt := rfl
@[simp] theorem State.setCtx_store (s : State) (l : Link) (c : Context) : (s.setCtx l c).store = s.store := rfl
@[simp] theorem State.setCtx_startup (s : State) (l : Link) (c : Context) : (s.setCtx l c).startup = s.startup := rfl
@[simp] theorem State.setCtx_ev (s : State) (l : Link) (c : Context) : (s.setCtx l c).ev = s.ev := rfl
@[simp] theorem State.setCtx_freeCount (s : State) (l : Link) (c : Context) : (s.setCtx l c).freeCount = s.freeCount := rfl
@[simp] theorem State.setCtx_pending (s : State) (l : Link) (c : Context) : (s.setCtx l c).pending = s.pending := rfl

@[simp] theorem State.setLocalQ_cfg (s : State) (p : Port) (q : List LocalFrame) : (s.setLocalQ p q).cfg = s.cfg := rfl
@[simp] theorem State.setLocalQ_flows (s : State) (p : Port) (q : List LocalFrame) : (s.setLocalQ p q).flows = s.flows := rfl
@[simp] theorem State.setLocalQ_ports (s : State) (p : Port) (q : List LocalFrame) : (s.setLocalQ p q).ports = s.ports := rfl
@[simp] theorem State.setLocalQ_pool (s : State) (p : Port) (q : List LocalFrame) : (s.setLocalQ p q).pool = s.pool := rfl
@[simp] theorem State.setLocalQ_tenants (s : State) (p : Port) (q : List LocalFrame) : (s.setLocalQ p q).tenants = s.tenants := rfl
@[simp] theorem State.setLocalQ_share (s : State) (p : Port) (q : List LocalFrame) : (s.setLocalQ p q).share = s.share := rfl
@[simp] theorem State.setLocalQ_sched (s : State) (p : Port) (q : List LocalFrame) : (s.setLocalQ p q).sched = s.sched := rfl
@[simp] theorem State.setLocalQ_links (s : State) (p : Port) (q : List LocalFrame) : (s.setLocalQ p q).links = s.links := rfl
@[simp] theorem State.setLocalQ_time (s : State) (p : Port) (q : List LocalFrame) : (s.setLocalQ p q).time = s.time := rfl
@[simp] theorem State.setLocalQ_firing (s : State) (p : Port) (q : List LocalFrame) : (s.setLocalQ p q).firing = s.firing := rfl
@[simp] theorem State.setLocalQ_qual (s : State) (p : Port) (q : List LocalFrame) : (s.setLocalQ p q).qual = s.qual := rfl
@[simp] theorem State.setLocalQ_mgmt (s : State) (p : Port) (q : List LocalFrame) : (s.setLocalQ p q).mgmt = s.mgmt := rfl
@[simp] theorem State.setLocalQ_store (s : State) (p : Port) (q : List LocalFrame) : (s.setLocalQ p q).store = s.store := rfl
@[simp] theorem State.setLocalQ_startup (s : State) (p : Port) (q : List LocalFrame) : (s.setLocalQ p q).startup = s.startup := rfl
@[simp] theorem State.setLocalQ_ev (s : State) (p : Port) (q : List LocalFrame) : (s.setLocalQ p q).ev = s.ev := rfl
@[simp] theorem State.setLocalQ_freeCount (s : State) (p : Port) (q : List LocalFrame) : (s.setLocalQ p q).freeCount = s.freeCount := rfl
@[simp] theorem State.setLocalQ_pending (s : State) (p : Port) (q : List LocalFrame) : (s.setLocalQ p q).pending = s.pending := rfl

@[simp] theorem State.setTenantQ_cfg (s : State) (t : Tenant) (q : List Descriptor) : (s.setTenantQ t q).cfg = s.cfg := rfl
@[simp] theorem State.setTenantQ_flows (s : State) (t : Tenant) (q : List Descriptor) : (s.setTenantQ t q).flows = s.flows := rfl
@[simp] theorem State.setTenantQ_ports (s : State) (t : Tenant) (q : List Descriptor) : (s.setTenantQ t q).ports = s.ports := rfl
@[simp] theorem State.setTenantQ_pool (s : State) (t : Tenant) (q : List Descriptor) : (s.setTenantQ t q).pool = s.pool := rfl
@[simp] theorem State.setTenantQ_tenants (s : State) (t : Tenant) (q : List Descriptor) : (s.setTenantQ t q).tenants = s.tenants := rfl
@[simp] theorem State.setTenantQ_share (s : State) (t : Tenant) (q : List Descriptor) : (s.setTenantQ t q).share = s.share := rfl
@[simp] theorem State.setTenantQ_sched (s : State) (t : Tenant) (q : List Descriptor) : (s.setTenantQ t q).sched = s.sched := rfl
@[simp] theorem State.setTenantQ_links (s : State) (t : Tenant) (q : List Descriptor) : (s.setTenantQ t q).links = s.links := rfl
@[simp] theorem State.setTenantQ_time (s : State) (t : Tenant) (q : List Descriptor) : (s.setTenantQ t q).time = s.time := rfl
@[simp] theorem State.setTenantQ_firing (s : State) (t : Tenant) (q : List Descriptor) : (s.setTenantQ t q).firing = s.firing := rfl
@[simp] theorem State.setTenantQ_qual (s : State) (t : Tenant) (q : List Descriptor) : (s.setTenantQ t q).qual = s.qual := rfl
@[simp] theorem State.setTenantQ_mgmt (s : State) (t : Tenant) (q : List Descriptor) : (s.setTenantQ t q).mgmt = s.mgmt := rfl
@[simp] theorem State.setTenantQ_store (s : State) (t : Tenant) (q : List Descriptor) : (s.setTenantQ t q).store = s.store := rfl
@[simp] theorem State.setTenantQ_startup (s : State) (t : Tenant) (q : List Descriptor) : (s.setTenantQ t q).startup = s.startup := rfl
@[simp] theorem State.setTenantQ_ev (s : State) (t : Tenant) (q : List Descriptor) : (s.setTenantQ t q).ev = s.ev := rfl
@[simp] theorem State.setTenantQ_freeCount (s : State) (t : Tenant) (q : List Descriptor) : (s.setTenantQ t q).freeCount = s.freeCount := rfl
@[simp] theorem State.setTenantQ_pending (s : State) (t : Tenant) (q : List Descriptor) : (s.setTenantQ t q).pending = s.pending := rfl

@[simp] theorem State.setDown_cfg (s : State) (p : Port) (q : List Descriptor) : (s.setDown p q).cfg = s.cfg := rfl
@[simp] theorem State.setDown_flows (s : State) (p : Port) (q : List Descriptor) : (s.setDown p q).flows = s.flows := rfl
@[simp] theorem State.setDown_ports (s : State) (p : Port) (q : List Descriptor) : (s.setDown p q).ports = s.ports := rfl
@[simp] theorem State.setDown_pool (s : State) (p : Port) (q : List Descriptor) : (s.setDown p q).pool = s.pool := rfl
@[simp] theorem State.setDown_tenants (s : State) (p : Port) (q : List Descriptor) : (s.setDown p q).tenants = s.tenants := rfl
@[simp] theorem State.setDown_share (s : State) (p : Port) (q : List Descriptor) : (s.setDown p q).share = s.share := rfl
@[simp] theorem State.setDown_sched (s : State) (p : Port) (q : List Descriptor) : (s.setDown p q).sched = s.sched := rfl
@[simp] theorem State.setDown_links (s : State) (p : Port) (q : List Descriptor) : (s.setDown p q).links = s.links := rfl
@[simp] theorem State.setDown_time (s : State) (p : Port) (q : List Descriptor) : (s.setDown p q).time = s.time := rfl
@[simp] theorem State.setDown_firing (s : State) (p : Port) (q : List Descriptor) : (s.setDown p q).firing = s.firing := rfl
@[simp] theorem State.setDown_qual (s : State) (p : Port) (q : List Descriptor) : (s.setDown p q).qual = s.qual := rfl
@[simp] theorem State.setDown_mgmt (s : State) (p : Port) (q : List Descriptor) : (s.setDown p q).mgmt = s.mgmt := rfl
@[simp] theorem State.setDown_store (s : State) (p : Port) (q : List Descriptor) : (s.setDown p q).store = s.store := rfl
@[simp] theorem State.setDown_startup (s : State) (p : Port) (q : List Descriptor) : (s.setDown p q).startup = s.startup := rfl
@[simp] theorem State.setDown_ev (s : State) (p : Port) (q : List Descriptor) : (s.setDown p q).ev = s.ev := rfl
@[simp] theorem State.setDown_freeCount (s : State) (p : Port) (q : List Descriptor) : (s.setDown p q).freeCount = s.freeCount := rfl
@[simp] theorem State.setDown_pending (s : State) (p : Port) (q : List Descriptor) : (s.setDown p q).pending = s.pending := rfl

@[simp] theorem State.setBucket_cfg (s : State) (i : BucketId) (b : Bucket) : (s.setBucket i b).cfg = s.cfg := rfl
@[simp] theorem State.setBucket_flows (s : State) (i : BucketId) (b : Bucket) : (s.setBucket i b).flows = s.flows := rfl
@[simp] theorem State.setBucket_ports (s : State) (i : BucketId) (b : Bucket) : (s.setBucket i b).ports = s.ports := rfl
@[simp] theorem State.setBucket_queues (s : State) (i : BucketId) (b : Bucket) : (s.setBucket i b).queues = s.queues := rfl
@[simp] theorem State.setBucket_pool (s : State) (i : BucketId) (b : Bucket) : (s.setBucket i b).pool = s.pool := rfl
@[simp] theorem State.setBucket_tenants (s : State) (i : BucketId) (b : Bucket) : (s.setBucket i b).tenants = s.tenants := rfl
@[simp] theorem State.setBucket_share (s : State) (i : BucketId) (b : Bucket) : (s.setBucket i b).share = s.share := rfl
@[simp] theorem State.setBucket_links (s : State) (i : BucketId) (b : Bucket) : (s.setBucket i b).links = s.links := rfl
@[simp] theorem State.setBucket_time (s : State) (i : BucketId) (b : Bucket) : (s.setBucket i b).time = s.time := rfl
@[simp] theorem State.setBucket_firing (s : State) (i : BucketId) (b : Bucket) : (s.setBucket i b).firing = s.firing := rfl
@[simp] theorem State.setBucket_qual (s : State) (i : BucketId) (b : Bucket) : (s.setBucket i b).qual = s.qual := rfl
@[simp] theorem State.setBucket_mgmt (s : State) (i : BucketId) (b : Bucket) : (s.setBucket i b).mgmt = s.mgmt := rfl
@[simp] theorem State.setBucket_store (s : State) (i : BucketId) (b : Bucket) : (s.setBucket i b).store = s.store := rfl
@[simp] theorem State.setBucket_startup (s : State) (i : BucketId) (b : Bucket) : (s.setBucket i b).startup = s.startup := rfl
@[simp] theorem State.setBucket_ev (s : State) (i : BucketId) (b : Bucket) : (s.setBucket i b).ev = s.ev := rfl
@[simp] theorem State.setBucket_freeCount (s : State) (i : BucketId) (b : Bucket) : (s.setBucket i b).freeCount = s.freeCount := rfl
@[simp] theorem State.setBucket_pending (s : State) (i : BucketId) (b : Bucket) : (s.setBucket i b).pending = s.pending := rfl

@[simp] theorem State.setNotice_cfg (s : State) (n : NoticeState) : (s.setNotice n).cfg = s.cfg := rfl
@[simp] theorem State.setNotice_flows (s : State) (n : NoticeState) : (s.setNotice n).flows = s.flows := rfl
@[simp] theorem State.setNotice_ports (s : State) (n : NoticeState) : (s.setNotice n).ports = s.ports := rfl
@[simp] theorem State.setNotice_queues (s : State) (n : NoticeState) : (s.setNotice n).queues = s.queues := rfl
@[simp] theorem State.setNotice_pool (s : State) (n : NoticeState) : (s.setNotice n).pool = s.pool := rfl
@[simp] theorem State.setNotice_tenants (s : State) (n : NoticeState) : (s.setNotice n).tenants = s.tenants := rfl
@[simp] theorem State.setNotice_share (s : State) (n : NoticeState) : (s.setNotice n).share = s.share := rfl
@[simp] theorem State.setNotice_sched (s : State) (n : NoticeState) : (s.setNotice n).sched = s.sched := rfl
@[simp] theorem State.setNotice_links (s : State) (n : NoticeState) : (s.setNotice n).links = s.links := rfl
@[simp] theorem State.setNotice_time (s : State) (n : NoticeState) : (s.setNotice n).time = s.time := rfl
@[simp] theorem State.setNotice_firing (s : State) (n : NoticeState) : (s.setNotice n).firing = s.firing := rfl
@[simp] theorem State.setNotice_qual (s : State) (n : NoticeState) : (s.setNotice n).qual = s.qual := rfl
@[simp] theorem State.setNotice_store (s : State) (n : NoticeState) : (s.setNotice n).store = s.store := rfl
@[simp] theorem State.setNotice_startup (s : State) (n : NoticeState) : (s.setNotice n).startup = s.startup := rfl
@[simp] theorem State.setNotice_ev (s : State) (n : NoticeState) : (s.setNotice n).ev = s.ev := rfl
@[simp] theorem State.setNotice_freeCount (s : State) (n : NoticeState) : (s.setNotice n).freeCount = s.freeCount := rfl
@[simp] theorem State.setNotice_pending (s : State) (n : NoticeState) : (s.setNotice n).pending = s.pending := rfl

@[simp] theorem State.setSchedule_flows (s : State) (t : List ScheduleEntry) : (s.setSchedule t).flows = s.flows := rfl
@[simp] theorem State.setSchedule_ports (s : State) (t : List ScheduleEntry) : (s.setSchedule t).ports = s.ports := rfl
@[simp] theorem State.setSchedule_queues (s : State) (t : List ScheduleEntry) : (s.setSchedule t).queues = s.queues := rfl
@[simp] theorem State.setSchedule_pool (s : State) (t : List ScheduleEntry) : (s.setSchedule t).pool = s.pool := rfl
@[simp] theorem State.setSchedule_tenants (s : State) (t : List ScheduleEntry) : (s.setSchedule t).tenants = s.tenants := rfl
@[simp] theorem State.setSchedule_share (s : State) (t : List ScheduleEntry) : (s.setSchedule t).share = s.share := rfl
@[simp] theorem State.setSchedule_sched (s : State) (t : List ScheduleEntry) : (s.setSchedule t).sched = s.sched := rfl
@[simp] theorem State.setSchedule_links (s : State) (t : List ScheduleEntry) : (s.setSchedule t).links = s.links := rfl
@[simp] theorem State.setSchedule_time (s : State) (t : List ScheduleEntry) : (s.setSchedule t).time = s.time := rfl
@[simp] theorem State.setSchedule_firing (s : State) (t : List ScheduleEntry) : (s.setSchedule t).firing = s.firing := rfl
@[simp] theorem State.setSchedule_qual (s : State) (t : List ScheduleEntry) : (s.setSchedule t).qual = s.qual := rfl
@[simp] theorem State.setSchedule_mgmt (s : State) (t : List ScheduleEntry) : (s.setSchedule t).mgmt = s.mgmt := rfl
@[simp] theorem State.setSchedule_store (s : State) (t : List ScheduleEntry) : (s.setSchedule t).store = s.store := rfl
@[simp] theorem State.setSchedule_startup (s : State) (t : List ScheduleEntry) : (s.setSchedule t).startup = s.startup := rfl
@[simp] theorem State.setSchedule_ev (s : State) (t : List ScheduleEntry) : (s.setSchedule t).ev = s.ev := rfl
@[simp] theorem State.setSchedule_freeCount (s : State) (t : List ScheduleEntry) : (s.setSchedule t).freeCount = s.freeCount := rfl
@[simp] theorem State.setSchedule_pending (s : State) (t : List ScheduleEntry) : (s.setSchedule t).pending = s.pending := rfl

@[simp] theorem State.setPulse_cfg (s : State) (k : Fin 4) (u : PulseUnit) : (s.setPulse k u).cfg = s.cfg := rfl
@[simp] theorem State.setPulse_flows (s : State) (k : Fin 4) (u : PulseUnit) : (s.setPulse k u).flows = s.flows := rfl
@[simp] theorem State.setPulse_ports (s : State) (k : Fin 4) (u : PulseUnit) : (s.setPulse k u).ports = s.ports := rfl
@[simp] theorem State.setPulse_queues (s : State) (k : Fin 4) (u : PulseUnit) : (s.setPulse k u).queues = s.queues := rfl
@[simp] theorem State.setPulse_pool (s : State) (k : Fin 4) (u : PulseUnit) : (s.setPulse k u).pool = s.pool := rfl
@[simp] theorem State.setPulse_tenants (s : State) (k : Fin 4) (u : PulseUnit) : (s.setPulse k u).tenants = s.tenants := rfl
@[simp] theorem State.setPulse_share (s : State) (k : Fin 4) (u : PulseUnit) : (s.setPulse k u).share = s.share := rfl
@[simp] theorem State.setPulse_sched (s : State) (k : Fin 4) (u : PulseUnit) : (s.setPulse k u).sched = s.sched := rfl
@[simp] theorem State.setPulse_links (s : State) (k : Fin 4) (u : PulseUnit) : (s.setPulse k u).links = s.links := rfl
@[simp] theorem State.setPulse_firing (s : State) (k : Fin 4) (u : PulseUnit) : (s.setPulse k u).firing = s.firing := rfl
@[simp] theorem State.setPulse_qual (s : State) (k : Fin 4) (u : PulseUnit) : (s.setPulse k u).qual = s.qual := rfl
@[simp] theorem State.setPulse_mgmt (s : State) (k : Fin 4) (u : PulseUnit) : (s.setPulse k u).mgmt = s.mgmt := rfl
@[simp] theorem State.setPulse_store (s : State) (k : Fin 4) (u : PulseUnit) : (s.setPulse k u).store = s.store := rfl
@[simp] theorem State.setPulse_startup (s : State) (k : Fin 4) (u : PulseUnit) : (s.setPulse k u).startup = s.startup := rfl
@[simp] theorem State.setPulse_ev (s : State) (k : Fin 4) (u : PulseUnit) : (s.setPulse k u).ev = s.ev := rfl
@[simp] theorem State.setPulse_freeCount (s : State) (k : Fin 4) (u : PulseUnit) : (s.setPulse k u).freeCount = s.freeCount := rfl
@[simp] theorem State.setPulse_pending (s : State) (k : Fin 4) (u : PulseUnit) : (s.setPulse k u).pending = s.pending := rfl

@[simp] theorem updCfg_flows (s : State) (f : Classes → Classes) : (updCfg f s).flows = s.flows := rfl
@[simp] theorem updCfg_ports (s : State) (f : Classes → Classes) : (updCfg f s).ports = s.ports := rfl
@[simp] theorem updCfg_queues (s : State) (f : Classes → Classes) : (updCfg f s).queues = s.queues := rfl
@[simp] theorem updCfg_pool (s : State) (f : Classes → Classes) : (updCfg f s).pool = s.pool := rfl
@[simp] theorem updCfg_tenants (s : State) (f : Classes → Classes) : (updCfg f s).tenants = s.tenants := rfl
@[simp] theorem updCfg_share (s : State) (f : Classes → Classes) : (updCfg f s).share = s.share := rfl
@[simp] theorem updCfg_sched (s : State) (f : Classes → Classes) : (updCfg f s).sched = s.sched := rfl
@[simp] theorem updCfg_links (s : State) (f : Classes → Classes) : (updCfg f s).links = s.links := rfl
@[simp] theorem updCfg_time (s : State) (f : Classes → Classes) : (updCfg f s).time = s.time := rfl
@[simp] theorem updCfg_firing (s : State) (f : Classes → Classes) : (updCfg f s).firing = s.firing := rfl
@[simp] theorem updCfg_qual (s : State) (f : Classes → Classes) : (updCfg f s).qual = s.qual := rfl
@[simp] theorem updCfg_mgmt (s : State) (f : Classes → Classes) : (updCfg f s).mgmt = s.mgmt := rfl
@[simp] theorem updCfg_store (s : State) (f : Classes → Classes) : (updCfg f s).store = s.store := rfl
@[simp] theorem updCfg_startup (s : State) (f : Classes → Classes) : (updCfg f s).startup = s.startup := rfl
@[simp] theorem updCfg_ev (s : State) (f : Classes → Classes) : (updCfg f s).ev = s.ev := rfl
@[simp] theorem updCfg_freeCount (s : State) (f : Classes → Classes) : (updCfg f s).freeCount = s.freeCount := rfl
@[simp] theorem updCfg_pending (s : State) (f : Classes → Classes) : (updCfg f s).pending = s.pending := rfl

@[simp] theorem updStore_cfg (s : State) (f : Store → Store) : (updStore f s).cfg = s.cfg := rfl
@[simp] theorem updStore_flows (s : State) (f : Store → Store) : (updStore f s).flows = s.flows := rfl
@[simp] theorem updStore_ports (s : State) (f : Store → Store) : (updStore f s).ports = s.ports := rfl
@[simp] theorem updStore_queues (s : State) (f : Store → Store) : (updStore f s).queues = s.queues := rfl
@[simp] theorem updStore_pool (s : State) (f : Store → Store) : (updStore f s).pool = s.pool := rfl
@[simp] theorem updStore_tenants (s : State) (f : Store → Store) : (updStore f s).tenants = s.tenants := rfl
@[simp] theorem updStore_share (s : State) (f : Store → Store) : (updStore f s).share = s.share := rfl
@[simp] theorem updStore_sched (s : State) (f : Store → Store) : (updStore f s).sched = s.sched := rfl
@[simp] theorem updStore_links (s : State) (f : Store → Store) : (updStore f s).links = s.links := rfl
@[simp] theorem updStore_time (s : State) (f : Store → Store) : (updStore f s).time = s.time := rfl
@[simp] theorem updStore_firing (s : State) (f : Store → Store) : (updStore f s).firing = s.firing := rfl
@[simp] theorem updStore_qual (s : State) (f : Store → Store) : (updStore f s).qual = s.qual := rfl
@[simp] theorem updStore_mgmt (s : State) (f : Store → Store) : (updStore f s).mgmt = s.mgmt := rfl
@[simp] theorem updStore_startup (s : State) (f : Store → Store) : (updStore f s).startup = s.startup := rfl
@[simp] theorem updStore_ev (s : State) (f : Store → Store) : (updStore f s).ev = s.ev := rfl
@[simp] theorem updStore_freeCount (s : State) (f : Store → Store) : (updStore f s).freeCount = s.freeCount := rfl
@[simp] theorem updStore_pending (s : State) (f : Store → Store) : (updStore f s).pending = s.pending := rfl

@[simp] theorem updStartup_cfg (s : State) (f : Startup → Startup) : (updStartup f s).cfg = s.cfg := rfl
@[simp] theorem updStartup_flows (s : State) (f : Startup → Startup) : (updStartup f s).flows = s.flows := rfl
@[simp] theorem updStartup_ports (s : State) (f : Startup → Startup) : (updStartup f s).ports = s.ports := rfl
@[simp] theorem updStartup_queues (s : State) (f : Startup → Startup) : (updStartup f s).queues = s.queues := rfl
@[simp] theorem updStartup_pool (s : State) (f : Startup → Startup) : (updStartup f s).pool = s.pool := rfl
@[simp] theorem updStartup_tenants (s : State) (f : Startup → Startup) : (updStartup f s).tenants = s.tenants := rfl
@[simp] theorem updStartup_share (s : State) (f : Startup → Startup) : (updStartup f s).share = s.share := rfl
@[simp] theorem updStartup_sched (s : State) (f : Startup → Startup) : (updStartup f s).sched = s.sched := rfl
@[simp] theorem updStartup_links (s : State) (f : Startup → Startup) : (updStartup f s).links = s.links := rfl
@[simp] theorem updStartup_time (s : State) (f : Startup → Startup) : (updStartup f s).time = s.time := rfl
@[simp] theorem updStartup_firing (s : State) (f : Startup → Startup) : (updStartup f s).firing = s.firing := rfl
@[simp] theorem updStartup_qual (s : State) (f : Startup → Startup) : (updStartup f s).qual = s.qual := rfl
@[simp] theorem updStartup_mgmt (s : State) (f : Startup → Startup) : (updStartup f s).mgmt = s.mgmt := rfl
@[simp] theorem updStartup_store (s : State) (f : Startup → Startup) : (updStartup f s).store = s.store := rfl
@[simp] theorem updStartup_ev (s : State) (f : Startup → Startup) : (updStartup f s).ev = s.ev := rfl
@[simp] theorem updStartup_freeCount (s : State) (f : Startup → Startup) : (updStartup f s).freeCount = s.freeCount := rfl
@[simp] theorem updStartup_pending (s : State) (f : Startup → Startup) : (updStartup f s).pending = s.pending := rfl

@[simp] theorem updServo_cfg (s : State) (f : Servo → Servo) : (updServo f s).cfg = s.cfg := rfl
@[simp] theorem updServo_flows (s : State) (f : Servo → Servo) : (updServo f s).flows = s.flows := rfl
@[simp] theorem updServo_ports (s : State) (f : Servo → Servo) : (updServo f s).ports = s.ports := rfl
@[simp] theorem updServo_queues (s : State) (f : Servo → Servo) : (updServo f s).queues = s.queues := rfl
@[simp] theorem updServo_pool (s : State) (f : Servo → Servo) : (updServo f s).pool = s.pool := rfl
@[simp] theorem updServo_tenants (s : State) (f : Servo → Servo) : (updServo f s).tenants = s.tenants := rfl
@[simp] theorem updServo_share (s : State) (f : Servo → Servo) : (updServo f s).share = s.share := rfl
@[simp] theorem updServo_sched (s : State) (f : Servo → Servo) : (updServo f s).sched = s.sched := rfl
@[simp] theorem updServo_links (s : State) (f : Servo → Servo) : (updServo f s).links = s.links := rfl
@[simp] theorem updServo_firing (s : State) (f : Servo → Servo) : (updServo f s).firing = s.firing := rfl
@[simp] theorem updServo_qual (s : State) (f : Servo → Servo) : (updServo f s).qual = s.qual := rfl
@[simp] theorem updServo_mgmt (s : State) (f : Servo → Servo) : (updServo f s).mgmt = s.mgmt := rfl
@[simp] theorem updServo_store (s : State) (f : Servo → Servo) : (updServo f s).store = s.store := rfl
@[simp] theorem updServo_startup (s : State) (f : Servo → Servo) : (updServo f s).startup = s.startup := rfl
@[simp] theorem updServo_ev (s : State) (f : Servo → Servo) : (updServo f s).ev = s.ev := rfl
@[simp] theorem updServo_freeCount (s : State) (f : Servo → Servo) : (updServo f s).freeCount = s.freeCount := rfl
@[simp] theorem updServo_pending (s : State) (f : Servo → Servo) : (updServo f s).pending = s.pending := rfl

@[simp] theorem updSite_cfg (s : State) (f : SiteTime → SiteTime) : (updSite f s).cfg = s.cfg := rfl
@[simp] theorem updSite_flows (s : State) (f : SiteTime → SiteTime) : (updSite f s).flows = s.flows := rfl
@[simp] theorem updSite_ports (s : State) (f : SiteTime → SiteTime) : (updSite f s).ports = s.ports := rfl
@[simp] theorem updSite_queues (s : State) (f : SiteTime → SiteTime) : (updSite f s).queues = s.queues := rfl
@[simp] theorem updSite_pool (s : State) (f : SiteTime → SiteTime) : (updSite f s).pool = s.pool := rfl
@[simp] theorem updSite_tenants (s : State) (f : SiteTime → SiteTime) : (updSite f s).tenants = s.tenants := rfl
@[simp] theorem updSite_share (s : State) (f : SiteTime → SiteTime) : (updSite f s).share = s.share := rfl
@[simp] theorem updSite_sched (s : State) (f : SiteTime → SiteTime) : (updSite f s).sched = s.sched := rfl
@[simp] theorem updSite_links (s : State) (f : SiteTime → SiteTime) : (updSite f s).links = s.links := rfl
@[simp] theorem updSite_firing (s : State) (f : SiteTime → SiteTime) : (updSite f s).firing = s.firing := rfl
@[simp] theorem updSite_qual (s : State) (f : SiteTime → SiteTime) : (updSite f s).qual = s.qual := rfl
@[simp] theorem updSite_mgmt (s : State) (f : SiteTime → SiteTime) : (updSite f s).mgmt = s.mgmt := rfl
@[simp] theorem updSite_store (s : State) (f : SiteTime → SiteTime) : (updSite f s).store = s.store := rfl
@[simp] theorem updSite_startup (s : State) (f : SiteTime → SiteTime) : (updSite f s).startup = s.startup := rfl
@[simp] theorem updSite_ev (s : State) (f : SiteTime → SiteTime) : (updSite f s).ev = s.ev := rfl
@[simp] theorem updSite_freeCount (s : State) (f : SiteTime → SiteTime) : (updSite f s).freeCount = s.freeCount := rfl
@[simp] theorem updSite_pending (s : State) (f : SiteTime → SiteTime) : (updSite f s).pending = s.pending := rfl

@[simp] theorem updLink_cfg (s : State) (l : Link) (f : LinkUnit → LinkUnit) : (updLink l f s).cfg = s.cfg := rfl
@[simp] theorem updLink_flows (s : State) (l : Link) (f : LinkUnit → LinkUnit) : (updLink l f s).flows = s.flows := rfl
@[simp] theorem updLink_ports (s : State) (l : Link) (f : LinkUnit → LinkUnit) : (updLink l f s).ports = s.ports := rfl
@[simp] theorem updLink_queues (s : State) (l : Link) (f : LinkUnit → LinkUnit) : (updLink l f s).queues = s.queues := rfl
@[simp] theorem updLink_pool (s : State) (l : Link) (f : LinkUnit → LinkUnit) : (updLink l f s).pool = s.pool := rfl
@[simp] theorem updLink_tenants (s : State) (l : Link) (f : LinkUnit → LinkUnit) : (updLink l f s).tenants = s.tenants := rfl
@[simp] theorem updLink_share (s : State) (l : Link) (f : LinkUnit → LinkUnit) : (updLink l f s).share = s.share := rfl
@[simp] theorem updLink_sched (s : State) (l : Link) (f : LinkUnit → LinkUnit) : (updLink l f s).sched = s.sched := rfl
@[simp] theorem updLink_time (s : State) (l : Link) (f : LinkUnit → LinkUnit) : (updLink l f s).time = s.time := rfl
@[simp] theorem updLink_firing (s : State) (l : Link) (f : LinkUnit → LinkUnit) : (updLink l f s).firing = s.firing := rfl
@[simp] theorem updLink_qual (s : State) (l : Link) (f : LinkUnit → LinkUnit) : (updLink l f s).qual = s.qual := rfl
@[simp] theorem updLink_mgmt (s : State) (l : Link) (f : LinkUnit → LinkUnit) : (updLink l f s).mgmt = s.mgmt := rfl
@[simp] theorem updLink_store (s : State) (l : Link) (f : LinkUnit → LinkUnit) : (updLink l f s).store = s.store := rfl
@[simp] theorem updLink_startup (s : State) (l : Link) (f : LinkUnit → LinkUnit) : (updLink l f s).startup = s.startup := rfl
@[simp] theorem updLink_ev (s : State) (l : Link) (f : LinkUnit → LinkUnit) : (updLink l f s).ev = s.ev := rfl
@[simp] theorem updLink_freeCount (s : State) (l : Link) (f : LinkUnit → LinkUnit) : (updLink l f s).freeCount = s.freeCount := rfl
@[simp] theorem updLink_pending (s : State) (l : Link) (f : LinkUnit → LinkUnit) : (updLink l f s).pending = s.pending := rfl

@[simp] theorem count_cfg (s : State) (p : Port) (c : PortCounter) (n : Nat) : (count p c n s).cfg = s.cfg := rfl
@[simp] theorem count_flows (s : State) (p : Port) (c : PortCounter) (n : Nat) : (count p c n s).flows = s.flows := rfl
@[simp] theorem count_queues (s : State) (p : Port) (c : PortCounter) (n : Nat) : (count p c n s).queues = s.queues := rfl
@[simp] theorem count_pool (s : State) (p : Port) (c : PortCounter) (n : Nat) : (count p c n s).pool = s.pool := rfl
@[simp] theorem count_tenants (s : State) (p : Port) (c : PortCounter) (n : Nat) : (count p c n s).tenants = s.tenants := rfl
@[simp] theorem count_share (s : State) (p : Port) (c : PortCounter) (n : Nat) : (count p c n s).share = s.share := rfl
@[simp] theorem count_sched (s : State) (p : Port) (c : PortCounter) (n : Nat) : (count p c n s).sched = s.sched := rfl
@[simp] theorem count_links (s : State) (p : Port) (c : PortCounter) (n : Nat) : (count p c n s).links = s.links := rfl
@[simp] theorem count_time (s : State) (p : Port) (c : PortCounter) (n : Nat) : (count p c n s).time = s.time := rfl
@[simp] theorem count_firing (s : State) (p : Port) (c : PortCounter) (n : Nat) : (count p c n s).firing = s.firing := rfl
@[simp] theorem count_qual (s : State) (p : Port) (c : PortCounter) (n : Nat) : (count p c n s).qual = s.qual := rfl
@[simp] theorem count_mgmt (s : State) (p : Port) (c : PortCounter) (n : Nat) : (count p c n s).mgmt = s.mgmt := rfl
@[simp] theorem count_store (s : State) (p : Port) (c : PortCounter) (n : Nat) : (count p c n s).store = s.store := rfl
@[simp] theorem count_startup (s : State) (p : Port) (c : PortCounter) (n : Nat) : (count p c n s).startup = s.startup := rfl
@[simp] theorem count_ev (s : State) (p : Port) (c : PortCounter) (n : Nat) : (count p c n s).ev = s.ev := rfl
@[simp] theorem count_freeCount (s : State) (p : Port) (c : PortCounter) (n : Nat) : (count p c n s).freeCount = s.freeCount := rfl
@[simp] theorem count_pending (s : State) (p : Port) (c : PortCounter) (n : Nat) : (count p c n s).pending = s.pending := rfl

@[simp] theorem kick_cfg (s : State) (p : Port) : (kick p s).cfg = s.cfg := rfl
@[simp] theorem kick_flows (s : State) (p : Port) : (kick p s).flows = s.flows := rfl
@[simp] theorem kick_ports (s : State) (p : Port) : (kick p s).ports = s.ports := rfl
@[simp] theorem kick_queues (s : State) (p : Port) : (kick p s).queues = s.queues := rfl
@[simp] theorem kick_pool (s : State) (p : Port) : (kick p s).pool = s.pool := rfl
@[simp] theorem kick_tenants (s : State) (p : Port) : (kick p s).tenants = s.tenants := rfl
@[simp] theorem kick_share (s : State) (p : Port) : (kick p s).share = s.share := rfl
@[simp] theorem kick_sched (s : State) (p : Port) : (kick p s).sched = s.sched := rfl
@[simp] theorem kick_links (s : State) (p : Port) : (kick p s).links = s.links := rfl
@[simp] theorem kick_time (s : State) (p : Port) : (kick p s).time = s.time := rfl
@[simp] theorem kick_firing (s : State) (p : Port) : (kick p s).firing = s.firing := rfl
@[simp] theorem kick_qual (s : State) (p : Port) : (kick p s).qual = s.qual := rfl
@[simp] theorem kick_mgmt (s : State) (p : Port) : (kick p s).mgmt = s.mgmt := rfl
@[simp] theorem kick_store (s : State) (p : Port) : (kick p s).store = s.store := rfl
@[simp] theorem kick_startup (s : State) (p : Port) : (kick p s).startup = s.startup := rfl
@[simp] theorem kick_freeCount (s : State) (p : Port) : (kick p s).freeCount = s.freeCount := rfl
@[simp] theorem kick_pending (s : State) (p : Port) : (kick p s).pending = s.pending := rfl

@[simp] theorem takeCells_cfg (s : State) (n : Nat) : (takeCells n s).cfg = s.cfg := rfl
@[simp] theorem takeCells_flows (s : State) (n : Nat) : (takeCells n s).flows = s.flows := rfl
@[simp] theorem takeCells_ports (s : State) (n : Nat) : (takeCells n s).ports = s.ports := rfl
@[simp] theorem takeCells_queues (s : State) (n : Nat) : (takeCells n s).queues = s.queues := rfl
@[simp] theorem takeCells_tenants (s : State) (n : Nat) : (takeCells n s).tenants = s.tenants := rfl
@[simp] theorem takeCells_share (s : State) (n : Nat) : (takeCells n s).share = s.share := rfl
@[simp] theorem takeCells_sched (s : State) (n : Nat) : (takeCells n s).sched = s.sched := rfl
@[simp] theorem takeCells_links (s : State) (n : Nat) : (takeCells n s).links = s.links := rfl
@[simp] theorem takeCells_time (s : State) (n : Nat) : (takeCells n s).time = s.time := rfl
@[simp] theorem takeCells_firing (s : State) (n : Nat) : (takeCells n s).firing = s.firing := rfl
@[simp] theorem takeCells_qual (s : State) (n : Nat) : (takeCells n s).qual = s.qual := rfl
@[simp] theorem takeCells_mgmt (s : State) (n : Nat) : (takeCells n s).mgmt = s.mgmt := rfl
@[simp] theorem takeCells_store (s : State) (n : Nat) : (takeCells n s).store = s.store := rfl
@[simp] theorem takeCells_startup (s : State) (n : Nat) : (takeCells n s).startup = s.startup := rfl
@[simp] theorem takeCells_ev (s : State) (n : Nat) : (takeCells n s).ev = s.ev := rfl
@[simp] theorem takeCells_freeCount (s : State) (n : Nat) : (takeCells n s).freeCount = s.freeCount := rfl
@[simp] theorem takeCells_pending (s : State) (n : Nat) : (takeCells n s).pending = s.pending := rfl

@[simp] theorem freeCells_cfg (s : State) (d : Descriptor) : (freeCells d s).cfg = s.cfg := rfl
@[simp] theorem freeCells_flows (s : State) (d : Descriptor) : (freeCells d s).flows = s.flows := rfl
@[simp] theorem freeCells_ports (s : State) (d : Descriptor) : (freeCells d s).ports = s.ports := rfl
@[simp] theorem freeCells_queues (s : State) (d : Descriptor) : (freeCells d s).queues = s.queues := rfl
@[simp] theorem freeCells_tenants (s : State) (d : Descriptor) : (freeCells d s).tenants = s.tenants := rfl
@[simp] theorem freeCells_share (s : State) (d : Descriptor) : (freeCells d s).share = s.share := rfl
@[simp] theorem freeCells_sched (s : State) (d : Descriptor) : (freeCells d s).sched = s.sched := rfl
@[simp] theorem freeCells_links (s : State) (d : Descriptor) : (freeCells d s).links = s.links := rfl
@[simp] theorem freeCells_time (s : State) (d : Descriptor) : (freeCells d s).time = s.time := rfl
@[simp] theorem freeCells_firing (s : State) (d : Descriptor) : (freeCells d s).firing = s.firing := rfl
@[simp] theorem freeCells_qual (s : State) (d : Descriptor) : (freeCells d s).qual = s.qual := rfl
@[simp] theorem freeCells_mgmt (s : State) (d : Descriptor) : (freeCells d s).mgmt = s.mgmt := rfl
@[simp] theorem freeCells_store (s : State) (d : Descriptor) : (freeCells d s).store = s.store := rfl
@[simp] theorem freeCells_startup (s : State) (d : Descriptor) : (freeCells d s).startup = s.startup := rfl
@[simp] theorem freeCells_ev (s : State) (d : Descriptor) : (freeCells d s).ev = s.ev := rfl
@[simp] theorem freeCells_freeCount (s : State) (d : Descriptor) : (freeCells d s).freeCount = s.freeCount := rfl
@[simp] theorem freeCells_pending (s : State) (d : Descriptor) : (freeCells d s).pending = s.pending := rfl

@[simp] theorem freeAll_cfg (s : State) (ds : List Descriptor) : (freeAll ds s).cfg = s.cfg := rfl
@[simp] theorem freeAll_flows (s : State) (ds : List Descriptor) : (freeAll ds s).flows = s.flows := rfl
@[simp] theorem freeAll_ports (s : State) (ds : List Descriptor) : (freeAll ds s).ports = s.ports := rfl
@[simp] theorem freeAll_queues (s : State) (ds : List Descriptor) : (freeAll ds s).queues = s.queues := rfl
@[simp] theorem freeAll_tenants (s : State) (ds : List Descriptor) : (freeAll ds s).tenants = s.tenants := rfl
@[simp] theorem freeAll_share (s : State) (ds : List Descriptor) : (freeAll ds s).share = s.share := rfl
@[simp] theorem freeAll_sched (s : State) (ds : List Descriptor) : (freeAll ds s).sched = s.sched := rfl
@[simp] theorem freeAll_links (s : State) (ds : List Descriptor) : (freeAll ds s).links = s.links := rfl
@[simp] theorem freeAll_time (s : State) (ds : List Descriptor) : (freeAll ds s).time = s.time := rfl
@[simp] theorem freeAll_firing (s : State) (ds : List Descriptor) : (freeAll ds s).firing = s.firing := rfl
@[simp] theorem freeAll_qual (s : State) (ds : List Descriptor) : (freeAll ds s).qual = s.qual := rfl
@[simp] theorem freeAll_mgmt (s : State) (ds : List Descriptor) : (freeAll ds s).mgmt = s.mgmt := rfl
@[simp] theorem freeAll_store (s : State) (ds : List Descriptor) : (freeAll ds s).store = s.store := rfl
@[simp] theorem freeAll_startup (s : State) (ds : List Descriptor) : (freeAll ds s).startup = s.startup := rfl
@[simp] theorem freeAll_ev (s : State) (ds : List Descriptor) : (freeAll ds s).ev = s.ev := rfl
@[simp] theorem freeAll_freeCount (s : State) (ds : List Descriptor) : (freeAll ds s).freeCount = s.freeCount := rfl
@[simp] theorem freeAll_pending (s : State) (ds : List Descriptor) : (freeAll ds s).pending = s.pending := rfl

@[simp] theorem beginTx_cfg (s : State) (p : Port) (i : TxItem) (b : List Byte) : (beginTx p i b s).cfg = s.cfg := rfl
@[simp] theorem beginTx_flows (s : State) (p : Port) (i : TxItem) (b : List Byte) : (beginTx p i b s).flows = s.flows := rfl
@[simp] theorem beginTx_queues (s : State) (p : Port) (i : TxItem) (b : List Byte) : (beginTx p i b s).queues = s.queues := rfl
@[simp] theorem beginTx_pool (s : State) (p : Port) (i : TxItem) (b : List Byte) : (beginTx p i b s).pool = s.pool := rfl
@[simp] theorem beginTx_tenants (s : State) (p : Port) (i : TxItem) (b : List Byte) : (beginTx p i b s).tenants = s.tenants := rfl
@[simp] theorem beginTx_share (s : State) (p : Port) (i : TxItem) (b : List Byte) : (beginTx p i b s).share = s.share := rfl
@[simp] theorem beginTx_sched (s : State) (p : Port) (i : TxItem) (b : List Byte) : (beginTx p i b s).sched = s.sched := rfl
@[simp] theorem beginTx_links (s : State) (p : Port) (i : TxItem) (b : List Byte) : (beginTx p i b s).links = s.links := rfl
@[simp] theorem beginTx_time (s : State) (p : Port) (i : TxItem) (b : List Byte) : (beginTx p i b s).time = s.time := rfl
@[simp] theorem beginTx_firing (s : State) (p : Port) (i : TxItem) (b : List Byte) : (beginTx p i b s).firing = s.firing := rfl
@[simp] theorem beginTx_qual (s : State) (p : Port) (i : TxItem) (b : List Byte) : (beginTx p i b s).qual = s.qual := rfl
@[simp] theorem beginTx_mgmt (s : State) (p : Port) (i : TxItem) (b : List Byte) : (beginTx p i b s).mgmt = s.mgmt := rfl
@[simp] theorem beginTx_store (s : State) (p : Port) (i : TxItem) (b : List Byte) : (beginTx p i b s).store = s.store := rfl
@[simp] theorem beginTx_startup (s : State) (p : Port) (i : TxItem) (b : List Byte) : (beginTx p i b s).startup = s.startup := rfl
@[simp] theorem beginTx_ev (s : State) (p : Port) (i : TxItem) (b : List Byte) : (beginTx p i b s).ev = s.ev := rfl
@[simp] theorem beginTx_freeCount (s : State) (p : Port) (i : TxItem) (b : List Byte) : (beginTx p i b s).freeCount = s.freeCount := rfl
@[simp] theorem beginTx_pending (s : State) (p : Port) (i : TxItem) (b : List Byte) : (beginTx p i b s).pending = s.pending := rfl

@[simp] theorem clearTx_cfg (s : State) (p : Port) : (clearTx p s).cfg = s.cfg := rfl
@[simp] theorem clearTx_flows (s : State) (p : Port) : (clearTx p s).flows = s.flows := rfl
@[simp] theorem clearTx_queues (s : State) (p : Port) : (clearTx p s).queues = s.queues := rfl
@[simp] theorem clearTx_pool (s : State) (p : Port) : (clearTx p s).pool = s.pool := rfl
@[simp] theorem clearTx_tenants (s : State) (p : Port) : (clearTx p s).tenants = s.tenants := rfl
@[simp] theorem clearTx_share (s : State) (p : Port) : (clearTx p s).share = s.share := rfl
@[simp] theorem clearTx_sched (s : State) (p : Port) : (clearTx p s).sched = s.sched := rfl
@[simp] theorem clearTx_links (s : State) (p : Port) : (clearTx p s).links = s.links := rfl
@[simp] theorem clearTx_time (s : State) (p : Port) : (clearTx p s).time = s.time := rfl
@[simp] theorem clearTx_firing (s : State) (p : Port) : (clearTx p s).firing = s.firing := rfl
@[simp] theorem clearTx_qual (s : State) (p : Port) : (clearTx p s).qual = s.qual := rfl
@[simp] theorem clearTx_mgmt (s : State) (p : Port) : (clearTx p s).mgmt = s.mgmt := rfl
@[simp] theorem clearTx_store (s : State) (p : Port) : (clearTx p s).store = s.store := rfl
@[simp] theorem clearTx_startup (s : State) (p : Port) : (clearTx p s).startup = s.startup := rfl
@[simp] theorem clearTx_ev (s : State) (p : Port) : (clearTx p s).ev = s.ev := rfl
@[simp] theorem clearTx_freeCount (s : State) (p : Port) : (clearTx p s).freeCount = s.freeCount := rfl
@[simp] theorem clearTx_pending (s : State) (p : Port) : (clearTx p s).pending = s.pending := rfl

end Sys2Proof.Machine
end

