-- ==== Sys2Proof/Laws/Settle.lean ====
section
/-!
SUPPORT. What departures can change: every part of the state is kept but the traffic, and the traffic only departs
(settle_kept). Each operation has one lemma here that says what it keeps.
-/

namespace Sys2Proof.Machine

/-! ## Names of conditions -/

/-- The condition at a place of the latch table. -/
theorem Cond.at_idx (c : Cond) : allConds[c.idx.val]? = some c := by
  cases c with
  | queueOverflow t => revert t; decide
  | agedDiscard t => revert t; decide
  | linkDown l => cases l <;> decide
  | linkFaded l => cases l <;> decide
  | linkAdmitted l => cases l <;> decide
  | linkBarred l => cases l <;> decide
  | stale l => cases l <;> decide
  | profileUnknown l => cases l <;> decide
  | qualifyDone l => cases l <;> decide
  | retestFailed l => cases l <;> decide
  | _ => decide

/-- Two conditions have two latches. -/
theorem Cond.idx_inj {a b : Cond} (h : a.idx = b.idx) : a = b := by
  have ha := a.at_idx
  rw [h, b.at_idx] at ha
  exact (Option.some.inj ha).symm

/-- Two counters of a port stand at two places. -/
theorem PortCounter.idx_inj {a b : PortCounter} (h : a.idx = b.idx) : a = b := by
  cases a <;> cases b <;> first | rfl | (exact absurd h (by decide))

/-! ## What operations change -/

/-- Bringing a bucket up to date keeps its rate and depth. -/
@[simp] theorem Bucket.refresh_rate (t : Ns) (b : Bucket) : (b.refresh t).rate = b.rate := rfl
@[simp] theorem Bucket.refresh_depth (t : Ns) (b : Bucket) : (b.refresh t).depth = b.depth := rfl
@[simp] theorem Bucket.charge_rate (n : Nat) (b : Bucket) : (b.charge n).rate = b.rate := rfl
@[simp] theorem Bucket.charge_depth (n : Nat) (b : Bucket) : (b.charge n).depth = b.depth := rfl

/-- The buckets after one is replaced. -/
theorem State.bucket_setBucket_of (s : State) (i j : BucketId) (b : Bucket) :
    (s.setBucket i b).bucket j = if j = i then b else s.bucket j := by
  cases i <;> cases j <;> simp [State.setBucket, State.bucket, tget_tset, PerLink.get_set]

/-- A bucket replaced changes nothing but the scheduler. -/
theorem setBucket_shape (s : State) (i : BucketId) (b : Bucket) :
    ∃ d, s.setBucket i b = { s with sched := d } := ⟨_, rfl⟩

theorem kick_shape (p : Port) (s : State) : ∃ e, kick p s = { s with ev := e } := ⟨_, rfl⟩

theorem kickBackhaul_shape (s : State) : ∃ e, kickBackhaul s = { s with ev := e } := ⟨_, rfl⟩

theorem kickForBucket_shape (i : BucketId) (s : State) : ∃ e, kickForBucket i s = { s with ev := e } := by
  cases i <;> exact ⟨_, rfl⟩

/-- A bucket replaced leaves the reflect buckets, unless it is one. -/
theorem setBucket_reflect (s : State) (i : BucketId) (b : Bucket) (hi : ∀ l, i ≠ .reflect l) :
    (s.setBucket i b).sched.reflect = s.sched.reflect := by
  cases i <;> first | rfl | exact absurd rfl (hi _)

/-- A bucket brought up to date leaves the reflect buckets, unless it is one. -/
theorem touch_reflect (i : BucketId) (s : State) (hi : ∀ l, i ≠ .reflect l) :
    (touch i s).sched.reflect = s.sched.reflect := by
  obtain ⟨e, he⟩ := kickForBucket_shape i (s.setBucket i ((s.bucket i).refresh s.nowNs))
  unfold touch
  simp only
  split
  · rw [he]; exact setBucket_reflect s i _ hi
  · exact setBucket_reflect s i _ hi

/-- A charge leaves the reflect buckets, unless it is of one. -/
theorem charge_reflect (i : BucketId) (n : Nat) (s : State) (hi : ∀ l, i ≠ .reflect l) :
    (charge i n s).sched.reflect = s.sched.reflect :=
  (setBucket_reflect _ i _ hi).trans (touch_reflect i s hi)

/-- A bucket brought up to date changes the scheduler and what is called, and keeps every rate and depth. -/
theorem touch_shape (i : BucketId) (s : State) :
    ∃ d e, touch i s = { s with sched := d, ev := e }
      ∧ ∀ b, ((touch i s).bucket b).rate = (s.bucket b).rate ∧ ((touch i s).bucket b).depth = (s.bucket b).depth := by
  obtain ⟨e, he⟩ := kickForBucket_shape i (s.setBucket i ((s.bucket i).refresh s.nowNs))
  obtain ⟨d, hd⟩ := setBucket_shape s i ((s.bucket i).refresh s.nowNs)
  have hb : ∀ b, ((s.setBucket i ((s.bucket i).refresh s.nowNs)).bucket b).rate = (s.bucket b).rate
      ∧ ((s.setBucket i ((s.bucket i).refresh s.nowNs)).bucket b).depth = (s.bucket b).depth := by
    intro b
    rw [State.bucket_setBucket_of]
    split <;> simp_all
  unfold touch
  simp only
  split
  · rw [he]
    refine ⟨d, e, by rw [hd], fun b => ?_⟩
    have : ({ s.setBucket i ((s.bucket i).refresh s.nowNs) with ev := e } : State).bucket b
        = (s.setBucket i ((s.bucket i).refresh s.nowNs)).bucket b := by cases b <;> rfl
    rw [this]; exact hb b
  · exact ⟨d, s.ev, by rw [hd], hb⟩

/-- A charge changes the scheduler and what is called, and keeps every rate and depth. -/
theorem charge_shape (i : BucketId) (n : Nat) (s : State) :
    ∃ d e, charge i n s = { s with sched := d, ev := e }
      ∧ ∀ b, ((charge i n s).bucket b).rate = (s.bucket b).rate ∧ ((charge i n s).bucket b).depth = (s.bucket b).depth := by
  obtain ⟨d, e, h, hr⟩ := touch_shape i s
  refine ⟨((touch i s).setBucket i (((touch i s).bucket i).charge n)).sched, e, ?_, fun b => ?_⟩
  · unfold charge; simp only; rw [h]; rfl
  · unfold charge; simp only
    rw [State.bucket_setBucket_of]
    split
    · next hb => subst hb; simpa using hr b
    · exact hr b

/-- A judged latching changes the notice state and what the event has built. -/
theorem judgeLatching_shape (n : Nat) (s : State) :
    ∃ x e, judgeLatching n s = { s with mgmt := { s.mgmt with notice := x }, ev := e } := by
  unfold judgeLatching
  simp only
  split
  · split
    · exact ⟨_, _, rfl⟩
    · split
      · exact ⟨s.mgmt.notice, s.ev, rfl⟩
      · exact ⟨_, _, rfl⟩
  · split
    · exact ⟨_, _, rfl⟩
    · split
      · exact ⟨s.mgmt.notice, s.ev, rfl⟩
      · exact ⟨_, _, rfl⟩
  · exact ⟨_, s.ev, rfl⟩

/-- A raised condition changes its own latch, the notice state and what the event has built. -/
theorem raise_shape (c : Cond) (d : Option Nat) (s : State) :
    ∃ x e, raise c d s =
      { s with
        mgmt := { latches := tset s.mgmt.latches c.idx ((s.latch c).occur s.nowNs d), notice := x }, ev := e } := by
  unfold raise
  simp only
  split
  · obtain ⟨x, e, h⟩ := judgeLatching_shape (s.level c)
      { s with mgmt := { s.mgmt with latches := tset s.mgmt.latches c.idx ((s.latch c).occur s.nowNs d) } }
    exact ⟨x, e, h⟩
  · exact ⟨s.mgmt.notice, s.ev, rfl⟩

/-- The latch of a raised condition records the occurrence (R162). -/
theorem raise_latch_same (c : Cond) (d : Option Nat) (s : State) :
    (raise c d s).latch c = (s.latch c).occur s.nowNs d := by
  obtain ⟨x, e, h⟩ := raise_shape c d s
  rw [h]; simp [State.latch]

/-- Raising a condition changes no other latch. -/
theorem raise_latch_other (c k : Cond) (d : Option Nat) (s : State) (hk : k ≠ c) : (raise c d s).latch k = s.latch k := by
  obtain ⟨x, e, h⟩ := raise_shape c d s
  rw [h]
  simp only [State.latch, tget_tset]
  rw [if_neg (fun hi => hk (Cond.idx_inj hi))]

/-! ## The relation of departures -/

/-- The parts whose frames speak of what an event moves or reports: they have laws of their own (TrafficKept, and Told in
Laws/Told.lean). -/
def Part.moves : Part → Bool
  | .traffic | .notice | .locals => true
  | _ => false

/-- Every part but those is kept. -/
def Calm (s t : State) : Prop := ∀ a : Part, a.moves = false → a.kept s t

theorem Calm.refl (s : State) : Calm s s := by
  intro a ha
  cases a <;> simp_all [Part.kept, Part.moves]

theorem Calm.trans {s t u : State} (h : Calm s t) (k : Calm t u) : Calm s u := by
  intro a ha
  have h1 := h a ha
  have h2 := k a ha
  cases a <;> simp only [Part.kept] at h1 h2 ⊢ <;> first
    | exact h2.trans h1
    | exact absurd ha (by decide)
    | exact fun x => ⟨(h2 x).1.trans (h1 x).1, (h2 x).2.trans (h1 x).2⟩
    | exact fun x => ⟨(h2 x).1.trans (h1 x).1, (h2 x).2.1.trans (h1 x).2.1, (h2 x).2.2.trans (h1 x).2.2⟩
    | exact fun x => (h2 x).trans (h1 x)
    | exact fun x y => (h2 x y).trans (h1 x y)
    | exact fun x y z => (h2 x y z).trans (h1 x y z)

theorem Calm.time {s t : State} (h : Calm s t) : t.time = s.time := h .time (by decide)
theorem Calm.cfg {s t : State} (h : Calm s t) : t.cfg = s.cfg := h .config (by decide)
theorem Calm.qual {s t : State} (h : Calm s t) : t.qual = s.qual := h .qual (by decide)

/-- Departures: every part is kept. -/
def Departs (s t : State) : Prop := Calm s t ∧ TrafficKept s t

theorem TrafficKept.refl (s : State) : TrafficKept s s where
  going := fun _ _ h => h
  tenant := fun _ => List.suffix_refl _
  tenantLeft := fun _ _ h => .inl h
  timing := List.suffix_refl _
  timingLeft := fun _ h => .inl h
  test := fun _ => List.suffix_refl _
  testLeft := fun _ _ h => .inl h
  down := fun _ => List.suffix_refl _
  downLeft := fun _ _ h => .inl h
  localLeft := fun _ _ h => .inl h
  free := fun _ h => h
  silent := fun _ _ => ⟨rfl, rfl⟩

theorem sends_of_going {s t : State} (h : ∀ p x, (s.port p).tx = some x → (t.port p).tx = some x) {p : Port}
    {item : TxItem} (hs : sends s p item) : sends t p item := by
  obtain ⟨x, hx, hi⟩ := hs
  exact ⟨x, h p x hx, hi⟩

theorem Departs.refl (s : State) : Departs s s := ⟨Calm.refl s, TrafficKept.refl s⟩

/-- What the traffic kept to goes on through departures. -/
theorem TrafficKept.trans {s t u : State} (ht : TrafficKept s t) (hup : ∀ p, (t.port p).linkUp = (s.port p).linkUp)
    (k : Departs t u) : TrafficKept s u := by
  obtain ⟨kc, kt⟩ := k
  have hnow : u.now = t.now := by simp [State.now, kc.time]
  have hage : ∀ i, u.tenantCfg i = t.tenantCfg i := by intro i; simp [State.tenantCfg, kc.cfg]
  have hctx : ∀ l, u.ctx l = t.ctx l := by intro l; simp [State.ctx, kc.qual]
  have up : ∀ {p item}, sends t p item → sends u p item := fun h => sends_of_going kt.going h
  constructor
  · exact fun p x hx => kt.going p x (ht.going p x hx)
  · exact fun i => (kt.tenant i).trans (ht.tenant i)
  · intro i d hd
    rcases ht.tenantLeft i d hd with h1 | ⟨l, h1⟩ | h1
    · exact kt.tenantLeft i d h1
    · exact .inr (.inl ⟨l, up h1⟩)
    · rw [hnow, hage]; exact .inr (.inr h1)
  · exact kt.timing.trans ht.timing
  · intro d hd
    rcases ht.timingLeft d hd with h1 | ⟨l, h1⟩
    · exact kt.timingLeft d h1
    · exact .inr ⟨l, up h1⟩
  · exact fun l => (kt.test l).trans (ht.test l)
  · intro l d hd
    rcases ht.testLeft l d hd with h1 | h1 | h1
    · exact kt.testLeft l d h1
    · exact .inr (.inl (up h1))
    · rw [hctx]; exact .inr (.inr h1)
  · exact fun p => (kt.down p).trans (ht.down p)
  · intro p d hd
    rcases ht.downLeft p d hd with h1 | h1
    · exact kt.downLeft p d h1
    · exact .inr (up h1)
  · intro p f hf
    rcases ht.localLeft p f hf with h1 | h1
    · exact kt.localLeft p f h1
    · exact .inr (up h1)
  · exact fun c hc => kt.free c (ht.free c hc)
  · intro p hp
    have h1 := ht.silent p hp
    have h2 := kt.silent p (by rw [hup p]; exact hp)
    exact ⟨h2.1.trans h1.1, h2.2.trans h1.2⟩

theorem Departs.trans {s t u : State} (h : Departs s t) (k : Departs t u) : Departs s u :=
  ⟨h.1.trans k.1, h.2.trans (h.1 .linkUp (by decide)) k⟩

/-! ## Steps that move no frame -/

/-- No frame moves: departures that leave every queue and transmission as they were. -/
def Still (s t : State) : Prop :=
  Calm s t ∧ t.queues = s.queues ∧ (∀ p, (t.port p).tx = (s.port p).tx) ∧ ∀ c, c ∈ s.pool.free → c ∈ t.pool.free

theorem Still.refl (s : State) : Still s s := ⟨Calm.refl s, rfl, fun _ => rfl, fun _ h => h⟩

theorem Still.trans {s t u : State} (h : Still s t) (k : Still t u) : Still s u :=
  ⟨h.1.trans k.1, k.2.1.trans h.2.1, fun p => (k.2.2.1 p).trans (h.2.2.1 p), fun c hc => k.2.2.2 c (h.2.2.2 c hc)⟩

theorem Still.departs {s t : State} (h : Still s t) : Departs s t := by
  obtain ⟨hc, hq, hx, hf⟩ := h
  refine ⟨hc, ?_⟩
  constructor <;> try simp only [State.tenantQ, State.localQ, hq]
  · exact fun p x h => (hx p).trans h
  · exact fun _ => List.suffix_refl _
  · exact fun _ _ h => .inl h
  · exact List.suffix_refl _
  · exact fun _ h => .inl h
  · exact fun _ => List.suffix_refl _
  · exact fun _ _ h => .inl h
  · exact fun _ => List.suffix_refl _
  · exact fun _ _ h => .inl h
  · exact fun _ _ h => .inl h
  · exact hf
  · exact fun p _ => ⟨hx p, trivial⟩

/-- A change of the scheduler that keeps rates and depths, and of the model's own fields, moves no frame. -/
theorem still_sched {s : State} {d : Departure} {e : EventWork}
    (h : ∀ b, (({ s with sched := d, ev := e } : State).bucket b).rate = (s.bucket b).rate
      ∧ (({ s with sched := d, ev := e } : State).bucket b).depth = (s.bucket b).depth)
    (hf : d.reflect = s.sched.reflect) : Still s { s with sched := d, ev := e } := by
  refine ⟨?_, rfl, fun _ => rfl, fun _ h => h⟩
  intro a ha
  cases a <;> first | rfl | exact absurd ha (by decide) | exact h | exact hf | exact fun _ => rfl | exact fun _ _ => rfl | exact fun _ _ _ => rfl | exact fun _ => ⟨rfl, rfl⟩ | exact fun _ => ⟨rfl, rfl, rfl⟩

theorem kick_still (p : Port) (s : State) : Still s (kick p s) := by
  refine ⟨?_, rfl, fun _ => rfl, fun _ h => h⟩
  intro a ha
  cases a <;> first | rfl | exact absurd ha (by decide) | exact fun _ => rfl | exact fun _ _ => rfl | exact fun _ _ _ => rfl | exact fun _ => ⟨rfl, rfl⟩ | exact fun _ => ⟨rfl, rfl, rfl⟩

theorem ev_still (s : State) (e : EventWork) : Still s { s with ev := e } := by
  refine ⟨?_, rfl, fun _ => rfl, fun _ h => h⟩
  intro a ha
  cases a <;> first | rfl | exact absurd ha (by decide) | exact fun _ => rfl | exact fun _ _ => rfl | exact fun _ _ _ => rfl | exact fun _ => ⟨rfl, rfl⟩ | exact fun _ => ⟨rfl, rfl, rfl⟩

theorem takeFree_still (s : State) : Still s (takeFree s).2 := by
  refine ⟨?_, rfl, fun _ => rfl, fun _ h => h⟩
  intro a ha
  cases a <;> first | rfl | exact absurd ha (by decide) | exact fun _ => rfl | exact fun _ _ => rfl | exact fun _ _ _ => rfl | exact fun _ => ⟨rfl, rfl⟩ | exact fun _ => ⟨rfl, rfl, rfl⟩

theorem touch_still (i : BucketId) (s : State) (hi : ∀ l, i ≠ .reflect l) : Still s (touch i s) := by
  have hf := touch_reflect i s hi
  obtain ⟨d, e, h, hr⟩ := touch_shape i s
  rw [h] at hr hf ⊢
  exact still_sched hr hf

theorem charge_still (i : BucketId) (n : Nat) (s : State) (hi : ∀ l, i ≠ .reflect l) : Still s (charge i n s) := by
  have hf := charge_reflect i n s hi
  obtain ⟨d, e, h, hr⟩ := charge_shape i n s
  rw [h] at hr hf ⊢
  exact still_sched hr hf

theorem setNotice_still (s : State) (n : NoticeState) : Still s (s.setNotice n) := by
  refine ⟨?_, rfl, fun _ => rfl, fun _ h => h⟩
  intro a ha
  cases a <;> first | rfl | exact absurd ha (by decide) | exact fun _ => rfl | exact fun _ _ => rfl | exact fun _ _ _ => rfl | exact fun _ => ⟨rfl, rfl⟩ | exact fun _ => ⟨rfl, rfl, rfl⟩

/-- A condition whose cause is a departure is raised. -/
theorem raise_still (c : Cond) (d : Option Nat) (s : State) (hc : c.ofDeparture = true) : Still s (raise c d s) := by
  have hl : ∀ k : Cond, k.ofDeparture = false → (raise c d s).latch k = s.latch k := by
    intro k hk
    exact raise_latch_other c k d s (by rintro rfl; simp [hc] at hk)
  obtain ⟨x, e, h⟩ := raise_shape c d s
  rw [h] at hl ⊢
  refine ⟨?_, rfl, fun _ => rfl, fun _ h => h⟩
  intro a ha
  cases a <;> first | rfl | exact absurd ha (by decide) | exact hl | exact fun _ => rfl | exact fun _ _ => rfl | exact fun _ _ _ => rfl | exact fun _ => ⟨rfl, rfl⟩ | exact fun _ => ⟨rfl, rfl, rfl⟩

/-- A correction-offset error is counted (R123). -/
theorem countOffset_still (p : Port) (s : State) : Still s (count p .correctionOffsetErrors 1 s) := by
  have hp : ∀ q, ((count p .correctionOffsetErrors 1 s).port q).tx = (s.port q).tx
      ∧ ((count p .correctionOffsetErrors 1 s).port q).linkUp = (s.port q).linkUp
      ∧ ((count p .correctionOffsetErrors 1 s).port q).rx = (s.port q).rx
      ∧ ∀ c : PortCounter, c ≠ .correctionOffsetErrors →
        tget ((count p .correctionOffsetErrors 1 s).port q).counters c.idx = tget (s.port q).counters c.idx := by
    intro q
    by_cases hq : q = p
    · subst hq
      refine ⟨?_, ?_, ?_, ?_⟩ <;> simp only [count, State.port_setPort]
      intro c hc
      rw [tget_tset, if_neg (fun hi => hc (PortCounter.idx_inj hi))]
    · simp [count, State.port_setPort_ne, hq]
  refine ⟨?_, rfl, fun q => (hp q).1, fun _ h => h⟩
  intro a ha
  cases a <;> first
    | rfl | exact absurd ha (by decide) | exact fun q => (hp q).2.1 | exact fun q => (hp q).2.2.1 | exact fun q => (hp q).2.2.2
    | exact fun _ => rfl | exact fun _ _ => rfl | exact fun _ _ _ => rfl | exact fun _ => ⟨rfl, rfl⟩ | exact fun _ => ⟨rfl, rfl, rfl⟩

/-- Another last link of a slot leaves the rest of the table (R29). -/
theorem map_withoutLastLink_updateSlot (n : Nat) (l : Option Link) (t : List (Nat × FlowEntry)) :
    (updateSlot n (fun e => { e with lastLink := l }) t).map withoutLastLink = t.map withoutLastLink := by
  unfold updateSlot
  rw [List.map_map]
  apply List.map_congr_left
  intro x _
  simp only [Function.comp]
  split <;> simp [withoutLastLink]

theorem updateLastLink_still (l : Link) (slot : Option Nat) (s : State) : Still s (updateLastLink l slot s) := by
  unfold updateLastLink
  split
  · exact Still.refl s
  · next n =>
    split
    · exact Still.refl s
    · next e _ =>
      split
      · have h1 : Still s { s with flows := updateSlot n (fun e => { e with lastLink := some l }) s.flows } := by
          refine ⟨?_, rfl, fun _ => rfl, fun _ h => h⟩
          intro a ha
          cases a <;> first
            | rfl | exact absurd ha (by decide) | exact map_withoutLastLink_updateSlot n (some l) s.flows
            | exact fun _ => rfl | exact fun _ _ => rfl | exact fun _ _ _ => rfl | exact fun _ => ⟨rfl, rfl⟩ | exact fun _ => ⟨rfl, rfl, rfl⟩
        simp only
        split
        · exact h1.trans (raise_still _ _ _ rfl)
        · exact h1
      · exact Still.refl s

theorem correct_still (p : Port) (d : Descriptor) (hop : Nat) (s : State) : Still s (correct p d hop s).2 := by
  unfold correct
  simp only
  split
  · simp only
    split
    · exact raise_still _ _ _ rfl
    · exact Still.refl s
  · exact countOffset_still p s

/-! ## Steps that move frames -/

/-- A transmission begins: only the port's transmitter changes. -/
theorem beginTx_calm (p : Port) (item : TxItem) (bytes : List Byte) (s : State) : Calm s (beginTx p item bytes s) := by
  have hp : ∀ q, ((beginTx p item bytes s).port q).linkUp = (s.port q).linkUp
      ∧ ((beginTx p item bytes s).port q).rx = (s.port q).rx
      ∧ ((beginTx p item bytes s).port q).counters = (s.port q).counters := by
    intro q
    by_cases hq : q = p
    · subst hq; simp [beginTx]
    · simp [beginTx, State.port_setPort_ne, hq]
  intro a ha
  cases a <;> first
    | rfl | exact absurd ha (by decide) | exact fun q => (hp q).1 | exact fun q => (hp q).2.1
    | exact (fun q c _ => by rw [(hp q).2.2])
    | exact fun _ => rfl | exact fun _ _ => rfl | exact fun _ _ _ => rfl | exact fun _ => ⟨rfl, rfl⟩ | exact fun _ => ⟨rfl, rfl, rfl⟩

theorem beginTx_tx (p : Port) (item : TxItem) (bytes : List Byte) (s : State) : sends (beginTx p item bytes s) p item := by
  refine ⟨{ item, bytes, ends := txEnd s.now (decide (p = .sp)) bytes.length }, ?_, rfl⟩
  simp [beginTx]

theorem beginTx_tx_ne (p q : Port) (item : TxItem) (bytes : List Byte) (s : State) (h : q ≠ p) :
    ((beginTx p item bytes s).port q).tx = (s.port q).tx := by
  simp [beginTx, State.port_setPort_ne, h]

/-- A local frame that starts at an idle port keeps its place, so the places taken stay (R17). -/
theorem beginTx_places {s : State} {p : Port} {f : LocalFrame} {rest : List LocalFrame} (bytes : List Byte)
    (idle : (s.port p).tx = none) (hq : s.localQ p = f :: rest) :
    (beginTx p (.store f) bytes (s.setLocalQ p rest)).placesTaken p = s.placesTaken p := by
  have h : (beginTx p (.store f) bytes (s.setLocalQ p rest)).localQ p = rest := s.localQ_setLocalQ p rest
  unfold State.placesTaken
  rw [h, hq]
  simp [State.sendingPlace, idle, beginTx, TxItem.isLocal]

/-- New queues, and nothing else. -/
theorem queues_calm (s : State) (q : QueueSet) : Calm s { s with queues := q } := by
  intro a ha
  cases a <;> first | rfl | exact absurd ha (by decide) | exact fun _ => rfl | exact fun _ _ => rfl | exact fun _ _ _ => rfl | exact fun _ => ⟨rfl, rfl⟩ | exact fun _ => ⟨rfl, rfl, rfl⟩

/-- A port may start a transmission: its link is up, and its transmitter idle (R18, R90). -/
def Ready (s : State) (p : Port) : Prop := (s.port p).linkUp = true ∧ (s.port p).tx = none

/-- A port stays ready while no frame moves. -/
theorem Ready.of {s t : State} {p : Port} (h : Ready s p) (k : Departs s t) (hx : ∀ p, (t.port p).tx = (s.port p).tx) :
    Ready t p := ⟨((k.1 .linkUp (by decide) : ∀ p, _) p).trans h.1, (hx p).trans h.2⟩

/-- A port starts one item on an idle transmitter, with the queues changed to q. -/
structure Started (s t : State) (p : Port) (item : TxItem) (q : QueueSet) : Prop where
  calm : Calm s t
  queues : t.queues = q
  sent : sends t p item
  others : ∀ k, k ≠ p → (t.port k).tx = (s.port k).tx
  free : ∀ c, c ∈ s.pool.free → c ∈ t.pool.free

theorem Started.silent {s t : State} {p : Port} {item : TxItem} {q : QueueSet} (h : Started s t p item q)
    (up : (s.port p).linkUp = true) (hl : ∀ k, k ≠ p → q.locals.get k = s.queues.locals.get k) :
    ∀ k, (s.port k).linkUp = false → (t.port k).tx = (s.port k).tx ∧ t.localQ k = s.localQ k := by
  intro k hk
  have hkp : k ≠ p := by rintro rfl; simp [up] at hk
  exact ⟨h.others k hkp, by unfold State.localQ; rw [h.queues]; exact hl k hkp⟩

theorem Started.going {s t : State} {p : Port} {item : TxItem} {q : QueueSet} (h : Started s t p item q)
    (idle : (s.port p).tx = none) : ∀ k x, (s.port k).tx = some x → (t.port k).tx = some x := by
  intro k x hx
  by_cases hk : k = p
  · subst hk; rw [idle] at hx; cases hx
  · rw [h.others k hk]; exact hx

/-- A local frame starts. -/
theorem Started.ofLocal {s t : State} {p : Port} {f : LocalFrame} {rest : List LocalFrame}
    (h : Started s t p (.store f) { s.queues with locals := s.queues.locals.set p rest })
    (ready : Ready s p) (hq : s.localQ p = f :: rest) : Departs s t := by
  refine ⟨h.calm, ?_⟩
  have hQ := h.queues
  constructor <;> try simp only [State.tenantQ, State.localQ, hQ]
  · exact h.going ready.2
  · exact fun _ => List.suffix_refl _
  · exact fun _ _ h => .inl h
  · exact List.suffix_refl _
  · exact fun _ h => .inl h
  · exact fun _ => List.suffix_refl _
  · exact fun _ _ h => .inl h
  · exact fun _ => List.suffix_refl _
  · exact fun _ _ h => .inl h
  · intro k g hg
    rw [PerPort.get_set]
    split
    · next hk =>
      subst hk
      rw [show s.queues.locals.get _ = f :: rest from hq] at hg
      rcases List.mem_cons.1 hg with rfl | hg
      · exact .inr h.sent
      · exact .inl hg
    · exact .inl hg
  · exact h.free
  · intro k hk
    have h1 := h.silent ready.1 (fun k hk => by simp [PerPort.get_set, hk]) k hk
    simpa [State.localQ, hQ] using h1

/-- The head of a downstream or site queue starts. -/
theorem Started.ofDown {s t : State} {p : Port} {d : Descriptor} {rest : List Descriptor}
    (h : Started s t p (.pool d) { s.queues with down := s.queues.down.set p rest })
    (ready : Ready s p) (hq : s.queues.down.get p = d :: rest) : Departs s t := by
  refine ⟨h.calm, ?_⟩
  have hQ := h.queues
  constructor <;> try simp only [State.tenantQ, State.localQ, hQ]
  · exact h.going ready.2
  · exact fun _ => List.suffix_refl _
  · exact fun _ _ h => .inl h
  · exact List.suffix_refl _
  · exact fun _ h => .inl h
  · exact fun _ => List.suffix_refl _
  · exact fun _ _ h => .inl h
  · intro k
    rw [PerPort.get_set]
    split
    · next hk => subst hk; rw [hq]; exact List.suffix_cons _ _
    · exact List.suffix_refl _
  · intro k g hg
    rw [PerPort.get_set]
    split
    · next hk =>
      subst hk
      rw [hq] at hg
      rcases List.mem_cons.1 hg with rfl | hg
      · exact .inr h.sent
      · exact .inl hg
    · exact .inl hg
  · exact fun _ _ h => .inl h
  · exact h.free
  · exact fun k hk => ⟨(h.silent ready.1 (fun _ _ => rfl) k hk).1, trivial⟩

/-- The head of the timing queue starts. -/
theorem Started.ofTiming {s t : State} {l : Link} {d : Descriptor} {rest : List Descriptor}
    (h : Started s t (.bh l) (.pool d) { s.queues with timing := rest })
    (ready : Ready s (.bh l)) (hq : s.queues.timing = d :: rest) : Departs s t := by
  refine ⟨h.calm, ?_⟩
  have hQ := h.queues
  constructor <;> try simp only [State.tenantQ, State.localQ, hQ]
  · exact h.going ready.2
  · exact fun _ => List.suffix_refl _
  · exact fun _ _ h => .inl h
  · rw [hq]; exact List.suffix_cons _ _
  · intro g hg
    rw [hq] at hg
    rcases List.mem_cons.1 hg with rfl | hg
    · exact .inr ⟨l, h.sent⟩
    · exact .inl hg
  · exact fun _ => List.suffix_refl _
  · exact fun _ _ h => .inl h
  · exact fun _ => List.suffix_refl _
  · exact fun _ _ h => .inl h
  · exact fun _ _ h => .inl h
  · exact h.free
  · exact fun k hk => ⟨(h.silent ready.1 (fun _ _ => rfl) k hk).1, trivial⟩

/-- The head of a test queue starts. -/
theorem Started.ofTest {s t : State} {l : Link} {d : Descriptor} {rest : List Descriptor}
    (h : Started s t (.bh l) (.pool d) { s.queues with test := s.queues.test.set l rest })
    (ready : Ready s (.bh l)) (hq : s.queues.test.get l = d :: rest) : Departs s t := by
  refine ⟨h.calm, ?_⟩
  have hQ := h.queues
  constructor <;> try simp only [State.tenantQ, State.localQ, hQ]
  · exact h.going ready.2
  · exact fun _ => List.suffix_refl _
  · exact fun _ _ h => .inl h
  · exact List.suffix_refl _
  · exact fun _ h => .inl h
  · intro k
    rw [PerLink.get_set]
    split
    · next hk => subst hk; rw [hq]; exact List.suffix_cons _ _
    · exact List.suffix_refl _
  · intro k g hg
    rw [PerLink.get_set]
    split
    · next hk =>
      subst hk
      rw [hq] at hg
      rcases List.mem_cons.1 hg with rfl | hg
      · exact .inr (.inl h.sent)
      · exact .inl hg
    · exact .inl hg
  · exact fun _ => List.suffix_refl _
  · exact fun _ _ h => .inl h
  · exact fun _ _ h => .inl h
  · exact h.free
  · exact fun k hk => ⟨(h.silent ready.1 (fun _ _ => rfl) k hk).1, trivial⟩

/-- The head of a tenant's queue starts. -/
theorem Started.ofTenant {s t : State} {l : Link} {i : Tenant} {d : Descriptor} {rest : List Descriptor}
    (h : Started s t (.bh l) (.pool d) { s.queues with tenant := tset s.queues.tenant i rest })
    (ready : Ready s (.bh l)) (hq : s.tenantQ i = d :: rest) : Departs s t := by
  refine ⟨h.calm, ?_⟩
  have hQ := h.queues
  have hq' : tget s.queues.tenant i = d :: rest := hq
  constructor <;> try simp only [State.tenantQ, State.localQ, hQ]
  · exact h.going ready.2
  · intro k
    rw [tget_tset]
    split
    · next hk => subst hk; rw [hq']; exact List.suffix_cons _ _
    · exact List.suffix_refl _
  · intro k g hg
    rw [tget_tset]
    split
    · next hk =>
      subst hk
      rw [hq'] at hg
      rcases List.mem_cons.1 hg with rfl | hg
      · exact .inr (.inl ⟨l, h.sent⟩)
      · exact .inl hg
    · exact .inl hg
  · exact List.suffix_refl _
  · exact fun _ h => .inl h
  · exact fun _ => List.suffix_refl _
  · exact fun _ _ h => .inl h
  · exact fun _ => List.suffix_refl _
  · exact fun _ _ h => .inl h
  · exact fun _ _ h => .inl h
  · exact h.free
  · exact fun k hk => ⟨(h.silent ready.1 (fun _ _ => rfl) k hk).1, trivial⟩

/-- A start: the queues change, no frame moves, and a transmission begins. -/
theorem started_of_still {s u : State} {q : QueueSet} {p : Port} {item : TxItem} {bytes : List Byte}
    (h : Still { s with queues := q } u) : Started s (beginTx p item bytes u) p item q where
  calm := ((queues_calm s q).trans h.1).trans (beginTx_calm p item bytes u)
  queues := h.2.1
  sent := beginTx_tx p item bytes u
  others := fun k hk => (beginTx_tx_ne p k item bytes u hk).trans (h.2.2.1 k)
  free := h.2.2.2

theorem Started.kick {s t : State} {p k : Port} {item : TxItem} {q : QueueSet} (h : Started s t p item q) :
    Started s (Machine.kick k t) p item q where
  calm := h.calm.trans (kick_still k t).1
  queues := h.queues
  sent := h.sent
  others := h.others
  free := h.free

/-! ## The transmitters of access ports and SP -/

theorem serveAccess_departs (p : Port) (s : State) : Departs s (serveAccess p s) := by
  unfold serveAccess
  split
  · next hup =>
    have ready : Ready s p := ⟨(Bool.and_eq_true_iff.1 hup).1, by simpa using (Bool.and_eq_true_iff.1 hup).2⟩
    split
    · next f rest hq =>
      exact (started_of_still (s := s) (Still.refl _)).ofLocal ready hq
    · split
      · next d rest hq =>
        simp only
        split
        · exact (started_of_still (s := s) (correct_still p d _ _)).ofDown ready hq
        · exact (started_of_still (s := s) (Still.refl _)).ofDown ready hq
      · exact Departs.refl s
  · exact Departs.refl s

/-! ## The backhaul arbiters -/

/-- The aged heads leave; nothing else moves. -/
theorem ageHeads_spec (i : Tenant) (q : List Descriptor) (s : State) :
    Calm s (ageHeads i q s) ∧ (∀ p, ((ageHeads i q s).port p).tx = (s.port p).tx) ∧
      (ageHeads i q s).queues =
        { s.queues with
          tenant := tset s.queues.tenant i (q.dropWhile (isAged s.now (s.tenantCfg i).maxAge)) } ∧
      ∀ c, c ∈ s.pool.free → c ∈ (ageHeads i q s).pool.free := by
  induction q generalizing s with
  | nil => exact ⟨queues_calm s _, fun _ => rfl, rfl, fun _ h => h⟩
  | cons d rest ih =>
    unfold ageHeads
    by_cases hd : isAged s.now (s.tenantCfg i).maxAge d = true
    · rw [if_pos hd]
      have h1 : Still s (discardAged i d s) := by
        have h0 : Still s ((freeCells d s).setTenant i { s.tenant i with aged := (s.tenant i).aged + 1 }) := by
          have ht : ∀ k, (((freeCells d s).setTenant i { s.tenant i with aged := (s.tenant i).aged + 1 }).tenant k)
              = if k = i then { s.tenant i with aged := (s.tenant i).aged + 1 } else s.tenant k := by
            intro k
            simp only [State.tenant, State.setTenant, freeCells, tget_tset, eq_comm]
          refine ⟨?_, rfl, fun _ => rfl, fun _ h => List.mem_append_right _ h⟩
          intro a ha
          cases a <;> first
            | rfl | exact absurd ha (by decide)
            | (intro k; rw [ht]; split <;> simp_all)
            | exact fun _ => rfl | exact fun _ _ => rfl | exact fun _ _ _ => rfl | exact fun _ => ⟨rfl, rfl⟩
        exact h0.trans (raise_still _ _ _ rfl)
      obtain ⟨hc, hx, hq, hf⟩ := ih (discardAged i d s)
      have hnow : (discardAged i d s).now = s.now := by simp [State.now, h1.1.time]
      have hcfg : (discardAged i d s).tenantCfg i = s.tenantCfg i := by simp [State.tenantCfg, h1.1.cfg]
      refine ⟨h1.1.trans hc, fun p => (hx p).trans (h1.2.2.1 p), ?_, fun c hc => hf c (h1.2.2.2 c hc)⟩
      rw [hq, hnow, hcfg, h1.2.1, List.dropWhile_cons_of_pos hd]
    · rw [if_neg hd]
      refine ⟨queues_calm s _, fun _ => rfl, ?_, fun _ h => h⟩
      rw [List.dropWhile_cons_of_neg hd]
      rfl

theorem mem_dropWhile_or {α : Type} (f : α → Bool) (q : List α) (d : α) (h : d ∈ q) : d ∈ q.dropWhile f ∨ f d = true := by
  induction q with
  | nil => cases h
  | cons x rest ih =>
    by_cases hx : f x = true
    · rw [List.dropWhile_cons_of_pos hx]
      rcases List.mem_cons.1 h with rfl | h
      · exact .inr hx
      · exact ih h
    · rw [List.dropWhile_cons_of_neg hx]; exact .inl h

theorem examine_departs (l : Link) (i : Tenant) (s : State) :
    Departs s (examine l i s) ∧ ∀ p, ((examine l i s).port p).tx = (s.port p).tx := by
  obtain ⟨hc, hx, hq, hf⟩ := ageHeads_spec i (s.tenantQ i) s
  have h1 : Departs s (ageHeads i (s.tenantQ i) s) := by
    refine ⟨hc, ?_⟩
    have hnow : (ageHeads i (s.tenantQ i) s).now = s.now := by simp [State.now, hc.time]
    have hage : ∀ k, (ageHeads i (s.tenantQ i) s).tenantCfg k = s.tenantCfg k := by
      intro k; simp [State.tenantCfg, hc.cfg]
    have hT : ∀ k, (ageHeads i (s.tenantQ i) s).tenantQ k
        = if k = i then (s.tenantQ i).dropWhile (isAged s.now (s.tenantCfg i).maxAge) else s.tenantQ k := by
      intro k
      unfold State.tenantQ at hq ⊢
      rw [hq]
      exact tget_tset ..
    constructor
    · exact fun p x h => (hx p).trans h
    · intro k
      rw [hT]
      split
      · next hk => subst hk; exact List.dropWhile_suffix _
      · exact List.suffix_refl _
    · intro k d hd
      rw [hT]
      split
      · next hk =>
        subst hk
        rcases mem_dropWhile_or (isAged s.now (s.tenantCfg k).maxAge) _ d hd with h | h
        · exact .inl h
        · rw [hnow, hage]; exact .inr (.inr h)
      · exact .inl hd
    · rw [hq]
    · intro d h; rw [hq]; exact .inl h
    · intro k; rw [hq]
    · intro k d h; rw [hq]; exact .inl h
    · intro k; rw [hq]
    · intro k d h; rw [hq]; exact .inl h
    · intro k f h; unfold State.localQ; rw [hq]; exact .inl h
    · exact hf
    · exact fun p _ => ⟨hx p, by unfold State.localQ; rw [hq]⟩
  unfold examine
  simp only
  split
  · exact ⟨h1, hx⟩
  · exact ⟨h1.trans (kick_still _ _).departs, hx⟩

theorem startPool_started {s : State} {q : QueueSet} {u : State} (l : Link) (d : Descriptor) (bytes : List Byte)
    (h : Still { s with queues := q } u) : Started s (startPool l d bytes u) (.bh l) (.pool d) q :=
  started_of_still (h.trans (charge_still _ _ _ (by simp)))

theorem pointer_still (s : State) (p : PerLink Tenant) : Still s { s with sched := { s.sched with pointer := p } } := by
  have hb : ∀ b, (({ s with sched := { s.sched with pointer := p } } : State).bucket b) = s.bucket b := by
    intro b; cases b <;> rfl
  refine ⟨?_, rfl, fun _ => rfl, fun _ h => h⟩
  intro a ha
  cases a <;> first
    | rfl | exact absurd ha (by decide) | exact (fun b => by rw [hb]; exact ⟨rfl, rfl⟩)
    | exact fun _ => rfl | exact fun _ _ => rfl | exact fun _ _ _ => rfl | exact fun _ => ⟨rfl, rfl⟩ | exact fun _ => ⟨rfl, rfl, rfl⟩

theorem startTenant_departs (l : Link) (i : Tenant) (d : Descriptor) (rest : List Descriptor) (s : State)
    (ready : Ready s (.bh l)) (hq : s.tenantQ i = d :: rest) : Departs s (startTenant l i d rest s) := by
  unfold startTenant
  exact (startPool_started l d d.frame
    (((charge_still (.tenant i) d.length (s.setTenantQ i rest) (by simp)).trans (pointer_still _ _)))).kick.ofTenant ready hq

theorem walk_departs (l : Link) (ts : List Tenant) (s : State) (ready : Ready s (.bh l)) :
    Departs s (walk l ts s) := by
  induction ts generalizing s with
  | nil => exact Departs.refl s
  | cons i ts ih =>
    unfold walk
    split
    · obtain ⟨h1, hx⟩ := examine_departs l i s
      have ready1 := ready.of h1 hx
      simp only
      split
      · exact h1.trans (ih _ ready1)
      · next d rest hq =>
        have ht := touch_still (.tenant i) (examine l i s) (by simp)
        have ready2 := ready1.of ht.departs ht.2.2.1
        split
        · refine h1.trans (ht.departs.trans (startTenant_departs l i d rest _ ready2 ?_))
          simp only [State.tenantQ, ht.2.1]; exact hq
        · exact h1.trans (ht.departs.trans (ih _ ready2))
    · exact ih s ready

theorem dropRefused_departs (l : Link) (s : State) :
    Departs s (dropRefused l s) ∧ ∀ p, ((dropRefused l s).port p).tx = (s.port p).tx := by
  refine ⟨⟨?_, ?_⟩, fun _ => rfl⟩
  · intro a ha
    cases a <;> first | rfl | exact absurd ha (by decide) | exact fun _ => rfl | exact fun _ _ => rfl | exact fun _ _ _ => rfl | exact fun _ => ⟨rfl, rfl⟩ | exact fun _ => ⟨rfl, rfl, rfl⟩
  · constructor
    · exact fun _ _ h => h
    · exact fun _ => List.suffix_refl _
    · exact fun _ _ h => .inl h
    · exact List.suffix_refl _
    · exact fun _ h => .inl h
    · intro k
      simp only [dropRefused, freeAll]
      rw [PerLink.get_set]
      split
      · next hk => subst hk; exact List.dropWhile_suffix _
      · exact List.suffix_refl _
    · intro k d hd
      simp only [dropRefused, freeAll]
      rw [PerLink.get_set]
      split
      · next hk =>
        subst hk
        rcases mem_dropWhile_or (testRefused (s.ctx k)) _ d hd with h | h
        · exact .inl h
        · exact .inr (.inr h)
      · exact .inl hd
    · exact fun _ => List.suffix_refl _
    · exact fun _ _ h => .inl h
    · exact fun _ _ h => .inl h
    · exact fun c hc => List.mem_append_right _ hc
    · exact fun _ _ => ⟨rfl, rfl⟩

theorem passTestAndTenants_departs (l : Link) (s : State) (ready : Ready s (.bh l)) :
    Departs s (passTestAndTenants l s) := by
  obtain ⟨h1, hx⟩ := dropRefused_departs l s
  have ready1 := ready.of h1 hx
  unfold passTestAndTenants
  simp only
  split
  · next d rest hq =>
    exact h1.trans ((startPool_started l d _ (Still.refl _)).ofTest ready1 hq)
  · exact h1.trans (walk_departs l _ _ ready1)

theorem startTiming_departs (l : Link) (d : Descriptor) (rest : List Descriptor) (s : State)
    (ready : Ready s (.bh l)) (hq : s.queues.timing = d :: rest) : Departs s (startTiming l d rest s) := by
  unfold startTiming
  simp only
  refine (Started.kick (started_of_still (s := s) (q := { s.queues with timing := rest }) ?_)).ofTiming ready hq
  exact (((charge_still (.pacing l) d.length _ (by simp)).trans (charge_still .timing d.length _ (by simp))).trans
    (correct_still (.bh l) d _ _)).trans (updateLastLink_still l d.slot _)

theorem selectionPass_departs (l : Link) (s : State) (ready : Ready s (.bh l)) :
    Departs s (selectionPass l s) := by
  unfold selectionPass
  split
  · next f rest hq =>
    exact (started_of_still (s := s) (charge_still (.pacing l) _ _ (by simp))).ofLocal ready hq
  · split
    · next d rest hq =>
      have ht := touch_still .timing s (by simp)
      have ready1 := ready.of ht.departs ht.2.2.1
      simp only
      split
      · exact ht.departs.trans (startTiming_departs l d rest _ ready1 (by rw [ht.2.1]; exact hq))
      · exact ht.departs.trans (passTestAndTenants_departs l _ ready1)
    · exact passTestAndTenants_departs l s ready

theorem serveBackhaul_departs (l : Link) (s : State) : Departs s (serveBackhaul l s) := by
  have ht := touch_still (.pacing l) s (by simp)
  unfold serveBackhaul
  simp only
  split
  · next hr =>
    refine ht.departs.trans (selectionPass_departs l _ ?_)
    simp only [portReady, Bool.and_eq_true, Option.isNone_iff_eq_none] at hr
    exact ⟨hr.1.1, hr.1.2⟩
  · exact ht.departs

/-! ## The end of an event -/

theorem serve_departs (p : Port) (s : State) : Departs s (serve p s) := by
  unfold serve
  simp only
  cases p with
  | bh l => exact (ev_still s _).departs.trans (serveBackhaul_departs l _)
  | ap i => exact (ev_still s _).departs.trans (serveAccess_departs _ _)
  | sp => exact (ev_still s _).departs.trans (serveAccess_departs _ _)

theorem nextServed_still (s : State) : Still s (nextServed s).2 := by
  unfold nextServed
  split
  · exact Still.refl s
  · split
    · exact takeFree_still s
    · split
      · exact Still.refl s
      · split <;> exact Still.refl s

/-- A frame joins a local queue. -/
theorem offerLocal_departs (p : Port) (f : LocalFrame) (s : State) : Departs s (offerLocal p f s).2 := by
  unfold offerLocal
  split
  · next hroom =>
    have hup : (s.port p).linkUp = true := (Bool.and_eq_true_iff.1 hroom).2
    refine Departs.trans (t := s.setLocalQ p (s.localQ p ++ [f])) ⟨queues_calm s _, ?_⟩ (kick_still p _).departs
    constructor
    · exact fun _ _ h => h
    · exact fun _ => List.suffix_refl _
    · exact fun _ _ h => .inl h
    · exact List.suffix_refl _
    · exact fun _ h => .inl h
    · exact fun _ => List.suffix_refl _
    · exact fun _ _ h => .inl h
    · exact fun _ => List.suffix_refl _
    · exact fun _ _ h => .inl h
    · intro k g hg
      simp only [State.localQ, State.setLocalQ]
      rw [PerPort.get_set]
      split
      · next hk => subst hk; exact .inl (List.mem_append_left _ hg)
      · exact .inl hg
    · exact fun _ h => h
    · intro k hk
      have hkp : k ≠ p := by rintro rfl; simp [hup] at hk
      exact ⟨rfl, by simp [State.localQ, State.setLocalQ, PerPort.get_set, hkp]⟩
  · exact Departs.refl s

theorem foldl_departs {α : Type} (f : State → α → State) (hf : ∀ s x, Departs s (f s x)) (xs : List α) (s : State) :
    Departs s (xs.foldl f s) := by
  induction xs generalizing s with
  | nil => exact Departs.refl s
  | cons x rest ih => exact (hf s x).trans (ih _)

theorem offerCopies_departs (n : Notice) (s : State) : Departs s (offerCopies n s) := by
  refine foldl_departs _ (fun s p => ?_) _ s
  split
  · have h := offerLocal_departs p (.notice n) s
    split
    · next h' => rw [h'] at h; exact h
    · next h' => rw [h'] at h; exact h.trans (setNotice_still _ _).departs
  · exact Departs.refl s

theorem offerNotices_departs (s : State) : Departs s (offerNotices s) :=
  (ev_still s _).departs.trans (foldl_departs _ (fun s n => offerCopies_departs n s) _ _)

theorem settleRounds_departs (n : Nat) (s : State) : Departs s (settleRounds n s) := by
  induction n generalizing s with
  | zero => exact Departs.refl s
  | succ n ih =>
    unfold settleRounds
    split
    · exact (offerNotices_departs s).trans (ih _)
    · have h := nextServed_still s
      split
      · next h' => rw [h'] at h; exact h.departs.trans ((serve_departs _ _).trans (ih _))
      · next h' => rw [h'] at h; exact h.departs

/-- The end of an event changes nothing but what departures change. -/
theorem settle_departs (s : State) : Departs s (settle s) :=
  (settleRounds_departs 64 s).trans (ev_still _ _).departs

/-- A part that is neither the traffic nor of the reports is kept from one event to the next. -/
theorem Part.kept_trans {a : Part} (ha : a.moves = false) {s t u : State} (h1 : a.kept s t) (h2 : a.kept t u) :
    a.kept s u := by
  cases a <;> simp only [Part.kept] at h1 h2 ⊢ <;> first
    | exact h2.trans h1
    | exact absurd ha (by decide)
    | exact fun x => ⟨(h2 x).1.trans (h1 x).1, (h2 x).2.trans (h1 x).2⟩
    | exact fun x => ⟨(h2 x).1.trans (h1 x).1, (h2 x).2.1.trans (h1 x).2.1, (h2 x).2.2.trans (h1 x).2.2⟩
    | exact fun x => (h2 x).trans (h1 x)
    | exact fun x y => (h2 x y).trans (h1 x y)
    | exact fun x y z => (h2 x y z).trans (h1 x y z)

/-- A part outside a list that holds the reports is the traffic, or none of the three. -/
theorem Part.traffic_or {a : Part} {w : List Part} (ha : a ∉ Part.notice :: Part.locals :: w) :
    a = .traffic ∨ a.moves = false := by
  simp only [List.mem_cons, not_or] at ha
  cases a <;> simp_all [Part.moves]

/-- Written parts carry over departures. -/
theorem Kept.departs {w : List Part} {s t u : State} (h : Kept (.notice :: .locals :: w) s t) (k : Departs t u)
    (hw : .linkUp ∈ w → .traffic ∈ w := by decide) : Kept (.notice :: .locals :: w) s u := by
  intro a ha
  rcases Part.traffic_or ha with rfl | hx
  · exact TrafficKept.trans (h _ ha) (h .linkUp (fun hl => ha (by
      simp only [List.mem_cons, reduceCtorEq, false_or] at hl ⊢; exact hw hl))) k
  · exact Part.kept_trans hx (h a ha) (k.1 a hx)

/-- Frames move nowhere while the queues and the transmissions stay as they are. -/
theorem TrafficKept.of_eq {s t : State} (hq : t.queues = s.queues) (hx : ∀ p, (t.port p).tx = (s.port p).tx)
    (hf : t.pool.free = s.pool.free) : TrafficKept s t := by
  constructor <;> try simp only [State.tenantQ, State.localQ, hq]
  · exact fun p x h => (hx p).trans h
  · exact fun _ => List.suffix_refl _
  · exact fun _ _ h => .inl h
  · exact List.suffix_refl _
  · exact fun _ h => .inl h
  · exact fun _ => List.suffix_refl _
  · exact fun _ _ h => .inl h
  · exact fun _ => List.suffix_refl _
  · exact fun _ _ h => .inl h
  · exact fun _ _ h => .inl h
  · rw [hf]; exact fun _ h => h
  · exact fun p _ => ⟨hx p, trivial⟩

/-- The end of an event keeps every part of the state but the reports. -/
theorem settle_kept (s : State) : Kept [.notice, .locals] s (settle s) := by
  intro a ha
  rcases Part.traffic_or (w := []) ha with rfl | hx
  · exact (settle_departs s).2
  · exact (settle_departs s).1 a hx

end Sys2Proof.Machine
end

