-- ==== Sys2Proof/Laws/Ops.lean ====
section
/-!
SUPPORT. What the shared operations can do: one lemma for each, which says the fields it changes, and what they become.
-/

namespace Sys2Proof.Machine

/-! ## Buckets -/

/-- A field of the model's own does not reach the buckets. -/
@[simp] theorem State.bucket_ev (s : State) (e : EventWork) (b : BucketId) :
    ({ s with ev := e } : State).bucket b = s.bucket b := by cases b <;> rfl

/-- A bucket's new rate (R86): the scheduler and what is called change; the rate is the new one, the other rates and
every depth are kept. -/
theorem setRate_shape (i : BucketId) (r : Nat) (s : State) :
    ∃ d e, setRate i r s = { s with sched := d, ev := e }
      ∧ (∀ b, ((setRate i r s).bucket b).rate = if b = i then r else (s.bucket b).rate)
      ∧ ∀ b, ((setRate i r s).bucket b).depth = (s.bucket b).depth := by
  obtain ⟨d, e, h, hr⟩ := touch_shape i s
  refine ⟨((touch i s).setBucket i (((touch i s).bucket i).withRate r)).sched, e, ?_, fun b => ?_, fun b => ?_⟩
  · unfold setRate; simp only; rw [h]; rfl
  · unfold setRate; simp only
    rw [State.bucket_setBucket_of]
    split
    · rfl
    · exact (hr b).1
  · unfold setRate; simp only
    rw [State.bucket_setBucket_of]
    split
    · next hb => subst hb; exact (hr b).2
    · exact (hr b).2

/-- A tenant's new depth (R87): the scheduler and what is called change; the depth is the new one in bits. -/
theorem setDepth_shape (i : Tenant) (n : Nat) (s : State) :
    ∃ d e, setDepth i n s = { s with sched := d, ev := e }
      ∧ (∀ b, ((setDepth i n s).bucket b).rate = (s.bucket b).rate)
      ∧ ∀ b, ((setDepth i n s).bucket b).depth = if b = .tenant i then n * 8 else (s.bucket b).depth := by
  obtain ⟨d, e, h, hr⟩ := touch_shape (.tenant i) s
  refine ⟨((touch (.tenant i) s).setBucket (.tenant i)
    (((touch (.tenant i) s).bucket (.tenant i)).withDepth (n * 8))).sched, e, ?_, fun b => ?_, fun b => ?_⟩
  · unfold setDepth; simp only; rw [h]; rfl
  · unfold setDepth; simp only
    rw [State.bucket_setBucket_of]
    split
    · next hb => subst hb; exact (hr _).1
    · exact (hr b).1
  · unfold setDepth; simp only
    rw [State.bucket_setBucket_of]
    split
    · rfl
    · exact (hr b).2

/-- The rates of a computation (R79, R86): the scheduler and what is called change. -/
theorem setShareRates_shape (a : Vector AllocTenant 8) (r : Nat) (s : State) :
    ∃ d e, setShareRates a r s = { s with sched := d, ev := e }
      ∧ (∀ i, ((setShareRates a r s).bucket (.tenant i)).rate = (tget a i).allocation)
      ∧ ((setShareRates a r s).bucket .timing).rate = r
      ∧ (∀ l, ((setShareRates a r s).bucket (.pacing l)).rate = (s.bucket (.pacing l)).rate
          ∧ ((setShareRates a r s).bucket (.reflect l)).rate = (s.bucket (.reflect l)).rate)
      ∧ ∀ b, ((setShareRates a r s).bucket b).depth = (s.bucket b).depth := by
  unfold setShareRates
  simp only
  split
  · obtain ⟨e, he⟩ := kickBackhaul_shape { s with
      sched := { s.sched with
        tenant := Vector.ofFn fun i => ((tget s.sched.tenant i).refresh s.nowNs).withRate (tget a i).allocation
        timing := (s.sched.timing.refresh s.nowNs).withRate r } }
    rw [he]
    refine ⟨_, _, rfl, fun i => ?_, rfl, fun l => ⟨rfl, rfl⟩, fun b => ?_⟩
    · simp [State.bucket, Bucket.withRate]
    · cases b <;> simp [State.bucket, Bucket.withRate]
  · refine ⟨_, s.ev, rfl, fun i => ?_, rfl, fun l => ⟨rfl, rfl⟩, fun b => ?_⟩
    · simp [State.bucket, Bucket.withRate]
    · cases b <;> simp [State.bucket, Bucket.withRate]

/-! ## Computations -/

/-- A computation (R74 to R79, R81): what it changes, and what it leaves. -/
theorem recompute_shape (s : State) :
    ∃ d e x, recompute s =
        { s with
          share := { s.share with table := computeTable s }
          tenants := Vector.ofFn fun i =>
            { s.tenant i with allocation := (tget (computeTable s).tenants i).allocation }
          sched := d, ev := e, mgmt := x }
      ∧ (∀ i, ((recompute s).bucket (.tenant i)).rate = (tget (computeTable s).tenants i).allocation)
      ∧ ((recompute s).bucket .timing).rate = (computeTable s).tRes
      ∧ (∀ l, ((recompute s).bucket (.pacing l)).rate = (s.bucket (.pacing l)).rate
          ∧ ((recompute s).bucket (.reflect l)).rate = (s.bucket (.reflect l)).rate)
      ∧ (∀ b, ((recompute s).bucket b).depth = (s.bucket b).depth)
      ∧ (∀ c, c ≠ .capacityChanged → (recompute s).latch c = s.latch c)
      ∧ (recompute s).latch .capacityChanged
          = (if (computeTable s).u = s.share.table.u then s.latch .capacityChanged
             else (s.latch .capacityChanged).occur s.nowNs none) := by
  obtain ⟨d, e, h, h1, h2, h3, h4⟩ := setShareRates_shape (computeTable s).tenants (computeTable s).tRes
    { s with
      share := { s.share with table := computeTable s }
      tenants := Vector.ofFn fun i =>
        { s.tenant i with allocation := (tget (computeTable s).tenants i).allocation } }
  have hp : publish (computeTable s) s = setShareRates (computeTable s).tenants (computeTable s).tRes
    { s with
      share := { s.share with table := computeTable s }
      tenants := Vector.ofFn fun i =>
        { s.tenant i with allocation := (tget (computeTable s).tenants i).allocation } } := rfl
  rw [← hp] at h h1 h2 h3 h4
  unfold recompute
  simp only
  generalize publish (computeTable s) s = u at h h1 h2 h3 h4
  by_cases hu : (computeTable s).u = s.share.table.u
  · simp only [if_pos hu]
    refine ⟨d, e, s.mgmt, h, h1, h2, h3, h4, fun c _ => ?_, ?_⟩ <;> (rw [h]; rfl)
  · simp only [if_neg hu]
    obtain ⟨x, e', h'⟩ := raise_shape .capacityChanged none u
    have hb : ∀ b, (raise .capacityChanged none u).bucket b = u.bucket b := by
      intro b; rw [h']; cases b <;> rfl
    refine ⟨d, e', _, h'.trans (by rw [h]), fun i => ?_, ?_, fun l => ?_, fun b => ?_,
      fun c hc => ?_, ?_⟩
    · rw [hb]; exact h1 i
    · rw [hb]; exact h2
    · rw [hb, hb]; exact h3 l
    · rw [hb]; exact h4 b
    · rw [raise_latch_other _ _ _ _ hc, h]; rfl
    · rw [raise_latch_same, h]; rfl

/-- A computation leaves what it read as it was, so a computation made again at once reads the same. -/
theorem computeTable_congr {s t : State} (hc : t.cfg = s.cfg) (hl : t.links = s.links)
    (hr : t.share.testRate = s.share.testRate) (hp : t.share.reflectPresent = s.share.reflectPresent)
    (ht : t.time = s.time) (hd : ∀ i, (t.tenant i).demand = (s.tenant i).demand) :
    computeTable t = { computeTable s with computations := t.share.table.computations + 1 } := by
  have hi : shareInput t = shareInput s := by
    funext i; simp [shareInput, State.tenantCfg, hc, hd]
  have ha : ∀ l, allocLink t l = allocLink s l := by
    intro l; unfold allocLink State.inService State.el State.xl State.link; rw [hc, hl, hr, hp]
  simp [computeTable, hi, ha, hc, hd, State.tenantCfg, State.nowNs, ht]

end Sys2Proof.Machine
end

