-- ==== Sys2Proof/Laws/Told.lean ====
section
/-!
SUPPORT. What an event reports: without a new latching the notice state stays, and nothing but the event's own answer and
the notices of its new latchings joins a local queue (Part.notice, Part.locals). Told is the relation that every operation
and every departure keeps to, and event_told gives the two frames of a whole event.
-/

namespace Sys2Proof.Machine

/-- The reports between two moments of one event: no latch is cleared; without a new latching, and with no notice waiting
to be offered, the notice state stays and none is built; local queues gain notices only, and lose frames from the head. -/
structure Told (s t : State) : Prop where
  up : ∀ c : Cond, (s.latch c).latched = true → (t.latch c).latched = true
  now : t.nowNs = s.nowNs
  notice : ¬newlyLatched s t → s.ev.outbox = [] → t.mgmt.notice = s.mgmt.notice ∧ t.ev.outbox = []
  outbox : ∀ n, n ∈ t.ev.outbox → n ∈ s.ev.outbox ∨ n.elapsed = s.nowNs
  frames : ∀ p : Port, ∃ ns : List Notice, (∀ n, n ∈ ns → n ∈ s.ev.outbox ∨ n.elapsed = s.nowNs)
    ∧ (ns ≠ [] → newlyLatched s t ∨ s.ev.outbox ≠ [])
    ∧ t.localQ p <:+ s.localQ p ++ ns.map .notice
    ∧ ∀ f, sends t p (.store f) → sends s p (.store f) ∨ f ∈ s.localQ p ++ ns.map .notice

/-- A latching before more operations, or after them, is a latching of the whole. -/
theorem newlyLatched.left {s t u : State} (h : newlyLatched s t) (k : Told t u) : newlyLatched s u := by
  obtain ⟨c, h1, h2⟩ := h
  exact ⟨c, h1, k.up c h2⟩

theorem newlyLatched.right {s t u : State} (k : Told s t) (h : newlyLatched t u) : newlyLatched s u := by
  obtain ⟨c, h1, h2⟩ := h
  refine ⟨c, ?_, h2⟩
  cases hs : (s.latch c).latched with
  | false => rfl
  | true => rw [k.up c hs] at h1; cases h1

theorem Told.trans {s t u : State} (h : Told s t) (k : Told t u) : Told s u where
  up := fun c hc => k.up c (h.up c hc)
  now := k.now.trans h.now
  notice := by
    intro hn ho
    obtain ⟨h1, h2⟩ := h.notice (fun x => hn (x.left k)) ho
    obtain ⟨k1, k2⟩ := k.notice (fun x => hn (newlyLatched.right h x)) h2
    exact ⟨k1.trans h1, k2⟩
  outbox := by
    intro n hn
    rcases k.outbox n hn with h1 | h1
    · exact h.outbox n h1
    · rw [h.now] at h1; exact .inr h1
  frames := by
    intro p
    obtain ⟨ns, a1, a2, a3, a4⟩ := h.frames p
    obtain ⟨ms, b1, b2, b3, b4⟩ := k.frames p
    have hmem : ∀ f, f ∈ t.localQ p ++ ms.map LocalFrame.notice → f ∈ s.localQ p ++ (ns ++ ms).map LocalFrame.notice := by
      intro f hf
      rw [List.map_append, ← List.append_assoc]
      rcases List.mem_append.1 hf with hf | hf
      · exact List.mem_append_left _ (a3.subset hf)
      · exact List.mem_append_right _ hf
    refine ⟨ns ++ ms, ?_, ?_, ?_, ?_⟩
    · intro n hn
      rcases List.mem_append.1 hn with hn | hn
      · exact a1 n hn
      · rcases b1 n hn with h1 | h1
        · exact h.outbox n h1
        · rw [h.now] at h1; exact .inr h1
    · intro hne
      by_cases hx : ns = []
      · subst hx
        rcases b2 (by simpa using hne) with h1 | h1
        · exact .inl (newlyLatched.right h h1)
        · by_cases hs : s.ev.outbox = []
          · refine .inl (by_contra fun hno => h1 (h.notice (fun x => hno (x.left k)) hs).2)
          · exact .inr hs
      · rcases a2 hx with h1 | h1
        · exact .inl (h1.left k)
        · exact .inr h1
    · rw [List.map_append, ← List.append_assoc]
      refine b3.trans ?_
      obtain ⟨z, hz⟩ := a3
      exact ⟨z, by rw [← hz, List.append_assoc]⟩
    · intro f hf
      rcases b4 f hf with h1 | h1
      · rcases a4 f h1 with h2 | h2
        · exact .inl h2
        · refine .inr ?_
          rw [List.map_append, ← List.append_assoc]
          exact List.mem_append_left _ h2
      · exact .inr (hmem f h1)

/-! ## One operation at a time -/

/-- What changes neither the latches, the notice state, the notices built, the clock nor the local frames reports nothing. -/
theorem told_same {s t : State} (hm : t.mgmt = s.mgmt) (ho : t.ev.outbox = s.ev.outbox)
    (hn : t.time.elapsed = s.time.elapsed) (hq : ∀ p, t.localQ p <:+ s.localQ p)
    (hx : ∀ p f, sends t p (.store f) → sends s p (.store f) ∨ f ∈ s.localQ p) : Told s t where
  up := by intro c hc; unfold State.latch at hc ⊢; rw [hm]; exact hc
  now := by unfold State.nowNs; rw [hn]
  notice := fun _ h => ⟨by rw [hm], ho.trans h⟩
  outbox := by intro n h; rw [ho] at h; exact .inl h
  frames := fun p => ⟨[], by simp, by simp, by simpa using hq p, fun f hf => by simpa using hx p f hf⟩

/-- What changes neither a queue nor a transmission, and none of the others, reports nothing. -/
theorem told_quiet {s t : State} (hm : t.mgmt = s.mgmt) (ho : t.ev.outbox = s.ev.outbox)
    (hn : t.time = s.time) (hq : t.queues.locals = s.queues.locals) (hp : t.ports = s.ports) : Told s t :=
  told_same hm ho (by rw [hn]) (fun p => by unfold State.localQ; rw [hq])
    (fun p f h => .inl (by unfold sends State.port at h ⊢; rw [hp] at h; exact h))

theorem Told.refl (s : State) : Told s s := told_quiet rfl rfl rfl rfl rfl

/-- A condition raised: its latch is latched, and a new latching may build a notice of this moment (R162, R165). -/
theorem told_raise (c : Cond) (d : Option Nat) (s : State) : Told s (raise c d s) := by
  have hlat : ∀ k : Cond, (s.latch k).latched = true → ((raise c d s).latch k).latched = true := by
    intro k hk
    by_cases h : k = c
    · subst h; rw [raise_latch_same]; unfold Latch.occur; rw [if_pos hk]; exact hk
    · rw [raise_latch_other c k d s h]; exact hk
  have hc : ((raise c d s).latch c).latched = true := by
    rw [raise_latch_same]; unfold Latch.occur; split
    · next h => exact h
    · rfl
  have hnew : ¬newlyLatched s (raise c d s) → (s.latch c).latched = true := by
    intro h; by_contra hx; exact h ⟨c, by simpa using hx, hc⟩
  have hsame : (s.latch c).latched = true → raise c d s =
      { s with mgmt := { s.mgmt with latches := tset s.mgmt.latches c.idx ((s.latch c).occur s.nowNs d) } } := by
    intro h; unfold raise; simp [h]
  obtain ⟨x, e, h⟩ := raise_shape c d s
  have hbox : ∀ n, n ∈ (raise c d s).ev.outbox → n ∈ s.ev.outbox ∨ n.elapsed = s.nowNs := by
    intro n
    unfold raise
    simp only
    split
    · unfold judgeLatching buildNotice
      simp only
      repeat' split
      all_goals first
        | exact fun h => .inl h
        | (simp only [List.mem_append, List.mem_singleton, State.setNotice]
           rintro (h | rfl)
           · exact .inl h
           · exact .inr rfl)
    · exact fun h => .inl h
  have hq : (raise c d s).queues = s.queues := by rw [h]
  have hp : (raise c d s).ports = s.ports := by rw [h]
  have ht : (raise c d s).time = s.time := by rw [h]
  refine ⟨hlat, by unfold State.nowNs; rw [ht], fun hn ho => ?_, hbox, fun p => ⟨[], by simp, by simp, ?_, fun f hf => ?_⟩⟩
  · rw [hsame (hnew hn)]; exact ⟨rfl, ho⟩
  · simp [State.localQ, hq]
  · refine .inl ?_
    unfold sends State.port at hf ⊢; rw [hp] at hf; exact hf

theorem told_kick (p : Port) (s : State) : Told s (kick p s) := told_quiet rfl rfl rfl rfl rfl

theorem told_touch (b : BucketId) (s : State) : Told s (touch b s) := by
  unfold touch
  simp only
  split
  · cases b <;> exact told_quiet rfl rfl rfl rfl rfl
  · exact told_quiet rfl rfl rfl rfl rfl

theorem told_charge (b : BucketId) (n : Nat) (s : State) : Told s (charge b n s) :=
  (told_touch b s).trans (told_quiet rfl rfl rfl rfl rfl)

/-- A counter stepped leaves every transmission. -/
theorem count_tx (p : Port) (c : PortCounter) (n : Nat) (s : State) (q : Port) :
    ((count p c n s).port q).tx = (s.port q).tx := by
  by_cases hq : q = p
  · subst hq; simp [count, State.port_setPort]
  · simp [count, State.port_setPort_ne, hq]

theorem told_count (p : Port) (c : PortCounter) (n : Nat) (s : State) : Told s (count p c n s) :=
  told_same rfl rfl rfl (fun _ => List.suffix_refl _)
    (fun q f h => .inl (by obtain ⟨x, hx, hi⟩ := h; exact ⟨x, by rw [← count_tx p c n s q]; exact hx, hi⟩))

theorem told_correct (p : Port) (d : Descriptor) (hop : Nat) (s : State) : Told s (correct p d hop s).2 := by
  unfold correct
  simp only
  split
  · simp only
    split
    · exact told_raise _ _ _
    · exact Told.refl s
  · exact told_count _ _ _ _

theorem told_updateLastLink (l : Link) (slot : Option Nat) (s : State) : Told s (updateLastLink l slot s) := by
  unfold updateLastLink
  split
  · exact Told.refl s
  · split
    · exact Told.refl s
    · split
      · simp only
        split
        · refine Told.trans ?_ (told_raise _ _ _)
          exact told_quiet rfl rfl rfl rfl rfl
        · exact told_quiet rfl rfl rfl rfl rfl
      · exact Told.refl s

/-! ## Transmissions -/

/-- A frame of the pool begins. -/
theorem told_beginPool (p : Port) (d : Descriptor) (bytes : List Byte) (s : State) :
    Told s (beginTx p (.pool d) bytes s) := by
  refine told_same rfl rfl rfl (fun _ => List.suffix_refl _) (fun q f h => .inl ?_)
  obtain ⟨x, hx, hi⟩ := h
  by_cases hq : q = p
  · subst hq
    simp only [beginTx, State.port_setPort, Option.some.injEq] at hx
    subst hx
    cases hi
  · rw [beginTx_tx_ne p q _ _ _ hq] at hx
    exact ⟨x, hx, hi⟩

/-- The head of a local queue begins. -/
theorem told_beginLocal (p : Port) (f : LocalFrame) (rest : List LocalFrame) (bytes : List Byte) (s u : State)
    (hq : s.localQ p = f :: rest) (h : Told (s.setLocalQ p rest) u) (hm : u.mgmt = s.mgmt)
    (ho : u.ev.outbox = s.ev.outbox) (ht : u.time = s.time) (hl : u.queues.locals = s.queues.locals.set p rest)
    (hp : u.ports = s.ports) : Told s (beginTx p (.store f) bytes u) := by
  refine told_same hm ho (by show u.time.elapsed = _; rw [ht]) (fun q => ?_) (fun q g hg => ?_)
  · show u.queues.locals.get q <:+ s.queues.locals.get q
    rw [hl, PerPort.get_set]
    split
    · next hk => subst hk; rw [show s.queues.locals.get _ = f :: rest from hq]; exact List.suffix_cons _ _
    · exact List.suffix_refl _
  · obtain ⟨x, hx, hi⟩ := hg
    by_cases hk : q = p
    · subst hk
      simp only [beginTx, State.port_setPort, Option.some.injEq] at hx
      subst hx
      cases hi
      exact .inr (by rw [hq]; exact List.mem_cons_self)
    · rw [beginTx_tx_ne p q _ _ _ hk] at hx
      exact .inl ⟨x, by unfold State.port at hx ⊢; rw [hp] at hx; exact hx, hi⟩

theorem told_serveAccess (p : Port) (s : State) : Told s (serveAccess p s) := by
  unfold serveAccess
  split
  · split
    · next f rest hq =>
      exact told_beginLocal p f rest _ s _ hq (Told.refl _) rfl rfl rfl rfl rfl
    · split
      · simp only
        split
        · refine Told.trans (Told.trans ?_ (told_correct _ _ _ _)) (told_beginPool _ _ _ _)
          exact told_quiet rfl rfl rfl rfl rfl
        · refine Told.trans ?_ (told_beginPool _ _ _ _)
          exact told_quiet rfl rfl rfl rfl rfl
      · exact Told.refl s
  · exact Told.refl s

theorem told_startPool (l : Link) (d : Descriptor) (bytes : List Byte) (s : State) : Told s (startPool l d bytes s) :=
  (told_charge _ _ _).trans (told_beginPool _ _ _ _)

theorem told_startLocal (l : Link) (f : LocalFrame) (rest : List LocalFrame) (s : State)
    (hq : s.localQ (.bh l) = f :: rest) : Told s (startLocal l f rest s) := by
  unfold startLocal
  obtain ⟨d, e, h, _⟩ := charge_shape (.pacing l) (localBytes f).length (s.setLocalQ (.bh l) rest)
  have ht := told_charge (.pacing l) (localBytes f).length (s.setLocalQ (.bh l) rest)
  have ho : (charge (.pacing l) (localBytes f).length (s.setLocalQ (.bh l) rest)).ev.outbox = s.ev.outbox := by
    unfold charge touch
    simp only
    split <;> rfl
  refine told_beginLocal (.bh l) f rest _ s _ hq ht ?_ ho ?_ ?_ ?_ <;> rw [h] <;> rfl

theorem told_startTiming (l : Link) (d : Descriptor) (rest : List Descriptor) (s : State) :
    Told s (startTiming l d rest s) := by
  unfold startTiming
  simp only
  refine Told.trans ?_ (told_kick _ _)
  refine Told.trans ?_ (told_beginPool _ _ _ _)
  refine Told.trans ?_ (told_updateLastLink _ _ _)
  refine Told.trans ?_ (told_correct _ _ _ _)
  refine Told.trans ?_ (told_charge _ _ _)
  refine Told.trans ?_ (told_charge _ _ _)
  exact told_quiet rfl rfl rfl rfl rfl

theorem told_startTenant (l : Link) (i : Tenant) (d : Descriptor) (rest : List Descriptor) (s : State) :
    Told s (startTenant l i d rest s) := by
  unfold startTenant
  simp only
  refine Told.trans ?_ (told_kick _ _)
  refine Told.trans ?_ (told_startPool _ _ _ _)
  refine Told.trans (t := charge (.tenant i) d.length (s.setTenantQ i rest)) ?_ (told_quiet rfl rfl rfl rfl rfl)
  refine Told.trans ?_ (told_charge _ _ _)
  exact told_quiet rfl rfl rfl rfl rfl

theorem told_ageHeads (i : Tenant) (q : List Descriptor) (s : State) : Told s (ageHeads i q s) := by
  induction q generalizing s with
  | nil => exact told_quiet rfl rfl rfl rfl rfl
  | cons d rest ih =>
    unfold ageHeads
    split
    · refine Told.trans ?_ (ih _)
      refine Told.trans ?_ (told_raise _ _ _)
      exact told_quiet rfl rfl rfl rfl rfl
    · exact told_quiet rfl rfl rfl rfl rfl

theorem told_examine (l : Link) (i : Tenant) (s : State) : Told s (examine l i s) := by
  unfold examine
  simp only
  split
  · exact told_ageHeads _ _ _
  · exact (told_ageHeads _ _ _).trans (told_kick _ _)

theorem told_walk (l : Link) (ts : List Tenant) (s : State) : Told s (walk l ts s) := by
  induction ts generalizing s with
  | nil => exact Told.refl s
  | cons i ts ih =>
    unfold walk
    split
    · simp only
      split
      · exact (told_examine _ _ _).trans (ih _)
      · split
        · exact ((told_examine _ _ _).trans (told_touch _ _)).trans (told_startTenant _ _ _ _ _)
        · exact ((told_examine _ _ _).trans (told_touch _ _)).trans (ih _)
    · exact ih s

theorem told_passTestAndTenants (l : Link) (s : State) : Told s (passTestAndTenants l s) := by
  have h0 : Told s (dropRefused l s) := told_quiet rfl rfl rfl rfl rfl
  unfold passTestAndTenants
  simp only
  split
  · refine h0.trans (Told.trans ?_ (told_startPool _ _ _ _))
    exact told_quiet rfl rfl rfl rfl rfl
  · exact h0.trans (told_walk _ _ _)

theorem told_serveBackhaul (l : Link) (s : State) : Told s (serveBackhaul l s) := by
  unfold serveBackhaul
  simp only
  split
  · refine (told_touch (.pacing l) _).trans ?_
    unfold selectionPass
    split
    · next hq => exact told_startLocal _ _ _ _ hq
    · split
      · simp only
        split
        · exact (told_touch _ _).trans (told_startTiming _ _ _ _)
        · exact (told_touch _ _).trans (told_passTestAndTenants _ _)
      · exact told_passTestAndTenants _ _
  · exact told_touch _ _

theorem told_serve (p : Port) (s : State) : Told s (serve p s) := by
  have h0 : Told s { s with ev := { s.ev with kick := s.ev.kick.set p false } } := told_quiet rfl rfl rfl rfl rfl
  unfold serve
  simp only
  cases p with
  | bh l => exact h0.trans (told_serveBackhaul l _)
  | ap i => exact h0.trans (told_serveAccess _ _)
  | sp => exact h0.trans (told_serveAccess _ _)

/-! ## Offers to the local queues -/

/-- Frames that a predicate admits join local queues; the latches, the clock, the notices built and the transmissions
stay. -/
structure Offered (ok : Port → LocalFrame → Prop) (s t : State) : Prop where
  latch : ∀ c, t.latch c = s.latch c
  now : t.nowNs = s.nowNs
  outbox : t.ev.outbox = s.ev.outbox
  queue : ∀ p, ∃ fs, (∀ f, f ∈ fs → ok p f) ∧ t.localQ p = s.localQ p ++ fs
  tx : ∀ p, (t.port p).tx = (s.port p).tx

theorem Offered.refl (ok : Port → LocalFrame → Prop) (s : State) : Offered ok s s :=
  ⟨fun _ => rfl, rfl, rfl, fun _ => ⟨[], by simp, by simp⟩, fun _ => rfl⟩

theorem Offered.trans {ok : Port → LocalFrame → Prop} {s t u : State} (h : Offered ok s t) (k : Offered ok t u) :
    Offered ok s u := by
  refine ⟨fun c => (k.latch c).trans (h.latch c), k.now.trans h.now, k.outbox.trans h.outbox, fun p => ?_,
    fun p => (k.tx p).trans (h.tx p)⟩
  obtain ⟨fs, h1, h2⟩ := h.queue p
  obtain ⟨gs, k1, k2⟩ := k.queue p
  refine ⟨fs ++ gs, fun f hf => ?_, by rw [k2, h2, List.append_assoc]⟩
  rcases List.mem_append.1 hf with hf | hf
  · exact h1 f hf
  · exact k1 f hf

theorem Offered.foldl {α : Type} {ok : Port → LocalFrame → Prop} (f : State → α → State) (xs : List α)
    (hf : ∀ x, x ∈ xs → ∀ s, Offered ok s (f s x)) (s : State) : Offered ok s (xs.foldl f s) := by
  induction xs generalizing s with
  | nil => exact Offered.refl ok s
  | cons x rest ih =>
    exact (hf x List.mem_cons_self s).trans (ih (fun y hy => hf y (List.mem_cons_of_mem _ hy)) _)

theorem offered_local (ok : Port → LocalFrame → Prop) (p : Port) (f : LocalFrame) (s : State)
    (h : localRoom s p = true → ok p f) : Offered ok s (offerLocal p f s).2 := by
  unfold offerLocal
  split
  · next hr =>
    refine ⟨fun _ => rfl, rfl, rfl, fun q => ?_, fun _ => rfl⟩
    by_cases hq : q = p
    · subst hq
      refine ⟨[f], by simpa using h hr, ?_⟩
      simp [State.localQ, State.setLocalQ, kick]
    · exact ⟨[], by simp, by simp [State.localQ, State.setLocalQ, kick, PerPort.get_set, hq]⟩
  · exact Offered.refl ok s

theorem offered_copies (ok : Port → LocalFrame → Prop) (n : Notice) (s : State) (h : ∀ p, ok p (.notice n)) :
    Offered ok s (offerCopies n s) := by
  refine Offered.foldl _ _ (fun p _ s => ?_) s
  split
  · have h1 := offered_local ok p (.notice n) s (fun _ => h p)
    split
    · next h' => rw [h'] at h1; exact h1
    · next h' =>
      rw [h'] at h1
      exact h1.trans ⟨fun _ => rfl, rfl, rfl, fun _ => ⟨[], by simp, by simp [State.localQ, State.setNotice]⟩, fun _ => rfl⟩
  · exact Offered.refl ok s

theorem told_offerNotices (s : State) : Told s (offerNotices s) := by
  have h : Offered (fun _ f => ∃ n, n ∈ s.ev.outbox ∧ f = .notice n) { s with ev := { s.ev with outbox := [] } }
      (offerNotices s) :=
    Offered.foldl _ _ (fun n hn u => offered_copies _ n u (fun _ => ⟨n, hn, rfl⟩)) _
  refine ⟨fun c hc => ?_, h.now, fun _ ho => ?_, fun n hn => ?_, fun p => ?_⟩
  · rw [h.latch]; exact hc
  · have : offerNotices s = { s with ev := { s.ev with outbox := [] } } := by unfold offerNotices; rw [ho]; rfl
    rw [this]; exact ⟨rfl, rfl⟩
  · rw [h.outbox] at hn; cases hn
  · obtain ⟨fs, h1, h2⟩ := h.queue p
    have hns : ∀ fs : List LocalFrame, (∀ f, f ∈ fs → ∃ n, n ∈ s.ev.outbox ∧ f = .notice n) →
        ∃ ns : List Notice, (∀ n, n ∈ ns → n ∈ s.ev.outbox) ∧ fs = ns.map .notice := by
      intro fs
      induction fs with
      | nil => exact fun _ => ⟨[], by simp, rfl⟩
      | cons f rest ih =>
        intro hf
        obtain ⟨n, hn, rfl⟩ := hf f List.mem_cons_self
        obtain ⟨ns, a, b⟩ := ih (fun g hg => hf g (List.mem_cons_of_mem _ hg))
        exact ⟨n :: ns, by simpa using ⟨hn, a⟩, by rw [b]; rfl⟩
    obtain ⟨ns, a, b⟩ := hns fs h1
    refine ⟨ns, fun n hn => .inl (a n hn), fun hne => .inr ?_, ?_, fun f hf => .inl ?_⟩
    · intro ho
      cases ns with
      | nil => exact hne rfl
      | cons n _ => have := a n List.mem_cons_self; rw [ho] at this; cases this
    · rw [h2, b]; exact List.suffix_refl _
    · obtain ⟨x, hx, hi⟩ := hf
      exact ⟨x, by rw [h.tx p] at hx; exact hx, hi⟩

theorem told_settleRounds (n : Nat) (s : State) : Told s (settleRounds n s) := by
  induction n generalizing s with
  | zero => exact Told.refl s
  | succ n ih =>
    have hk : Told s (nextServed s).2 := by
      unfold nextServed
      split
      · exact Told.refl s
      · split
        · exact told_quiet rfl rfl rfl rfl rfl
        · split
          · exact Told.refl s
          · split <;> exact Told.refl s
    unfold settleRounds
    split
    · exact (told_offerNotices s).trans (ih _)
    · split
      · next h' => rw [h'] at hk; exact (hk.trans (told_serve _ _)).trans (ih _)
      · next h' => rw [h'] at hk; exact hk

/-! ## Whole events -/

/-- An operation on an empty work list, whose local queue of a port then takes an answer, and the departures that follow:
the notice state and the local queues after the whole event. -/
theorem told_event {s s1 s2 : State} {ans : Port → List LocalFrame} (h : Told { s with ev := noWork } s1)
    (hl : ∀ p, s1.localQ p <:+ s.localQ p) (hx : ∀ p f, sends s1 p (.store f) → sends s p (.store f))
    (k : Offered (fun _ _ => True) s1 s2) (hn : s2.mgmt = s1.mgmt) (hq : ∀ p, s2.localQ p = s1.localQ p ++ ans p) :
    (¬newlyLatched s (settle s2) → (settle s2).mgmt.notice = s.mgmt.notice)
      ∧ LocalsAre (newlyLatched s (settle s2)) ans s (settle s2) := by
  have hs : ∀ t, newlyLatched { s with ev := noWork } t ↔ newlyLatched s t := fun _ => Iff.rfl
  have r := told_settleRounds 64 s2
  have hm : (settle s2).mgmt = (settleRounds 64 s2).mgmt := rfl
  have hlat : ∀ c, (settle s2).latch c = (settleRounds 64 s2).latch c := fun _ => rfl
  have mono2 : newlyLatched s s1 → newlyLatched s (settle s2) := by
    rintro ⟨c, a, b⟩
    refine ⟨c, a, ?_⟩
    rw [hlat]; exact r.up c (by rw [k.latch]; exact b)
  have mono3 : newlyLatched s2 (settleRounds 64 s2) → newlyLatched s (settle s2) := by
    rintro ⟨c, a, b⟩
    refine ⟨c, ?_, b⟩
    cases hc : (s.latch c).latched with
    | false => rfl
    | true => rw [k.latch, h.up c hc] at a; cases a
  have box : ¬newlyLatched s (settle s2) → s1.mgmt.notice = s.mgmt.notice ∧ s1.ev.outbox = [] := fun hx =>
    h.notice (fun y => hx (mono2 ((hs _).1 y))) rfl
  refine ⟨fun hx => ?_, fun p => ?_⟩
  · obtain ⟨b1, b2⟩ := box hx
    rw [hm, (r.notice (fun y => hx (mono3 y)) (by rw [k.outbox, b2])).1, hn, b1]
  · obtain ⟨ms, b1, b2, b3, b4⟩ := r.frames p
    have hsub : s2.localQ p <:+ s.localQ p ++ ans p := by
      rw [hq]
      obtain ⟨z, hz⟩ := hl p
      exact ⟨z, by rw [← hz, List.append_assoc]⟩
    have hall : s2.localQ p ++ ms.map LocalFrame.notice <:+ s.localQ p ++ ans p ++ ms.map LocalFrame.notice := by
      obtain ⟨z, hz⟩ := hsub
      exact ⟨z, by rw [← hz, List.append_assoc]⟩
    refine ⟨ms, fun n hn => ?_, fun hne => ?_, b3.trans hall, fun f hf => ?_⟩
    · rcases b1 n hn with c | c
      · rw [k.outbox] at c
        rcases h.outbox n c with c | c
        · cases c
        · exact c
      · rw [k.now, h.now] at c; exact c
    · rcases b2 hne with c | c
      · exact mono3 c
      · refine by_contra fun hno => c ?_
        rw [k.outbox, (box hno).2]
    · rcases b4 f hf with c | c
      · obtain ⟨x, y, z⟩ := c
        exact .inl (hx p f ⟨x, by rw [← k.tx p]; exact y, z⟩)
      · exact .inr (hall.subset c)

/-- The notice state and the local queues after an event that answers nothing. -/
theorem event_told {f : State → State} {s : State} (h : Told { s with ev := noWork } (f { s with ev := noWork }))
    (hl : ∀ p, (f { s with ev := noWork }).localQ p <:+ s.localQ p)
    (hx : ∀ p g, sends (f { s with ev := noWork }) p (.store g) → sends s p (.store g)) :
    Part.notice.kept s (event f s) ∧ Part.locals.kept s (event f s) :=
  told_event h hl hx (Offered.refl _ _) rfl (by simp)

/-- A frame of parts and the frames of the reports it speaks of are the frame of the whole event. -/
theorem Kept.told {w : List Part} {s t : State} (h : Kept (.notice :: .locals :: w) s t)
    (k : ∀ a : Part, a = .notice ∨ a = .locals → a ∉ w → a.kept s t) : Kept w s t := by
  intro a ha
  by_cases h1 : a = .notice
  · exact k a (.inl h1) ha
  · by_cases h2 : a = .locals
    · exact k a (.inr h2) ha
    · exact h a (by simp [h1, h2, ha])

/-- The frame of an event that answers nothing. -/
theorem Kept.event {w : List Part} {f : State → State} {s : State} (h : Kept (.notice :: .locals :: w) s (event f s))
    (ht : Told { s with ev := noWork } (f { s with ev := noWork }))
    (hl : ∀ p, (f { s with ev := noWork }).localQ p <:+ s.localQ p)
    (hx : ∀ p g, sends (f { s with ev := noWork }) p (.store g) → sends s p (.store g)) : Kept w s (event f s) :=
  h.told (fun a ha _ => by
    obtain ⟨k1, k2⟩ := event_told ht hl hx
    rcases ha with rfl | rfl
    · exact k1
    · exact k2)

end Sys2Proof.Machine
end

