-- ==== Sys2Proof/Laws/Requests.lean ====
section
/-!
SUPPORT. What the acceptance of a management request does around the operation that its row names (R157, R158).
-/

namespace Sys2Proof.Machine

/-- A selector that names something has one of the four types (R177). -/
theorem selNamed_kind {x : Selector} {n : Named} (h : selNamed x = some n) : x.kind.toNat ≤ 3 := by
  unfold selNamed at h
  split at h <;> first | omega | cases h

theorem selIndex_kind {n : Nat} {x : Selector} {i : Fin n} (h : selIndex n x = some i) : x.kind.toNat ≤ 3 := by
  unfold selIndex at h
  split at h
  · next h' => exact selNamed_kind h'
  · cases h

theorem selPort_kind {x : Selector} {p : Port} (h : selPort x = some p) : x.kind.toNat ≤ 3 := by
  unfold selPort at h
  split at h
  · next h' => exact selNamed_kind h'
  · cases h

theorem selLink_kind {x : Selector} {l : Link} (h : selLink x = some l) : x.kind.toNat ≤ 3 := by
  unfold selLink at h
  split at h
  · next h' => exact selNamed_kind h'
  · cases h

theorem selProfile_kind {x : Selector} {y : Link × Fin 16} (h : selProfile x = some y) : x.kind.toNat ≤ 3 := by
  unfold selProfile at h
  split at h
  · next h' => exact selNamed_kind h'
  · cases h

theorem selFlow_kind {x : Selector} {y : FlowName} (h : selFlow x = some y) : x.kind.toNat ≤ 3 := by
  unfold selFlow at h
  split at h
  · next h' => exact selNamed_kind h'
  · next h' => exact selNamed_kind h'
  · cases h

theorem selEntry_kind {x : Selector} {y : EntryName} (h : selEntry x = some y) : x.kind.toNat ≤ 3 := by
  unfold selEntry at h
  split at h
  · next h' => exact selNamed_kind h'
  · next h' => exact selNamed_kind h'
  · cases h

/-- A local frame of a state is there after departures, or is being sent. -/
theorem Departs.answered {s1 t : State} {p : Port} {f : LocalFrame} (h : Departs s1 t) (hf : f ∈ s1.localQ p) :
    f ∈ t.localQ p ∨ sends t p (.store f) := h.2.localLeft p f hf

/-- A request that is accepted runs its operation; what follows are departures, the response is offered (R157, R158), and
no notice has another cause than a new latching (R165). -/
theorem request_next {h : Header} {kind code : Nat} {sel : Selector} {body : List Field} {op : Operation} {s s1 : State}
    {st : Status} {items : List Item} (ha : Accepts h s) (hk : sel.kind.toNat ≤ 3)
    (hop : op sel body { s with ev := noWork } = ({ status := st, body := items, after := .nothing }, s1))
    (ht : Told { s with ev := noWork } s1) (hq : ∀ p, s1.localQ p = s.localQ p)
    (hx : ∀ p, (s1.port p).tx = (s.port p).tx) (hu : ∀ p, (s1.port p).linkUp = (s.port p).linkUp)
    (hr : s1.store.runAddr = s.store.runAddr) :
    Departs s1 (rowRequest h kind code sel body op s)
      ∧ AnsweredWith h kind code sel st items s (rowRequest h kind code sel body op s)
      ∧ Part.notice.kept s (rowRequest h kind code sel body op s) := by
  obtain ⟨hrun, hm, hroom⟩ := ha
  let r := responseTo h { kind, code, sel, body := some body } { status := st, body := items, after := .nothing } s1
  have hgate : rowRequest h kind code sel body op s = settle (offerFrame h.port (.response r) s1) := by
    unfold rowRequest event gateRequest
    have hroom' : ¬ 16 ≤ ({ s with ev := noWork } : State).placesTaken h.port := by
      show ¬ 16 ≤ s.placesTaken h.port
      omega
    simp [hrun, acceptRequest, hm, hroom', execute, executed, perform, hk, hop, finishRestart, r]
  have hl : localRoom s1 h.port = (s.port h.port).linkUp := by
    simp [localRoom, placesTaken_congr (hq h.port) (hx h.port), hu, hroom]
  have hoff : ∀ p, (offerFrame h.port (.response r) s1).localQ p
      = s1.localQ p ++ (if p = h.port ∧ (s.port p).linkUp = true then [LocalFrame.response r] else []) := by
    intro p
    unfold offerFrame offerLocal
    rw [hl]
    by_cases hup : (s.port h.port).linkUp = true
    · rw [if_pos hup]
      by_cases hp : p = h.port
      · subst hp; simp [hup, State.localQ, State.setLocalQ, kick]
      · simp [hp, State.localQ, State.setLocalQ, kick, PerPort.get_set]
    · rw [if_neg hup]
      have : ¬(p = h.port ∧ (s.port p).linkUp = true) := fun ⟨a, b⟩ => hup (a ▸ b)
      simp [this]
  have hmg : (offerFrame h.port (.response r) s1).mgmt = s1.mgmt := by
    unfold offerFrame offerLocal; split <;> rfl
  obtain ⟨n1, n2⟩ := told_event ht (fun p => by rw [hq]) (fun p f ⟨x, a, b⟩ => ⟨x, by rw [← hx]; exact a, b⟩)
    (offered_local (fun _ _ => True) h.port (.response r) s1 (fun _ => trivial)) hmg hoff
  rw [hgate]
  refine ⟨(offerLocal_departs _ _ _).trans (settle_departs _),
    ⟨r, rfl, hr, rfl, rfl, rfl, rfl, rfl, rfl, rfl, n2, fun hup => ?_⟩, n1⟩
  refine (settle_departs _).answered ?_
  rw [hoff, if_pos ⟨rfl, hup⟩]
  simp

end Sys2Proof.Machine
end

