-- ==== Sys2Proof/Laws/Steady.lean ====
section
/-!
SUPPORT. Operations that move no frame: which parts of the state they write (Steady). An event is such operations and
then departures.
-/

namespace Sys2Proof.Machine

/-- Only the written parts changed, and no frame moved. -/
structure Steady (w : List Part) (s t : State) : Prop where
  kept : ∀ a : Part, a ∉ w → a.moves = false → a.kept s t
  queues : t.queues = s.queues
  tx : ∀ p, (t.port p).tx = (s.port p).tx
  free : t.pool.free = s.pool.free

theorem Steady.refl (w : List Part) (s : State) : Steady w s s :=
  ⟨fun a _ ha => Calm.refl s a ha, rfl, fun _ => rfl, rfl⟩

theorem Steady.mono {w v : List Part} {s t : State} (h : Steady w s t) (hv : ∀ a ∈ w, a ∈ v) : Steady v s t :=
  ⟨fun a ha hx => h.kept a (fun hw => ha (hv a hw)) hx, h.queues, h.tx, h.free⟩

theorem Steady.trans {w : List Part} {s t u : State} (h : Steady w s t) (k : Steady w t u) : Steady w s u :=
  ⟨fun a ha hx => Part.kept_trans hx (h.kept a ha hx) (k.kept a ha hx), k.queues.trans h.queues,
    fun p => (k.tx p).trans (h.tx p), k.free.trans h.free⟩

/-- Operations and then departures. -/
theorem Steady.departs {w : List Part} {s t u : State} (h : Steady w s t) (k : Departs t u)
    (hw : .linkUp ∈ w → .traffic ∈ w := by decide) : Kept (.notice :: .locals :: w) s u := by
  intro a ha
  have hw' : a ∉ w := fun h => ha (List.mem_cons_of_mem _ (List.mem_cons_of_mem _ h))
  rcases Part.traffic_or ha with rfl | hx
  · exact (TrafficKept.of_eq h.queues h.tx h.free).trans (h.kept .linkUp (fun hl => hw' (hw hl)) (by decide)) k
  · exact Part.kept_trans hx (h.kept a hw' hx) (k.1 a hx)

/-! ## One operation at a time -/

theorem ev_steady (s : State) (e : EventWork) : Steady [] s { s with ev := e } := by
  refine ⟨fun a _ ha => ?_, rfl, fun _ => rfl, rfl⟩
  exact (ev_still s e).1 a ha

theorem kick_steady (p : Port) (s : State) : Steady [] s (kick p s) := ev_steady s _

theorem kickBackhaul_steady (s : State) : Steady [] s (kickBackhaul s) := ev_steady s _

theorem notice_steady (s : State) (n : NoticeState) : Steady [] s (s.setNotice n) :=
  ⟨fun a _ ha => (setNotice_still s n).1 a ha, rfl, fun _ => rfl, rfl⟩

theorem cfg_steady (s : State) (c : Classes) : Steady [.config] s { s with cfg := c } := by
  refine ⟨fun a ha hx => ?_, rfl, fun _ => rfl, rfl⟩
  cases a <;> first | rfl | exact absurd hx (by decide) | exact absurd (by decide) ha | exact fun _ => rfl | exact fun _ _ => rfl | exact fun _ _ _ => rfl | exact fun _ => ⟨rfl, rfl⟩ | exact fun _ => ⟨rfl, rfl, rfl⟩

theorem links_steady (s : State) (c : PerLink LinkUnit) : Steady [.links] s { s with links := c } := by
  refine ⟨fun a ha hx => ?_, rfl, fun _ => rfl, rfl⟩
  cases a <;> first | rfl | exact absurd hx (by decide) | exact absurd (by decide) ha | exact fun _ => rfl | exact fun _ _ => rfl | exact fun _ _ _ => rfl | exact fun _ => ⟨rfl, rfl⟩ | exact fun _ => ⟨rfl, rfl, rfl⟩

theorem time_steady (s : State) (c : TimeUnit) : Steady [.time] s { s with time := c } := by
  refine ⟨fun a ha hx => ?_, rfl, fun _ => rfl, rfl⟩
  cases a <;> first | rfl | exact absurd hx (by decide) | exact absurd (by decide) ha | exact fun _ => rfl | exact fun _ _ => rfl | exact fun _ _ _ => rfl | exact fun _ => ⟨rfl, rfl⟩ | exact fun _ => ⟨rfl, rfl, rfl⟩

theorem firing_steady (s : State) (c : FiringRecord) : Steady [.firing] s { s with firing := c } := by
  refine ⟨fun a ha hx => ?_, rfl, fun _ => rfl, rfl⟩
  cases a <;> first | rfl | exact absurd hx (by decide) | exact absurd (by decide) ha | exact fun _ => rfl | exact fun _ _ => rfl | exact fun _ _ _ => rfl | exact fun _ => ⟨rfl, rfl⟩ | exact fun _ => ⟨rfl, rfl, rfl⟩

theorem qual_steady (s : State) (c : Qual) : Steady [.qual] s { s with qual := c } := by
  refine ⟨fun a ha hx => ?_, rfl, fun _ => rfl, rfl⟩
  cases a <;> first | rfl | exact absurd hx (by decide) | exact absurd (by decide) ha | exact fun _ => rfl | exact fun _ _ => rfl | exact fun _ _ _ => rfl | exact fun _ => ⟨rfl, rfl⟩ | exact fun _ => ⟨rfl, rfl, rfl⟩

theorem share_steady (s : State) (c : Calc) : Steady [.share] s { s with share := c } := by
  refine ⟨fun a ha hx => ?_, rfl, fun _ => rfl, rfl⟩
  cases a <;> first | rfl | exact absurd hx (by decide) | exact absurd (by decide) ha | exact fun _ => rfl | exact fun _ _ => rfl | exact fun _ _ _ => rfl | exact fun _ => ⟨rfl, rfl⟩ | exact fun _ => ⟨rfl, rfl, rfl⟩

theorem store_steady (s : State) (c : Store) : Steady [.store] s { s with store := c } := by
  refine ⟨fun a ha hx => ?_, rfl, fun _ => rfl, rfl⟩
  cases a <;> first | rfl | exact absurd hx (by decide) | exact absurd (by decide) ha | exact fun _ => rfl | exact fun _ _ => rfl | exact fun _ _ _ => rfl | exact fun _ => ⟨rfl, rfl⟩ | exact fun _ => ⟨rfl, rfl, rfl⟩

theorem startup_steady (s : State) (c : Startup) : Steady [.startup] s { s with startup := c } := by
  refine ⟨fun a ha hx => ?_, rfl, fun _ => rfl, rfl⟩
  cases a <;> first | rfl | exact absurd hx (by decide) | exact absurd (by decide) ha | exact fun _ => rfl | exact fun _ _ => rfl | exact fun _ _ _ => rfl | exact fun _ => ⟨rfl, rfl⟩ | exact fun _ => ⟨rfl, rfl, rfl⟩

theorem flows_steady (s : State) (c : List (Nat × FlowEntry)) : Steady [.flows] s { s with flows := c } := by
  refine ⟨fun a ha hx => ?_, rfl, fun _ => rfl, rfl⟩
  cases a <;> first | rfl | exact absurd hx (by decide) | exact absurd (by decide) ha | exact fun _ => rfl | exact fun _ _ => rfl | exact fun _ _ _ => rfl | exact fun _ => ⟨rfl, rfl⟩ | exact fun _ => ⟨rfl, rfl, rfl⟩

theorem freeCount_steady (s : State) (n : Nat) : Steady [] s { s with freeCount := n } := by
  refine ⟨fun a ha hx => ?_, rfl, fun _ => rfl, rfl⟩
  cases a <;> first | rfl | exact absurd hx (by decide) | exact fun _ => rfl | exact fun _ _ => rfl | exact fun _ _ _ => rfl | exact fun _ => ⟨rfl, rfl⟩ | exact fun _ => ⟨rfl, rfl, rfl⟩

/-- A change of the scheduler that keeps the reflect buckets. -/
theorem sched_steady (s : State) (d : Departure) (e : EventWork) (hf : d.reflect = s.sched.reflect) :
    Steady [.rates] s { s with sched := d, ev := e } := by
  refine ⟨fun a ha hx => ?_, rfl, fun _ => rfl, rfl⟩
  cases a <;> first | rfl | exact hf | exact absurd hx (by decide) | exact absurd (by decide) ha | exact fun _ => rfl | exact fun _ _ => rfl | exact fun _ _ _ => rfl | exact fun _ => ⟨rfl, rfl⟩ | exact fun _ => ⟨rfl, rfl, rfl⟩

/-- A change of the scheduler. -/
theorem sched_steady' (s : State) (d : Departure) (e : EventWork) :
    Steady [.rates, .reflect] s { s with sched := d, ev := e } := by
  refine ⟨fun a ha hx => ?_, rfl, fun _ => rfl, rfl⟩
  cases a <;> first | rfl | exact absurd hx (by decide) | exact absurd (by decide) ha | exact fun _ => rfl | exact fun _ _ => rfl | exact fun _ _ _ => rfl | exact fun _ => ⟨rfl, rfl⟩ | exact fun _ => ⟨rfl, rfl, rfl⟩

theorem raise_steady (c : Cond) (d : Option Nat) (s : State) : Steady [.latches] s (raise c d s) := by
  obtain ⟨x, e, h⟩ := raise_shape c d s
  rw [h]
  refine ⟨fun a ha hx => ?_, rfl, fun _ => rfl, rfl⟩
  cases a <;> first | rfl | exact absurd hx (by decide) | exact absurd (by decide) ha | exact fun _ => rfl | exact fun _ _ => rfl | exact fun _ _ _ => rfl | exact fun _ => ⟨rfl, rfl⟩ | exact fun _ => ⟨rfl, rfl, rfl⟩

theorem setRate_reflect (i : BucketId) (r : Nat) (s : State) (hi : ∀ l, i ≠ .reflect l) :
    (setRate i r s).sched.reflect = s.sched.reflect :=
  (setBucket_reflect _ i _ hi).trans (touch_reflect i s hi)

theorem setRate_steady (i : BucketId) (r : Nat) (s : State) (hi : ∀ l, i ≠ .reflect l) :
    Steady [.rates] s (setRate i r s) := by
  have hf := setRate_reflect i r s hi
  obtain ⟨d, e, h, _⟩ := setRate_shape i r s
  rw [h] at hf ⊢
  exact sched_steady s d e hf

theorem setRate_steady' (i : BucketId) (r : Nat) (s : State) : Steady [.rates, .reflect] s (setRate i r s) := by
  obtain ⟨d, e, h, _⟩ := setRate_shape i r s
  rw [h]
  exact sched_steady' s d e

theorem setDepth_steady (i : Tenant) (n : Nat) (s : State) : Steady [.rates] s (setDepth i n s) := by
  have hf : (setDepth i n s).sched.reflect = s.sched.reflect :=
    (setBucket_reflect _ (.tenant i) _ (by simp)).trans (touch_reflect (.tenant i) s (by simp))
  obtain ⟨d, e, h, _⟩ := setDepth_shape i n s
  rw [h] at hf ⊢
  exact sched_steady s d e hf

/-- A computation leaves the reflect buckets. -/
theorem recompute_reflect (s : State) : (recompute s).sched.reflect = s.sched.reflect := by
  have hr : ∀ c d (u : State), (raise c d u).sched = u.sched := by
    intro c d u
    obtain ⟨x, e, h⟩ := raise_shape c d u
    rw [h]
  have hs : ∀ a r (u : State), (setShareRates a r u).sched.reflect = u.sched.reflect := by
    intro a r u
    unfold setShareRates
    simp only
    split <;> rfl
  unfold recompute
  simp only
  split
  · exact hs _ _ _
  · rw [hr]; exact hs _ _ _

/-- A computation writes the calculator, the allocations, the rates and its own latch. -/
theorem recompute_steady (s : State) : Steady computed s (recompute s) := by
  obtain ⟨d, e, x, h, _, _, hr, _, _⟩ := recompute_shape s
  have hf := recompute_reflect s
  rw [h] at hf ⊢
  refine ⟨fun a ha hx => ?_, rfl, fun _ => rfl, rfl⟩
  cases a <;> first
    | rfl | exact hf | exact absurd hx (by decide) | exact absurd (by decide) ha
    | exact fun _ => rfl | exact fun _ _ => rfl | exact fun _ _ _ => rfl | exact fun _ => ⟨rfl, rfl⟩ | exact fun _ => ⟨rfl, rfl, rfl⟩
    | (intro i; simp [State.tenant])

/-- A computation stands after the departures that follow it (R74 to R79). -/
theorem recompute_departs {s t : State} (k : Departs (recompute s) t) :
    OneComputation s t ∧ t.share = { s.share with table := t.share.table } ∧ OtherRatesKept [] s t ∧ DepthsKept [] s t
      ∧ LatchesKept [.capacityChanged] s t := by
  obtain ⟨d, e, x, h, hr, hT, hO, hD, hL, hC⟩ := recompute_shape s
  have hs : t.share = (recompute s).share := k.1 .share (by decide)
  have hs' : (recompute s).share = { s.share with table := computeTable s } := by rw [h]
  have hb : ∀ b, (t.bucket b).rate = ((recompute s).bucket b).rate ∧ (t.bucket b).depth = ((recompute s).bucket b).depth :=
    k.1 .rates (by decide)
  have hdem : ∀ i, (t.tenant i).demand = (s.tenant i).demand := by
    intro i
    refine ((k.1 .demand (by decide) : ∀ i, _) i).2.trans ?_
    rw [h]; simp [State.tenant]
  have hcomp := computeTable_congr (s := s) (t := t)
    ((k.1 .config (by decide) : t.cfg = _).trans (by rw [h])) ((k.1 .links (by decide) : t.links = _).trans (by rw [h]))
    (by rw [hs, hs']) (by rw [hs, hs']) ((k.1 .time (by decide) : t.time = _).trans (by rw [h])) hdem
  have htab : t.share.table = computeTable s := by rw [hs, hs']
  refine ⟨⟨⟨?_, ?_, ?_, ?_⟩, ?_, ?_⟩, ?_, ?_, ?_, ?_⟩
  · rw [hcomp, htab]
  · intro i
    refine ((k.1 .allocation (by decide) : ∀ i, _) i).trans ?_
    rw [h, htab]; simp [State.tenant]
  · intro i; rw [(hb _).1, hr, htab]
  · rw [(hb _).1, hT, htab]
  · rw [htab]; rfl
  · rw [htab]
    exact ((k.1 .latches (by decide) : ∀ c : Cond, _) .capacityChanged rfl).trans hC
  · rw [hs, hs']
  · intro b hb1 _
    rw [(hb b).1]
    cases b with
    | tenant i => cases hb1
    | timing => cases hb1
    | reflect l => exact (hO l).2
    | pacing l => exact (hO l).1
  · intro b _; rw [(hb b).2]; exact hD b
  · intro c hc hd
    exact ((k.1 .latches (by decide) : ∀ c : Cond, _) c hd).trans (hL c (by simpa using hc))

end Sys2Proof.Machine
end

