-- ==== Sys2Proof/Laws/Events.lean ====
section
/-!
SUPPORT. What an event does from its start to its end: an operation and then departures; and what the operations that
several events share (a computation, Link Control's report, the abort of a run, the firing of the schedule) leave.
-/

namespace Sys2Proof.Machine

/-- An event is its operation and then departures. -/
theorem event_departs (f : State → State) (s : State) : Departs (f { s with ev := noWork }) (event f s) :=
  settle_departs _

/-- An event keeps what its operation keeps. -/
theorem event_kept {w : List Part} {f : State → State} {s : State}
    (h : Steady w { s with ev := noWork } (f { s with ev := noWork })) (hw : Part.linkUp ∈ w → Part.traffic ∈ w := by decide) :
    Kept (.notice :: .locals :: w) s (event f s) :=
  (((ev_steady s noWork).mono (by simp)).trans h).departs (event_departs f s) hw

/-- The tenants' units replaced. -/
theorem tenants_steady (s : State) (v : Vector TenantUnit 8)
    (h : ∀ i, (tget v i).allocation = (s.tenant i).allocation ∧ (tget v i).accepted = (s.tenant i).accepted
      ∧ (tget v i).dropped = (s.tenant i).dropped ∧ (tget v i).departed = (s.tenant i).departed) :
    Steady [.demand] s { s with tenants := v } := by
  refine ⟨fun a ha hx => ?_, rfl, fun _ => rfl, rfl⟩
  cases a <;> first
    | rfl | exact absurd hx (by decide) | exact absurd (by decide) ha
    | exact fun _ => rfl | exact fun _ _ => rfl | exact fun _ _ _ => rfl | exact fun _ => ⟨rfl, rfl⟩
    | exact fun i => (h i).1 | exact fun i => (h i).2

/-- The records differ in nothing that a computation, a bucket or a latch shows. -/
structure Quiet (s t : State) : Prop where
  table : t.share.table = s.share.table
  allocation : ∀ i, (t.tenant i).allocation = (s.tenant i).allocation
  buckets : ∀ b, (t.bucket b).rate = (s.bucket b).rate ∧ (t.bucket b).depth = (s.bucket b).depth
  latches : ∀ c : Cond, t.latch c = s.latch c
  now : t.nowNs = s.nowNs

/-- A computation on a quiet change of a state stands after the departures (R74 to R79, R81). -/
theorem Quiet.computed {s u t : State} (q : Quiet s u) (k : Departs (recompute u) t) :
    OneComputation s t ∧ t.share = { u.share with table := t.share.table } ∧ OtherRatesKept [] s t ∧ DepthsKept [] s t
      ∧ LatchesKept [.capacityChanged] s t := by
  obtain ⟨h1, h2, h3, h4, h5⟩ := recompute_departs k
  refine ⟨?_, h2, fun b x y => ?_, fun b x => ?_, fun c x y => ?_⟩
  · unfold OneComputation at h1 ⊢
    rw [q.table, q.latches, q.now] at h1
    exact h1
  · rw [h3 b x y, (q.buckets b).1]
  · rw [h4 b x, (q.buckets b).2]
  · rw [h5 c x y, q.latches]

/-- A computation on a quiet change u of a state s, and then operations w that only latch, stand after the departures. -/
theorem Quiet.latched {ls : List Cond} {s u w t : State} (q : Quiet s u) (hw : Steady [.latches] (recompute u) w)
    (hl : ∀ c : Cond, c ∉ ls → w.latch c = (recompute u).latch c) (hcap : Cond.capacityChanged ∉ ls) (k : Departs w t) :
    OneComputation s t ∧ t.share = { u.share with table := t.share.table } ∧ OtherRatesKept [] s t ∧ DepthsKept [] s t
      ∧ LatchesKept (.capacityChanged :: ls) s t ∧ ∀ c : Cond, c.ofDeparture = false → t.latch c = w.latch c := by
  obtain ⟨d, e, x, h, hr, hT, hO, hD, hL, hC⟩ := recompute_shape u
  have kk : ∀ a : Part, a ≠ .latches → a.moves = false → a.kept (recompute u) t := fun a h1 h2 =>
    Part.kept_trans h2 (hw.kept a (by simpa using h1) h2) (k.1 a h2)
  have klatch : ∀ c : Cond, c.ofDeparture = false → t.latch c = w.latch c := k.1 .latches (by decide)
  have hs : t.share = (recompute u).share := kk .share (by decide) (by decide)
  have hs' : (recompute u).share = { u.share with table := computeTable u } := by rw [h]
  have hb : ∀ b, (t.bucket b).rate = ((recompute u).bucket b).rate ∧ (t.bucket b).depth = ((recompute u).bucket b).depth :=
    kk .rates (by decide) (by decide)
  have hdem : ∀ i, (t.tenant i).demand = (u.tenant i).demand := by
    intro i
    refine ((kk .demand (by decide) (by decide) : ∀ i, _) i).2.trans ?_
    rw [h]; simp [State.tenant]
  have hcomp := computeTable_congr (s := u) (t := t)
    ((kk .config (by decide) (by decide) : t.cfg = _).trans (by rw [h]))
    ((kk .links (by decide) (by decide) : t.links = _).trans (by rw [h]))
    (by rw [hs, hs']) (by rw [hs, hs']) ((kk .time (by decide) (by decide) : t.time = _).trans (by rw [h])) hdem
  have htab : t.share.table = computeTable u := by rw [hs, hs']
  refine ⟨⟨⟨?_, ?_, ?_, ?_⟩, ?_, ?_⟩, ?_, ?_, ?_, ?_, klatch⟩
  · rw [hcomp, htab]
  · intro i
    refine ((kk .allocation (by decide) (by decide) : ∀ i, _) i).trans ?_
    rw [h, htab]; simp [State.tenant]
  · intro i; rw [(hb _).1, hr, htab]
  · rw [(hb _).1, hT, htab]
  · rw [htab, ← q.table]; rfl
  · rw [htab, klatch .capacityChanged rfl, hl .capacityChanged hcap, hC, q.table, q.latches, q.now]
  · rw [hs, hs']
  · intro b hb1 _
    rw [(hb b).1, ← (q.buckets b).1]
    cases b with
    | tenant i => cases hb1
    | timing => cases hb1
    | reflect l => exact (hO l).2
    | pacing l => exact (hO l).1
  · intro b _; rw [(hb b).2, ← (q.buckets b).2]; exact hD b
  · intro c hc hd
    simp only [List.mem_cons, not_or] at hc
    rw [klatch c hd, hl c hc.2, hL c hc.1, q.latches]

/-- A raised condition beside a quiet change: the buckets and the table are as they were. -/
theorem raise_quiet (c : Cond) (d : Option Nat) (s : State) :
    (raise c d s).share = s.share ∧ (∀ b, (raise c d s).bucket b = s.bucket b) ∧ (raise c d s).nowNs = s.nowNs
      ∧ (raise c d s).cfg = s.cfg ∧ (raise c d s).links = s.links ∧ (raise c d s).qual = s.qual
      ∧ (raise c d s).tenants = s.tenants ∧ (raise c d s).time = s.time ∧ (raise c d s).flows = s.flows := by
  obtain ⟨x, e, h⟩ := raise_shape c d s
  rw [h]
  exact ⟨rfl, fun b => by cases b <;> rfl, rfl, rfl, rfl, rfl, rfl, rfl, rfl⟩

/-! ## Link Control's report (R40) -/

/-- Without a run under way no run is aborted for the capacity (R148). -/
theorem capacityCheck_idle (l : Link) (s : State) (h : (s.ctx l).underWay = false) : capacityCheck l s = s := by
  unfold capacityCheck
  simp only
  split
  · rw [if_neg]
    simp only [Context.underWay, decide_eq_false_iff_not, not_or] at h
    simp [h.1, h.2.1]
  · rfl

/-- The report of a link with no run under way writes what a computation writes. -/
theorem reportLink_steady (l : Link) (el0 : Nat) (svc0 : Bool) (s : State) (h : (s.ctx l).underWay = false) :
    Steady Machine.computed s (reportLink l el0 svc0 s) := by
  unfold reportLink
  split
  · exact Steady.refl _ _
  · simp only
    have hr : ∀ u : State, Steady Machine.computed s u → Steady Machine.computed s
        (if (recompute u).el l ≠ el0 ∧ (recompute u).inService l = true then capacityCheck l (recompute u)
         else recompute u) := by
      intro u hu
      have h2 := hu.trans (recompute_steady u)
      have hq : (recompute u).qual = s.qual := h2.kept .qual (by decide) (by decide)
      rw [capacityCheck_idle l (recompute u) (by unfold State.ctx at h ⊢; rw [hq]; exact h)]
      split <;> exact h2
    split
    · exact hr s (Steady.refl _ _)
    · exact hr _ ((setRate_steady _ _ _ (by simp)).mono (by decide))

/-- Link Control's report stands after the departures (R40): s is the state before the change that is reported, and u
the state after it. -/
theorem reported_of {l : Link} {s u t : State} (ht : u.share.table = s.share.table)
    (ha : ∀ i, (u.tenant i).allocation = (s.tenant i).allocation)
    (hb : ∀ b, (u.bucket b).rate = (s.bucket b).rate) (hr : (u.ctx l).underWay = false)
    (k : Departs (reportLink l (s.el l) (s.inService l) u) t) :
    Reported l s t ∧ (∀ c : Cond, c ≠ .capacityChanged → c.ofDeparture = false → t.latch c = u.latch c) := by
  have hs := reportLink_steady l (s.el l) (s.inService l) u hr
  have hcfg : t.cfg = u.cfg := (k.1 .config (by decide)).trans (hs.kept .config (by decide) (by decide))
  have hlk : t.links = u.links := (k.1 .links (by decide)).trans (hs.kept .links (by decide) (by decide))
  have hel : t.el l = u.el l := by unfold State.el State.link; rw [hcfg, hlk]
  have hsv : t.inService l = u.inService l := by unfold State.inService State.link; rw [hlk]
  unfold reportLink at k
  unfold Reported
  rw [hel, hsv]
  split at k
  · next hx =>
    rw [if_pos hx]
    refine ⟨⟨?_, fun i => ?_, fun b => ?_⟩, fun c _ hd => (k.1 .latches (by decide) : ∀ c : Cond, _) c hd⟩
    · rw [show t.share = u.share from k.1 .share (by decide)]; exact ht
    · exact ((k.1 .allocation (by decide) : ∀ i, _) i).trans (ha i)
    · exact ((k.1 .rates (by decide) : ∀ b, _) b).1.trans (hb b)
  · next hx =>
    rw [if_neg hx]
    simp only at k
    have main : ∀ v : State, v.qual = u.qual → (∀ c : Cond, v.latch c = u.latch c) →
        (u.el l ≠ s.el l → (v.bucket (.pacing l)).rate = u.el l) →
        Departs (if (recompute v).el l ≠ s.el l ∧ (recompute v).inService l = true then capacityCheck l (recompute v)
          else recompute v) t →
        (Computed t ∧ (u.el l ≠ s.el l → (t.bucket (.pacing l)).rate = u.el l))
          ∧ ∀ c : Cond, c ≠ .capacityChanged → c.ofDeparture = false → t.latch c = u.latch c := by
      intro v hv hl hp kk
      have hq : (recompute v).qual = v.qual := (recompute_steady v).kept .qual (by decide) (by decide)
      rw [capacityCheck_idle l (recompute v) (by unfold State.ctx at hr ⊢; rw [hq, hv]; exact hr), ite_self] at kk
      obtain ⟨h1, h2, h3, h4, h5⟩ := recompute_departs kk
      refine ⟨⟨h1.1, fun hne => ?_⟩, fun c hc hd => ?_⟩
      · rw [h3 (.pacing l) rfl (by simp)]; exact hp hne
      · rw [h5 c (by simpa using hc) hd, hl]
    by_cases he : u.el l = s.el l
    · rw [if_pos he] at k
      exact main u rfl (fun _ => rfl) (fun hne => absurd he hne) k
    · rw [if_neg he] at k
      obtain ⟨d, e, h, hrate, _⟩ := setRate_shape (.pacing l) (u.el l) u
      refine main _ (by rw [h]) (fun c => by rw [h]; rfl) (fun _ => ?_) k
      rw [hrate]; simp

/-! ## The firing of the schedule (R132, R133) -/

/-- In an ascending table the entries at or before a seconds count are its front, and the others its rest. -/
theorem due_eq (sec : Nat) (t : List ScheduleEntry) (h : scheduleLaw t) :
    dueEntries sec t = t.filter (fun e => decide (e.time ≤ sec))
      ∧ waitingEntries sec t = t.filter (fun e => decide (sec < e.time)) := by
  unfold scheduleLaw at h
  induction t with
  | nil => exact ⟨rfl, rfl⟩
  | cons x r ih =>
    simp only [List.map_cons, List.pairwise_cons, List.mem_map] at h
    obtain ⟨i1, i2⟩ := ih h.2
    by_cases hx : x.time ≤ sec
    · have : ¬ sec < x.time := by omega
      unfold dueEntries waitingEntries at *
      simp [hx, this, i1, i2]
    · have h2 : sec < x.time := by omega
      have : ∀ y ∈ r, sec < y.time := fun y hy => lt_trans h2 (h.1 _ ⟨y, hy, rfl⟩)
      unfold dueEntries waitingEntries at *
      refine ⟨?_, ?_⟩
      · rw [List.takeWhile_cons_of_neg (by simpa using h2), List.filter_cons_of_neg (by simpa using h2)]
        symm; rw [List.filter_eq_nil_iff]; intro y hy; simpa using this y hy
      · rw [List.dropWhile_cons_of_neg (by simpa using h2), List.filter_cons_of_pos (by simpa using h2)]
        congr 1; symm; rw [List.filter_eq_self]; intro y hy; simpa using this y hy

/-- The firing of the entries, on a change u of the state s that keeps the schedule, the shares and the buckets, stands
after the departures. -/
theorem fired_of {ls : List Cond} {ps : List Part} {s u t : State} (hs : Steady ps s u) (hc : u.cfg = s.cfg)
    (hv : u.time.valid = true) (hsh : u.share = s.share) (hb : ∀ b, u.bucket b = s.bucket b)
    (hl : ∀ c, c ∉ ls → u.latch c = s.latch c) (hcap : .capacityChanged ∉ ls) (hset : .shareSetChanged ∉ ls)
    (hn : u.nowNs = s.nowNs) (hf : u.firing = s.firing) (hlaw : scheduleLaw s.cfg.schedule)
    (hlp : Part.linkUp ∈ ps → Part.traffic ∈ ps) (k : Departs (fireEntries u) t)
    (hrep : ∀ a : Part, a = .notice ∨ a = .locals → a ∉ ps → a.kept s t) :
    FiredBeside ls ps s t ∧ t.time = u.time ∧ ∀ c : Cond, c ∈ ls → c.ofDeparture = false → t.latch c = u.latch c := by
  obtain ⟨hd, hw⟩ := due_eq u.time.site.seconds s.cfg.schedule hlaw
  unfold fireEntries at k
  rw [if_pos hv] at k
  simp only [hc] at k
  unfold FiredBeside
  simp only
  split at k
  · next hnone =>
    have htime : t.time = u.time := k.1 .time (by decide)
    rw [htime, ← hd, hnone]
    refine ⟨⟨(k.1 .config (by decide)).trans hc, fun c h1 h2 => ?_, (hs.departs k hlp).told hrep⟩, rfl,
      fun c _ h2 => (k.1 .latches (by decide) : ∀ c : Cond, _) c h2⟩
    exact ((k.1 .latches (by decide) : ∀ c : Cond, _) c h2).trans (hl c h1)
  · next e hsome =>
    generalize hv2 : ({ u.setSchedule (waitingEntries u.time.site.seconds s.cfg.schedule) with
        firing := { fired := u.firing.fired + BitVec.ofNat 32 (dueEntries u.time.site.seconds s.cfg.schedule).length
                    last := some (firingOf u (dueEntries u.time.site.seconds s.cfg.schedule).length e) } } : State) = v
    have k' : Departs (raise .shareSetChanged (some e.tag) (recompute (setActive e.set v))) t := by rw [← hv2]; exact k
    have hsv : Steady (ps ++ [.config, .firing]) s (setActive e.set v) := by
      rw [← hv2]
      refine (((hs.mono (fun a ha => List.mem_append_left _ ha)).trans
        ((cfg_steady u _).mono (fun a ha => ?_))).trans ((firing_steady _ _).mono (fun a ha => ?_))).trans
        ((cfg_steady _ _).mono (fun a ha => ?_)) <;>
      · rw [List.mem_append]; right
        simp only [List.mem_cons, List.not_mem_nil, or_false] at ha ⊢
        tauto
    have q : Quiet u (setActive e.set v) := by
      rw [← hv2]; exact ⟨rfl, fun _ => rfl, fun b => by cases b <;> exact ⟨rfl, rfl⟩, fun _ => rfl, rfl⟩
    obtain ⟨h1, h2, h3, h4, h5, h6⟩ := q.latched (ls := [.shareSetChanged]) (raise_steady _ _ _)
      (fun c hc => raise_latch_other _ _ _ _ (by simpa using hc)) (by simp) k'
    have hst := (raise_steady .shareSetChanged (some e.tag) (recompute (setActive e.set v)))
    have keep : ∀ a : Part, a ∉ computed → a.moves = false → a.kept (setActive e.set v) t := fun a ha hx =>
      Part.kept_trans hx ((recompute_steady _).kept a ha hx) (Part.kept_trans hx
        (hst.kept a (fun hl => ha (by simp at hl; subst hl; decide)) hx) (k'.1 a hx))
    have htime : t.time = u.time := (keep .time (by decide) (by decide) : t.time = _).trans (by rw [← hv2]; rfl)
    have hlat : ∀ c : Cond, c ∉ [Cond.capacityChanged, .shareSetChanged] → c.ofDeparture = false → t.latch c = u.latch c :=
      fun c hc hd => h5 c (by simpa using hc) hd
    rw [htime, ← hd, hsome, ← hw]
    refine ⟨⟨?_, ?_, ?_, ?_, fun b x y => ?_, fun b x => ?_, ?_, fun c hc hd => ?_, ?_⟩, rfl, fun c hc hd => ?_⟩
    · refine (keep .config (by decide) (by decide) : t.cfg = _).trans ?_
      rw [← hv2, ← hc]; rfl
    · refine (keep .firing (by decide) (by decide) : t.firing = _).trans ?_
      rw [← hv2, ← hf, ← hn]; rfl
    · unfold OneComputation at h1 ⊢
      rw [hsh, hl _ hcap, hn] at h1; exact h1
    · rw [h2, ← hsh, ← hv2]; rfl
    · rw [h3 b x y, hb]
    · rw [h4 b x, hb]
    · rw [h6 _ rfl, raise_latch_same]
      have : ∀ c : Cond, c ≠ .capacityChanged → (recompute (setActive e.set v)).latch c = u.latch c := by
        intro c hc'
        obtain ⟨d, e', x, h, _, _, _, _, hL, _⟩ := recompute_shape (setActive e.set v)
        rw [hL c hc']; exact q.latches c
      rw [this _ (by simp), hl _ hset]
      have : (recompute (setActive e.set v)).nowNs = s.nowNs := by
        obtain ⟨d, e', x, h, _⟩ := recompute_shape (setActive e.set v)
        rw [h, ← hn, ← hv2]; rfl
      rw [this]
    · simp only [List.mem_append, not_or] at hc
      rw [hlat c hc.2 hd, hl c hc.1]
    · refine Kept.told (Steady.departs (((hsv.mono ?_).trans ((recompute_steady _).mono ?_)).trans (hst.mono ?_)) k' ?_)
        (fun a ha hn => hrep a ha (fun hp => hn (by simp only [List.mem_append]; tauto)))
      · intro a ha; simp only [List.mem_append] at ha ⊢; tauto
      · intro a ha; simp only [List.mem_append]; tauto
      · intro a ha; simp only [List.mem_append]; left; left; simp at ha; subst ha; decide
      · intro ha
        simp only [List.mem_append] at ha ⊢
        rcases ha with (ha | ha) | ha
        · exact absurd ha (by decide)
        · left; right; exact hlp ha
        · exact absurd ha (by decide)
    · rw [hlat c ?_ hd]
      simp only [List.mem_cons, List.not_mem_nil, or_false, not_or]
      exact ⟨fun h => hcap (h ▸ hc), fun h => hset (h ▸ hc)⟩

end Sys2Proof.Machine
end

