-- ==== Sys2Proof/Laws/Store.lean ====
section
/-!
SUPPORT. What a reset does to the bytes of the store (R169): cutOp says it once for the slot under way and for the
others.
-/

namespace Sys2Proof.Machine

/-- No damaged marker reads valid (R168). -/
theorem damagedMarker_ne (i : Fin 253) : damagedMarker i ≠ markerValid := by
  intro h
  have e := congrArg BitVec.toNat h
  have hi := i.isLt
  simp only [damagedMarker, markerValid, BitVec.toNat_ofNat] at e
  split at e <;> omega

/-- A marker whose program was cut short does not read valid (R168). -/
theorem markerCut_ne (n : Nat) : markerCut n ≠ markerValid := by
  unfold markerCut
  split
  · decide
  · exact damagedMarker_ne _

/-- An image that is not erased and whose marker does not read valid is INVALID (R168). -/
theorem imageReport_invalid {x : SlotImage} (he : x.erased = false) (hm : x.marker ≠ markerValid) :
    imageReport x = .invalid := by
  unfold imageReport
  simp only [he, hm, Bool.false_eq_true, if_false, false_and]
  cases x.body <;> cases x.header <;> rfl

/-- An erase cut short leaves every byte ones, or the slot INVALID (R169). -/
theorem cutSlot_report (left : EraseLeftover) (x : SlotImage) :
    (cutSlot left x).erased = true ∨ imageReport (cutSlot left x) = .invalid := by
  unfold cutSlot
  split
  · exact .inl ‹_›
  · cases left
    · exact .inl rfl
    all_goals right; simp_all [imageReport]

/-- The image of a changed slot, and of the others. -/
theorem updSlot_get (j k : Fin 4) (f : SlotImage → SlotImage) (s : State) :
    tget (updSlot k f s).store.slots j = if j = k then f (tget s.store.slots k) else tget s.store.slots j := by
  simp only [updSlot, updStore, tget_tset]

/-- The slots that no operation under way concerns keep their bytes when a reset begins (R169). -/
theorem cutOp_slots {s : State} {j : Fin 4}
    (h : ∀ o, s.store.op = some o → jobSlot o.job ≠ some j ∨ o.phase = .recovery) :
    tget (cutOp s).store.slots j = tget s.store.slots j := by
  unfold cutOp
  split
  · rename_i o ho
    have hj := h o ho
    cases hp : o.phase <;> cases hb : o.job <;>
      simp_all [updStore, cutErase, cutProgram, takeFree, updInfo, updSlot_get, jobSlot, eq_comm]
  · rfl

/-- The slot whose erase or program a reset cuts short has every byte ones or is INVALID (R169). -/
theorem cutOp_slot {s : State} {o : StoreOp} {j : Fin 4} (hl : StoreLaw s.store) (ho : s.store.op = some o)
    (hj : jobSlot o.job = some j) (hp : o.phase ≠ .recovery) :
    (tget (cutOp s).store.slots j).erased = true ∨ imageReport (tget (cutOp s).store.slots j) = .invalid := by
  obtain ⟨_, _, h⟩ := hl
  obtain ⟨he, hm⟩ := h o ho
  unfold cutOp
  rw [ho]
  cases hp' : o.phase <;> cases hb : o.job <;>
    simp_all [updStore, cutErase, cutProgram, takeFree, updSlot_get, jobSlot, jobName, cutSlot_report]
  · apply imageReport_invalid rfl
    show (if _ then markerCut _ else _) ≠ markerValid
    split
    · exact markerCut_ne _
    · exact hm
  · exact imageReport_invalid rfl (damagedMarker_ne _)

/-- The page whose program a reset cuts short is INVALID (R169, R173). -/
theorem cutOp_page {s : State} {o : StoreOp} (hl : StoreLaw s.store) (ho : s.store.op = some o)
    (hj : jobName o.job = .writeInfo) (hp : o.phase = .program) : pageReport (cutOp s).store = .invalid := by
  have hm := ((hl.2.2 o ho).2 hp).2.2.2 hj
  have he : (cutOp s).store.info.erased = false ∧ (cutOp s).store.info.marker ≠ markerValid
      ∧ (cutOp s).store.op = none := by
    unfold cutOp
    rw [ho]
    cases hb : o.job <;> simp_all [updStore, cutProgram, takeFree, updInfo, jobName]
    split
    · exact markerCut_ne _
    · exact hm
  simp [pageReport, he.1, he.2.1, he.2.2]

end Sys2Proof.Machine
end

