-- ==== Sys2Proof/Tests/Slice0.lean ====
section
/-!
SUPPORT. Tests: ill-formed commands that WellFormed refuses, values of the spec's worked cases, one step of each row on a
small state, and for every statement with hypotheses a state and operands that meet them.
-/

namespace Sys2Proof.Tests

open Sys2Proof Sys2Proof.Machine

set_option Elab.async false

/-! ## Helpers -/

/-- A field of one byte. -/
def f8 (id n : Nat) : Field := { id, value := natToBytes 1 n }

/-- A field of some bytes. -/
def fn (id k n : Nat) : Field := { id, value := natToBytes k n }

/-- A request's header on SP. -/
def hd : Header := { port := .sp, src := 0x020000000001#48, vlanTag := none, tag := 7#16 }

/-- A selector that names an index. -/
def ix (n : Nat) : Selector := { kind := 0#8, value := BitVec.ofNat 48 n }

/-- A selector that names nothing. -/
def no : Selector := { kind := 3#8, value := 0#48 }

/-- A selector that names a key. -/
def key (n : Nat) : Selector := { kind := 1#8, value := BitVec.ofNat 48 n }

/-- The device in RUNNING with every port's link up, and a small pool. -/
def run : State :=
  { State.reset with
    startup := { State.reset.startup with state := .running, held := [] }
    ports := .all { resetPort with linkUp := true }
    pool := { free := List.range 40, retired := [] } }

/-- A link's record in a state, its carrier present. -/
def linkAt (st : LinkState) : LinkUnit := { resetLink with state := st, carrier := true }

/-- RUNNING with a record on L0. -/
def withL0 (u : LinkUnit) : State := { run with links := ⟨u, resetLink⟩ }

/-- A step table whose first record is a LOAD step of 5 ms phases that ends the programme. -/
def loadStep : StepRecord :=
  { factoryStep with kind := .load, length := 128, rate := 1000, settle := 5, measure := 5, recover := 5, last := true }

/-- A context of a run in a state. -/
def ctxAt (st : RunState) (r : StepRecord) : Context :=
  { resetContext with
    state := st, runNo := 1#8, first := some 0, last := some 0, current := some 0, step := some r
    testKey := some { port := .bh .l0, vlan := some 4000 }, slot := some 0, phaseEnd := some 0 }

/-- RUNNING with L0 in a state and a run in a state, at an elapsed time. -/
def withRun (u : LinkUnit) (c : Context) (now : Instant) : State :=
  { run with
    links := ⟨u, resetLink⟩, qual := { run.qual with ctx := ⟨c, resetContext⟩ }
    time := { run.time with elapsed := now } }

/-- The outcome's state has a property. -/
def after (o : Host.Outcome State Fault Refusal) (p : State → Bool) : Bool :=
  match o with
  | .next t => p t
  | _ => false

/-- The state of a field of the servo. -/
def withServo (v : Servo) (ns now : Nat) : State :=
  { run with
    time := { run.time with servo := v, site := { seconds := 8421, nanos := ns, frac := 0 }
                            elapsed := BitVec.ofNat 80 (now * 65536), valid := true } }

/-- A frame from its bytes before the FCS, filled with zeros to 60. -/
def frame (front : List Byte) : List Byte :=
  withFcs (front ++ List.replicate (60 - front.length) 0x00#8 ++ List.replicate 4 0x00#8)

/-- Two addresses. -/
def addrs : List Byte := natToBytes 6 0x020000000740 ++ natToBytes 6 0x020000000001

/-- A frame of another type. -/
def plain : List Byte := frame (addrs ++ [0x08#8, 0x00#8])

/-- A rate notice CURRENT with carrier present, index 0, level 9. -/
def notice0 : List Byte := frame (addrs ++ [0x88#8, 0xB5#8, 0x03#8, 0x01#8, 0x01#8, 0x00#8, 0x09#8])

/-- A request frame: ACTIVATE_SET of set 1. -/
def request1 : List Byte :=
  frame (addrs ++ [0x88#8, 0xB5#8, 0x01#8, 0x04#8, 0x00#8, 0x07#8, 0x01#8, 0x01#8, 0x03#8] ++ natToBytes 6 0
    ++ natToBytes 2 3 ++ [0x01#8, 0x01#8, 0x01#8])

/-- A test frame of run 1, step 0, sequence 3. -/
def return3 : List Byte :=
  frame (addrs ++ [0x88#8, 0xB5#8, 0x04#8, 0x01#8, 0x00#8, 0x00#8] ++ natToBytes 4 3 ++ List.replicate 24 0x00#8)

/-- A reception under way on a port. -/
def receiving (p : Port) (s : State) : State := s.setPort p { s.port p with rx := some 0 }

/-- An entry of the Flow Table. -/
def entry (p : Port) (a : FlowAction) (o : Owner) : FlowEntry :=
  newEntry { key := { port := p, vlan := none }, action := a, tenant := some 0, egress := some .sp, pref := some .any
             offset := some 20 } o

/-- A state with one flow entry. -/
def withEntry (p : Port) (a : FlowAction) (o : Owner) (s : State) : State := { s with flows := [(0, entry p a o)] }

/-! ## Commands that cannot be sent -/

theorem test_wf_empty_frame : (Instr.frameReceived .sp []).wellFormed = false := by decide
theorem test_wf_field_identifier : (Instr.portWrite hd (ix 0) [{ id := 256, value := [0#8] }]).wellFormed = false := by decide
theorem test_wf_field_length :
    (Instr.setTime hd no [{ id := 1, value := List.replicate 256 0#8 }]).wellFormed = false := by decide +kernel
theorem test_wf_body_length :
    (Instr.clearConditions hd no (List.replicate 8 { id := 1, value := List.replicate 250 0#8 })).wellFormed = false := by
  decide +kernel
theorem test_wf_backhaul_is_no_access : (Instr.accessTransmissionEnd (.bh .l0)).wellFormed = false := by decide
theorem test_wf_reflect_not_awaited : (Instr.creditReachesZero (.reflect .l1)).wellFormed = false := by decide
theorem test_wf_request : (Instr.activateSet hd no [f8 1 1]).wellFormed = true := by decide

/-! ## Values of the worked cases -/

/-- The check of "123456789" under R126's parameters, a known value of the 802.3 check. -/
theorem test_crc32 :
    crc32 [0x31#8, 0x32#8, 0x33#8, 0x34#8, 0x35#8, 0x36#8, 0x37#8, 0x38#8, 0x39#8] = 0xCBF43926#32 := by decide +kernel

/-- Chapter 4.7, case 1. -/
theorem test_allocation_case1 :
    allocate 522000
      [⟨true, ⟨300, 3, 0⟩, 250000⟩, ⟨true, ⟨300, 3, 0⟩, 90000⟩, ⟨true, ⟨200, 2, 200000⟩, 260000⟩, ⟨true, ⟨50, 1, 0⟩, 12000⟩,
       ⟨true, ⟨100, 1, 0⟩, 0⟩, ⟨false, ⟨0, 1, 0⟩, 0⟩, ⟨false, ⟨0, 1, 0⟩, 0⟩, ⟨false, ⟨0, 1, 0⟩, 0⟩]
      = (0, [172260, 156600, 114840, 26100, 52200, 0, 0, 0]) := by decide +kernel

/-- Chapter 4.7, case 2. -/
theorem test_allocation_case2 :
    (allocate 379500
      [⟨true, ⟨300, 3, 0⟩, 250000⟩, ⟨true, ⟨300, 3, 0⟩, 90000⟩, ⟨true, ⟨200, 2, 200000⟩, 260000⟩, ⟨true, ⟨50, 1, 0⟩, 12000⟩,
       ⟨true, ⟨100, 1, 0⟩, 0⟩, ⟨false, ⟨0, 1, 0⟩, 0⟩, ⟨false, ⟨0, 1, 0⟩, 0⟩, ⟨false, ⟨0, 1, 0⟩, 0⟩]).2.take 2
      = [125235, 113850] := by decide +kernel

/-- Chapter 5.10: the recompute at 100,003 ns. -/
theorem test_bucket_update :
    ({ rate := 26100, depth := 524288, credit := -8000, residue := 0, last := 0#64 } : Bucket).refresh 100003#64
      = { rate := 26100, depth := 524288, credit := -5390, residue := 78300, last := 100003#64 } := by decide

/-- Chapter 5.10: the credit reaches 0 at 384,057 ns and not before. -/
theorem test_bucket_reaches_zero :
    (({ rate := 18975, depth := 524288, credit := -5390, residue := 78300, last := 100003#64 } : Bucket).refresh
        384057#64).credit = 0
      ∧ (({ rate := 18975, depth := 524288, credit := -5390, residue := 78300, last := 100003#64 } : Bucket).refresh
        384056#64).credit = -1 := by decide

/-- Chapter 7.6: the rewritten field. -/
theorem test_correction : newCorrection 0 558383104 142300 = 9884155904 := by decide

/-- R125: a sum above the greatest value saturates. -/
theorem test_correction_saturates : newCorrection (2 ^ 63 - 2) 5 0 = 2 ^ 63 - 1 := by decide

/-- Chapter 6.10, edge 1: e = -300 disciplines, f becomes 1,268 and the slew +300. -/
theorem test_servo_edge1 :
    (let v := (Servo.disciplined factoryTiming (phaseErrorOf 999999700 0) 20000000000#64
        { resetServo with state := .locked, f := 1250, lockCtr := 9 })
     (v.f, v.slew, v.lockCtr, v.unlockCtr)) = (1268, 300, 0, 1) := by decide

/-- Chapter 6.10, edge 3: a move of +12,000 ns carries into the seconds. -/
theorem test_servo_move :
    SiteTime.move 12000 { seconds := 8421, nanos := 999988000, frac := 5 } = { seconds := 8422, nanos := 0, frac := 5 } := by
  decide

/-- R38: a pending profile of a lower rate is in force. -/
theorem test_profile_in_force :
    profileInForce { resetLink with current := 1, pending := some 2 }
      (Vector.ofFn fun i => { valid := true, rate := 1000 - 10 * i.val, overhead := 0, airDelay := 0 })
      = (2, .pending) := by decide

/-! ## One step of the rows -/

theorem test_reception_takes_stamp :
    after (exec (.frameReceptionBegins .sp) run) (fun t => (t.port .sp).rx == some 0) = true := by decide
/-- A reception that ends in RESET, on a port whose link is up. -/
theorem witness_ReceptionTakesTheStamp :
    let s := { receiving (.ap 0) run with startup := { run.startup with state := .reset } }
    (s.port (.ap 0)).linkUp = true ∧ (s.port (.ap 0)).rx = some 0 ∧ s.startup.state = .reset := by decide +kernel

/-- R6: a frame that begins in RESET and ends in CHECKING is a not-running discard. -/
theorem test_reception_over_the_release :
    after (exec (.frameReceptionBegins (.ap 0)) { run with startup := { run.startup with state := .reset } })
      (fun s => after (exec (.frameReceived (.ap 0) plain) { s with startup := { s.startup with state := .checking } })
        (fun t => ((t.port (.ap 0)).counters.get PortCounter.notRunning.idx).toNat == 1)) = true := by decide +kernel

theorem test_port_write :
    after (exec (.portWrite hd (ix 8) [f8 4 0]) run) (fun t => !(t.cfg.ports.get .sp).noticeDest) = true := by
  decide +kernel
theorem test_last_management_port_stays :
    after (exec (.portWrite hd (ix 8) [f8 3 0])
      { run with cfg := { run.cfg with ports := { run.cfg.ports with bh := .both (factoryPort false false) } } })
      (fun t => (t.cfg.ports.get .sp).mgmt) = true := by decide +kernel
theorem test_flow_write :
    after (exec (.flowWrite hd (key 0x001000000000) [f8 3 1, f8 4 0]) run) (fun t => t.flows.length == 1) = true := by
  decide +kernel
theorem test_flow_delete :
    after (exec (.flowDelete hd (ix 0) []) (withEntry (.ap 0) .forward .management run)) (fun t => t.flows.isEmpty)
      = true := by decide +kernel
theorem test_step_write_end :
    after (exec (.stepWrite hd (ix 31) [f8 11 1]) run) (fun t => (tget t.cfg.steps 31).last) = true := by decide +kernel
theorem test_schedule_write_orders :
    after (exec (.scheduleWrite hd no [f8 1 5, f8 2 2, fn 3 2 300])
      { run with cfg := { run.cfg with schedule := [{ time := 9, set := 1, tag := 0 }] } })
      (fun t => t.cfg.schedule.map (fun e => e.time) == [5, 9]) = true := by decide +kernel
theorem test_schedule_delete :
    after (exec (.scheduleDelete hd (key 9) [])
      { run with cfg := { run.cfg with schedule := [{ time := 9, set := 1, tag := 0 }] } })
      (fun t => t.cfg.schedule.isEmpty) = true := by decide +kernel
theorem test_timing_write_clamps :
    after (exec (.timingWrite hd no [f8 6 200]) run) (fun t => t.cfg.timing.gainShift == 7) = true := by decide +kernel
theorem test_pulse_output_write :
    after (exec (.pulseOutputWrite hd (ix 3) [f8 3 0]) run) (fun t => (tget t.cfg.pulses 3).policy == .always) = true := by
  decide +kernel
theorem test_notice_config_write :
    after (exec (.noticeConfigWrite hd no [f8 24 3]) run) (fun t => tget t.cfg.notice.levels 23 == 3) = true := by
  decide +kernel
theorem test_set_time_free_run :
    after (exec (.setTime hd no [f8 1 77, f8 2 5]) run)
      (fun t => t.time.valid && t.time.site == { seconds := 77, nanos := 5, frac := 0 }) = true := by decide +kernel
theorem test_stop_without_run :
    after (exec (.stopRun hd no [f8 1 0]) (withL0 (linkAt .inService)))
      (fun t => (t.link .l0).state == .inService) = true := by decide +kernel
theorem test_clear_conditions :
    after (exec (.clearConditions hd no []) (raise .mgmtRefused (some 1) run)) (fun t => !(t.latch .mgmtRefused).latched)
      = true := by decide +kernel
theorem test_clear_reset_cause :
    after (exec (.clearResetCause hd no []) run) (fun t => t.startup.causes == 0#5) = true := by decide +kernel
theorem test_erase_slot_begins :
    after (exec (.eraseSlot hd no [f8 1 2]) run) (fun t => slotReport t.store 2 == .invalid && t.store.op.isSome) = true := by
  decide +kernel
theorem test_write_info_refuses_group_address :
    after (exec (.writeInfo hd no [fn 1 6 0x010000000000, { id := 2, value := [] }]) run) (fun t => t.store.op.isNone)
      = true := by decide +kernel
theorem test_restart_needs_confirmation :
    after (exec (.restartFull hd no [f8 2 0]) run) (fun t => t.startup.state == .running) = true := by decide +kernel
theorem test_restart_full :
    after (exec (.restartFull hd no [f8 2 0xC3]) run) (fun t => t.startup.state == .reset && t.startup.causes == 9#5)
      = true := by decide +kernel
theorem test_flow_down :
    after (exec (.flowDown (.ap 3)) run) (fun t => !(t.port (.ap 3)).linkUp) = true := by decide +kernel
theorem test_port_link_up :
    after (exec (.portLinkUp (.ap 3)) State.reset) (fun t => (t.port (.ap 3)).linkUp) = true := by decide +kernel
theorem test_edge_too_early :
    after (exec (.ppsEdge 100) (withServo { resetServo with state := .locked, reference := some 0#64 } 0 400000000))
      (fun t => t.time.servo.rejected == 1#32 && (t.latch .ppsRejected).latched) = true := by decide +kernel
theorem test_first_edge_steps :
    after (exec (.ppsEdge 100) (withServo resetServo 999988000 7))
      (fun t => t.time.site.seconds == 8422 && t.time.site.nanos == 0 && t.time.servo.state == .acquiring) = true := by
  decide +kernel
theorem test_pulse_missing :
    after (exec .pulseMissingExpiry
      (withServo { resetServo with state := .locked, reference := some 0#64 } 0 1500000000))
      (fun t => t.time.servo.state == .holdover && (t.latch .timeHoldover).latched) = true := by decide +kernel
theorem test_holdover_limit :
    after (exec .holdoverLimitExpiry
      (withServo { resetServo with state := .holdover, holdoverEnds := some 14400000000000#64 } 0 14400000000000))
      (fun t => t.time.servo.state == .freeRun) = true := by decide +kernel
theorem test_slew_end :
    after (exec .slewEnd (withServo { resetServo with slew := 40, slewEnd := some 9#64 } 0 9)) (fun t => t.time.servo.slew == 0)
      = true := by decide +kernel
theorem test_pulse_rise_is_squelched :
    after (exec (.pulseOutputRise 0) (withServo resetServo 0 9)) (fun t => !(tget t.time.pulses 0).high) = true := by
  decide +kernel
theorem test_pulse_rise :
    after (exec (.pulseOutputRise 0) (withServo { resetServo with state := .locked } 0 9)) (fun t => (tget t.time.pulses 0).high)
      = true := by decide +kernel
theorem test_seconds_wrap :
    after (exec .siteSecondsWrap { run with time := { run.time with site := { seconds := 2 ^ 48, nanos := 0, frac := 0 } } })
      (fun t => t.time.site.seconds == 0) = true := by decide +kernel
theorem test_settle_ends_in_measure :
    after (exec (.phaseEnd .l0) (withRun (linkAt .qualifying) (ctxAt .settle loadStep) 0))
      (fun t => (t.ctx .l0).state == .measure && (t.ctx .l0).phaseEnd == some (afterMs 0 5)) = true := by decide +kernel
theorem test_store_recovery_ends :
    after (exec .storeRecoveryEnd
      { run with store := { run.store with op := some { job := .eraseSlot 1, phase := .recovery, done := 0, total := 0
                                                        ends := 0 } } })
      (fun t => t.store.op.isNone && (t.latch .storeDone).latched) = true := by decide +kernel
theorem test_short_dip_is_ignored : after (exec (.supplyLowReset 49999) run) (fun t => t == run) = true := by
  decide +kernel
theorem test_pin_reset :
    after (exec (.pinReset 1000) run) (fun t => t.startup.state == .reset && t.startup.causes == 5#5) = true := by
  decide +kernel
theorem test_release_waits_for_the_monitor_delay :
    after (exec (.resetRelease (.powerOn 49999) ⟨2, true⟩) State.reset) (fun t => t.startup == State.reset.startup) = true := by
  decide +kernel
theorem test_release_begins_checking :
    after (exec (.resetRelease (.powerOn 50000) ⟨2, true⟩) State.reset)
      (fun t => t.startup.state == .checking && t.startup.straps == ⟨2, true⟩
        && t.startup.group == some (0, afterNs 0 250000)) = true := by decide +kernel
theorem test_bad_group_is_retired :
    after (exec (.bufferGroupTested true)
      { run with startup := { run.startup with state := .checking, group := some (4, 0) } })
      (fun t => t.pool.retired == [4] && (t.latch .bufferRetired).detail == some 4) = true := by decide +kernel

/-! ## Witnesses: states and operands that meet the hypotheses of the statements -/

/-- SP accepts requests while the device runs. -/
theorem accepts_of {s : State} (h1 : s.startup.state = .running) (h2 : (s.cfg.ports.get .sp).mgmt = true)
    (h3 : s.placesTaken .sp < 16) : Accepts hd s := ⟨h1, h2, h3⟩

theorem accepts_run : Accepts hd run := accepts_of (by decide) (by decide) (by decide)

theorem accepts_L0 (u : LinkUnit) : Accepts hd (withL0 u) := accepts_of rfl rfl (show 0 < 16 by decide)

theorem accepts_run_L0 (u : LinkUnit) (c : Context) (now : Instant) : Accepts hd (withRun u c now) :=
  accepts_of rfl rfl (show 0 < 16 by decide)

/-- RUNNING with management permitted on SP alone. -/
def spOnly : State := { run with cfg := { run.cfg with ports := { run.cfg.ports with bh := .both (factoryPort false false) } } }

theorem witness_PortWriteReplacesTheRecord :
    (Accepts hd run ∧ selPort (ix 0) = some (.ap 0) ∧ portWriteOk (.ap 0) [fn 5 2 1518] run = true ∧ saveRuns run = false
      ∧ anyMgmt (run.cfg.ports.set (.ap 0) (portWritten [fn 5 2 1518] (run.cfg.ports.get (.ap 0)))) = true)
    ∧ (Accepts hd spOnly ∧ selPort (ix 8) = some .sp ∧ portWriteOk .sp [f8 3 0] spOnly = true ∧ saveRuns spOnly = false
      ∧ anyMgmt (spOnly.cfg.ports.set .sp (portWritten [f8 3 0] (spOnly.cfg.ports.get .sp))) = false) :=
  ⟨⟨accepts_run, by decide +kernel⟩, ⟨accepts_of rfl rfl (by decide), by decide +kernel⟩⟩

theorem witness_StepAndNoticeWritesReplaceTheirRecords :
    (Accepts hd run ∧ selIndex 32 (ix 31) = some 31 ∧ stepWriteOk [fn 2 2 9216, f8 1 1] = true ∧ saveRuns run = false)
    ∧ (Accepts hd run ∧ no.kind.toNat ≤ 3 ∧ noticeWriteOk [f8 24 3, fn 25 2 10000] = true ∧ saveRuns run = false) :=
  ⟨⟨accepts_run, by decide +kernel⟩, ⟨accepts_run, by decide +kernel⟩⟩

/-- A notice that has been pending for 10 s, and one for none. -/
theorem witness_StepAndNoticeWritesReplaceTheirRecords_pending :
    let s := (run.setNotice { last := some 0#64, pending := true, due := some 90000000000#64, built := 1#32, refused := 0#32 })
    let late := { s with time := { s.time with elapsed := BitVec.ofNat 80 (10000000000 * 65536) } }
    (noticeWriteOk [fn 25 2 10000] = true ∧ (bytes? [fn 25 2 10000] 25).isSome = true ∧ s.mgmt.notice.pending = true
      ∧ s.mgmt.notice.last = some 0#64 ∧ ¬10000 * 1000000 ≤ (s.nowNs - 0#64).toNat)
    ∧ (10000 * 1000000 ≤ (late.nowNs - 0#64).toNat ∧ (noticeWritten [fn 25 2 10000] late.cfg.notice).interval = 10000
      ∧ after (exec (.noticeConfigWrite hd no [fn 25 2 10000]) late) (fun t => !t.mgmt.notice.pending) = true) := by
  decide +kernel

/-- HOLDOVER for 60 s. -/
def holding : State :=
  withServo { resetServo with state := .holdover, holdoverStart := some 0#64, holdoverEnds := some 14400000000000#64 } 0
    60000000000

theorem witness_TimingWriteReplacesTheRecord :
    (Accepts hd run ∧ no.kind.toNat ≤ 3 ∧ timingWriteOk [f8 6 7] = true ∧ saveRuns run = false)
    ∧ (Accepts hd holding ∧ timingWriteOk [f8 7 1] = true ∧ saveRuns holding = false
      ∧ (bytes? [f8 7 1] 7).isSome = true ∧ holding.time.servo.state = .holdover
      ∧ holding.time.servo.holdoverStart = some 0#64
      ∧ reachedNs holding.nowNs (BitVec.ofNat 64 ((timingWritten [f8 7 1] holding.cfg.timing).holdoverLimit * 1000000000)) = true)
    ∧ (timingWriteOk [fn 7 2 50000] = true
      ∧ reachedNs holding.nowNs
          (BitVec.ofNat 64 ((timingWritten [fn 7 2 50000] holding.cfg.timing).holdoverLimit * 1000000000)) = false) :=
  ⟨⟨accepts_run, by decide +kernel⟩, ⟨accepts_of rfl rfl (by decide), by decide +kernel⟩, by decide +kernel⟩

theorem witness_PulseOutputWriteReplacesTheRecord :
    Accepts hd run ∧ selIndex 4 (ix 3) = some 3 ∧ pulseWriteOk [fn 1 3 999999, f8 3 1] = true ∧ saveRuns run = false :=
  ⟨accepts_run, by decide +kernel⟩

/-- A state with a full Flow Table. -/
def fullTable : State :=
  { run with flows := (List.range 1024).map fun n =>
      (n, newEntry { key := { port := .ap 1, vlan := some (n + 1) }, action := .discard, tenant := none, egress := none
                     pref := none, offset := none } .management) }

/-- A DISCARD entry for untagged frames of AP0. -/
def disc : FlowSpec :=
  { key := { port := .ap 0, vlan := none }, action := .discard, tenant := none, egress := none, pref := none, offset := none }

theorem witness_FlowWritePlacesOrReplaces :
    (Accepts hd run ∧ flowWriteSpec (key 0x001000000000) [f8 3 4] run = some disc ∧ saveRuns run = false
      ∧ findKey disc.key run.flows = none ∧ lowestFree run.flows = some 0)
    ∧ (Accepts hd fullTable ∧ flowWriteSpec (key 0x001000000000) [f8 3 4] fullTable = some disc
      ∧ saveRuns fullTable = false ∧ findKey disc.key fullTable.flows = none ∧ lowestFree fullTable.flows = none)
    ∧ (Accepts hd (withEntry (.ap 0) .discard .test run)
      ∧ flowWriteSpec (key 0x001000000000) [f8 3 4] (withEntry (.ap 0) .discard .test run) = some disc
      ∧ saveRuns (withEntry (.ap 0) .discard .test run) = false
      ∧ findKey disc.key (withEntry (.ap 0) .discard .test run).flows = some (0, entry (.ap 0) .discard .test))
    ∧ (Accepts hd (withEntry (.ap 0) .discard .management run)
      ∧ flowWriteSpec (key 0x001000000000) [f8 3 4] (withEntry (.ap 0) .discard .management run) = some disc
      ∧ saveRuns (withEntry (.ap 0) .discard .management run) = false
      ∧ findKey disc.key (withEntry (.ap 0) .discard .management run).flows
          = some (0, entry (.ap 0) .discard .management)) :=
  ⟨⟨accepts_run, by decide +kernel⟩, ⟨accepts_of rfl rfl (by decide), by decide +kernel⟩,
    ⟨accepts_run, by decide +kernel⟩, ⟨accepts_run, by decide +kernel⟩⟩

/-- A save under way on slot 0. -/
def saving : State :=
  { run with store := { run.store with
      op := some { job := .saveSlot 0 { classes := factoryClasses, flows := [] } 1, phase := .program, done := 0, total := 26
                   ends := 0 } } }

theorem witness_FlowDeleteFreesTheSlot :
    (Accepts hd run ∧ selFlow (ix 1023) = some (.slot 1023) ∧ (shapeTo 11).ok [] = true ∧ saveRuns run = false)
    ∧ (Accepts hd run ∧ selFlow (ix 1024) = none)
    ∧ (Accepts hd saving ∧ selFlow (ix 0) = some (.slot 0) ∧ (shapeTo 11).ok [] = true ∧ saveRuns saving = true) :=
  ⟨⟨accepts_run, by decide +kernel⟩, ⟨accepts_run, by decide⟩, ⟨accepts_of rfl rfl (by decide), by decide +kernel⟩⟩

/-- The named slot holds a MANAGEMENT entry, and a TEST entry. -/
theorem witness_FlowDeleteFreesTheSlot_found :
    (let s := withEntry (.ap 0) .forward .management run
     selFlow (ix 0) = some (.slot 0) ∧ namedFlow (.slot 0) s = some (0, entry (.ap 0) .forward .management))
    ∧ (let s := withEntry (.ap 0) .forward .test run
       namedFlow (.slot 0) s = some (0, entry (.ap 0) .forward .test)
        ∧ (entry (.ap 0) .forward .test).owner = .test) := by decide +kernel

/-- A guarantee of 1,001 per mille for T1 in every set. -/
def overShare : State :=
  { run with cfg := { run.cfg with
      sets := Vector.replicate 4 (Vector.ofFn fun i => { guarantee := if i = 0 then 1 else 1000, weight := 1, cap := 0 }) } }

theorem witness_TenantWriteReplacesTheRecord :
    (Accepts hd run ∧ selIndex 8 (ix 7) = some 7 ∧ tenantWriteOk [f8 1 1, fn 4 2 65535] = true ∧ saveRuns run = false)
    ∧ (Accepts hd overShare ∧ selIndex 8 (ix 1) = some 1 ∧ tenantWriteOk [f8 1 1] = true ∧ saveRuns overShare = false
      ∧ (tenantWritten [f8 1 1] (overShare.tenantCfg 1)).active = true ∧ (overShare.tenantCfg 1).active = false
      ∧ shareLaw (tset overShare.cfg.tenants 1 (tenantWritten [f8 1 1] (overShare.tenantCfg 1))) overShare.cfg.sets = false) :=
  ⟨⟨accepts_run, by decide +kernel⟩, ⟨accepts_of rfl rfl (by decide), by decide +kernel⟩⟩

theorem witness_ShareWritesReplaceAndCompute :
    (Accepts hd run ∧ namesParams (ix 0) = false ∧ selIndex 4 (ix 0) = some 0 ∧ shareWriteOk [fn 1 2 1000] = true
      ∧ saveRuns run = false ∧ guaranteeSum run.cfg.tenants (setWritten [fn 1 2 1000] (tget run.cfg.sets 0)) = 1000)
    ∧ (Accepts hd overShare ∧ namesParams (ix 3) = false ∧ selIndex 4 (ix 3) = some 3 ∧ shareWriteOk [f8 2 255] = true
      ∧ saveRuns overShare = false)
    ∧ (Accepts hd run ∧ paramWriteOk [fn 1 2 1000, fn 2 2 20000] = true ∧ saveRuns run = false) :=
  ⟨⟨accepts_run, by decide +kernel⟩, ⟨accepts_of rfl rfl (by decide), by decide +kernel⟩, ⟨accepts_run, by decide +kernel⟩⟩

theorem witness_ActivateSetComputes :
    (Accepts hd run ∧ no.kind.toNat ≤ 3 ∧ (shapeOf [1]).ok [f8 1 3] = true
      ∧ (num? [f8 1 3] 1).bind (finOf 4) = some (3 : Fin 4) ∧ saveRuns run = false)
    ∧ (Accepts hd run ∧ (num? [f8 1 4] 1).bind (finOf 4) = none)
    ∧ (Accepts hd saving ∧ (shapeOf [1]).ok [f8 1 0] = true ∧ (num? [f8 1 0] 1).bind (finOf 4) = some (0 : Fin 4)
      ∧ saveRuns saving = true) :=
  ⟨⟨accepts_run, by decide +kernel⟩, ⟨accepts_run, by decide +kernel⟩, ⟨accepts_of rfl rfl (by decide), by decide +kernel⟩⟩

/-- L0 in service with a REFLECT entry present. -/
def reflecting : State :=
  { withL0 (linkAt .inService) with share := { run.share with reflectPresent := ⟨true, false⟩ } }

theorem witness_LinkWriteReplacesTheRecord :
    (Accepts hd run ∧ selLink (ix 1) = some .l1 ∧ linkWriteOk [fn 14 3 100000] = true ∧ saveRuns run = false)
    ∧ (Accepts hd reflecting ∧ selLink (ix 0) = some .l0 ∧ linkWriteOk [f8 14 0] = true ∧ saveRuns reflecting = false
      ∧ reflecting.share.reflectPresent.get .l0 = true ∧ reflecting.inService .l0 = true
      ∧ (linkWritten [f8 14 0] (reflecting.cfg.links.get .l0)).reflectAllowance ≠ (reflecting.cfg.links.get .l0).reflectAllowance) :=
  ⟨⟨accepts_run, by decide +kernel⟩, ⟨accepts_of rfl rfl (by decide), by decide +kernel⟩⟩

/-- An in-service LOAD run of 5,000 kbit/s on a link of 10,000 kbit/s. -/
def loadRun : State :=
  withRun (linkAt .inService) { ctxAt .settle { loadStep with rate := 5000 } with inService := true } 0

theorem witness_ProfileWriteReportsTheLink :
    (Accepts hd run ∧ selProfile (ix (2 ^ 40 + 15)) = some (.l1, 15) ∧ profileWriteOk [f8 1 1, fn 2 3 2500000] = true
      ∧ saveRuns run = false)
    ∧ (Accepts hd loadRun ∧ selProfile (ix 0) = some (.l0, 0) ∧ profileWriteOk [f8 1 0] = true ∧ saveRuns loadRun = false
      ∧ losesProfile .l0 0 (profileWritten [f8 1 0] (tget (loadRun.cfg.profiles.get .l0) 0)) loadRun = true
      ∧ loadRun.inService .l0 = true ∧ (loadRun.ctx .l0).inService = true ∧ (loadRun.ctx .l0).state = .settle) :=
  ⟨⟨accepts_run, by decide +kernel⟩, ⟨accepts_of rfl rfl (by decide), by decide +kernel⟩⟩

/-- A schedule with one entry, and a valid site time of 5 s. -/
def scheduled : State :=
  { run with
    cfg := { run.cfg with schedule := [{ time := 9, set := 1, tag := 0 }] }
    time := { run.time with valid := true, site := { seconds := 5, nanos := 0, frac := 0 } } }

/-- A full schedule. -/
def fullSchedule : State :=
  { run with cfg := { run.cfg with schedule := (List.range 32).map fun n => { time := n + 1, set := 1, tag := 0 } } }

theorem witness_ScheduleWriteInsertsInOrder :
    (Accepts hd scheduled ∧ no.kind.toNat ≤ 3 ∧ writtenEntry [f8 1 5, f8 2 3, f8 3 0] = some { time := 5, set := 3, tag := 0 }
      ∧ saveRuns scheduled = false ∧ scheduled.time.valid = true ∧ 5 ≤ scheduled.time.site.seconds)
    ∧ (writtenEntry [f8 1 9, f8 2 3, f8 3 0] = some { time := 9, set := 3, tag := 0 }
      ∧ scheduled.cfg.schedule.any (fun x => x.time == 9) = true)
    ∧ (Accepts hd fullSchedule ∧ writtenEntry [f8 1 33, f8 2 3, f8 3 0] = some { time := 33, set := 3, tag := 0 }
      ∧ saveRuns fullSchedule = false ∧ fullSchedule.cfg.schedule.length = 32)
    ∧ (Accepts hd scheduled ∧ writtenEntry [f8 1 6, f8 2 3, f8 3 0] = some { time := 6, set := 3, tag := 0 }
      ∧ saveRuns scheduled = false ∧ scheduled.cfg.schedule.length < 32) :=
  ⟨⟨accepts_of rfl rfl (by decide), by decide +kernel⟩, by decide +kernel, ⟨accepts_of rfl rfl (by decide), by decide +kernel⟩,
    ⟨accepts_of rfl rfl (by decide), by decide +kernel⟩⟩

theorem witness_ScheduleDeleteRemovesTheEntry :
    (Accepts hd scheduled ∧ selEntry (key 9) = some (.time 9) ∧ (shapeTo 3).ok [] = true ∧ saveRuns scheduled = false
      ∧ scheduled.cfg.schedule.findIdx? (fun e => e.time == 9) = some 0)
    ∧ (Accepts hd scheduled ∧ selEntry (ix 1) = some (.position 1) ∧ ¬1 < scheduled.cfg.schedule.length)
    ∧ (Accepts hd scheduled ∧ selEntry (ix 0) = some (.position 0) ∧ 0 < scheduled.cfg.schedule.length) :=
  ⟨⟨accepts_of rfl rfl (by decide), by decide +kernel⟩, ⟨accepts_of rfl rfl (by decide), by decide +kernel⟩,
    ⟨accepts_of rfl rfl (by decide), by decide +kernel⟩⟩

theorem sorted_scheduled : scheduleLaw scheduled.cfg.schedule := by unfold scheduleLaw; decide

theorem witness_SetTimeSetsSiteTimeAndFires :
    Accepts hd scheduled ∧ scheduleLaw scheduled.cfg.schedule ∧ no.kind.toNat ≤ 3
      ∧ (shapeOf [1, 2]).ok [fn 1 6 (2 ^ 48 - 1), fn 2 4 999999999] = true
      ∧ num? [fn 1 6 (2 ^ 48 - 1), fn 2 4 999999999] 1 = some (2 ^ 48 - 1)
      ∧ num? [fn 1 6 (2 ^ 48 - 1), fn 2 4 999999999] 2 = some 999999999 :=
  ⟨accepts_of rfl rfl (by decide), sorted_scheduled, by decide +kernel⟩

theorem witness_AdmitPutsABarredLinkIntoService :
    (Accepts hd (withL0 (linkAt .barred)) ∧ no.kind.toNat ≤ 3 ∧ commandLink [f8 1 0] = some .l0
      ∧ ((withL0 (linkAt .barred)).link .l0).state = .barred ∧ ((withL0 (linkAt .barred)).link .l0).carrier = true)
    ∧ (Accepts hd run ∧ commandLink [f8 1 1] = some .l1 ∧ (run.link .l1).state ≠ .barred) :=
  ⟨⟨accepts_L0 _, by decide +kernel⟩, ⟨accepts_run, by decide +kernel⟩⟩

theorem witness_StopAbortsTheRun :
    (Accepts hd (withRun (linkAt .qualifying) (ctxAt .measure loadStep) 0) ∧ no.kind.toNat ≤ 3
      ∧ commandLink [f8 1 0] = some .l0
      ∧ ((withRun (linkAt .qualifying) (ctxAt .measure loadStep) 0).ctx .l0).underWay = true)
    ∧ (Accepts hd loadRun ∧ (loadRun.ctx .l0).underWay = true ∧ (loadRun.link .l0).state = .inService)
    ∧ (Accepts hd run ∧ (run.ctx .l0).underWay = false) :=
  ⟨⟨accepts_run_L0 _ _ _, by decide +kernel⟩, ⟨accepts_run_L0 _ _ _, by decide +kernel⟩, ⟨accepts_run, by decide +kernel⟩⟩

/-- A state whose L0 has a programme of one step. -/
def withProgramme (s : State) : State :=
  { s with cfg := { s.cfg with
      links := ⟨{ factoryLink 4000 with startIndex := some 31 }, factoryLink 4001⟩
      steps := tset s.cfg.steps 31 { loadStep with settle := 10000 } } }

/-- What a start of the programme asks for. -/
def startable (s : State) : Bool :=
  decide ((s.cfg.links.get .l0).startIndex = some (31 : Fin 32))
    && decide (((List.finRange 32).find? fun i => decide ((31 : Fin 32) ≤ i) && (tget s.cfg.steps i).last) = some 31)
    && decide (findKey { port := .bh .l0, vlan := some (s.cfg.links.get .l0).testVlan } s.flows = none)
    && decide (lowestFree s.flows = some 0) && decide (0 < (tget s.cfg.steps 31).settle)
    && decide ((tget s.cfg.steps 31).settle ≤ 10000) && decide ((tget s.cfg.steps 31).rate ≤ s.el .l0)

theorem witness_RetestStartsARun :
    (Accepts hd (withProgramme (withL0 (linkAt .barred))) ∧ commandLink [f8 1 0] = some .l0
      ∧ startable (withProgramme (withL0 (linkAt .barred))) = true)
    ∧ (Accepts hd (withProgramme (withL0 (linkAt .inService))) ∧ startable (withProgramme (withL0 (linkAt .inService))) = true
      ∧ ((withProgramme (withL0 (linkAt .inService))).ctx .l0).underWay = false)
    ∧ (Accepts hd loadRun ∧ (loadRun.link .l0).state = .inService ∧ (loadRun.ctx .l0).underWay = true)
    ∧ (Accepts hd run ∧ (run.link .l0).state ≠ .inService ∧ (run.link .l0).state ≠ .barred) :=
  ⟨⟨accepts_of rfl rfl (by decide), by decide +kernel⟩, ⟨accepts_of rfl rfl (by decide), by decide +kernel⟩,
    ⟨accepts_run_L0 _ _ _, by decide +kernel⟩, ⟨accepts_run, by decide +kernel⟩⟩

/-- The programme with a first SETTLE of 0 ms. -/
def settleAtOnce (r : StepRecord) : State :=
  let s := withProgramme (withL0 (linkAt .barred))
  { s with cfg := { s.cfg with steps := tset s.cfg.steps 31 { r with settle := 0, last := true } } }

theorem startable_settleAtOnce (r : StepRecord) : ((settleAtOnce r).cfg.links.get .l0).startIndex = some 31
    ∧ tget (settleAtOnce r).cfg.steps 31 = { r with settle := 0, last := true } := by
  refine ⟨rfl, ?_⟩
  simp [settleAtOnce, tget, tset]

theorem witness_RetestStartsARun_more :
    (Accepts hd (settleAtOnce loadStep) ∧ commandLink [f8 1 0] = some .l0
      ∧ Startable .l0 (settleAtOnce loadStep).cfg (settleAtOnce loadStep).flows 31 31 0
      ∧ (tget (settleAtOnce loadStep).cfg.steps 31).settle = 0 ∧ loadStep.kind ≠ .wait ∧ 0 < loadStep.measure)
    ∧ (let r := { loadStep with kind := .wait }
       Startable .l0 (settleAtOnce r).cfg (settleAtOnce r).flows 31 31 0 ∧ r.kind = .wait ∧ 0 < r.recover)
    ∧ (Accepts hd (withL0 (linkAt .barred)) ∧ ((withL0 (linkAt .barred)).link .l0).carrier = true
      ∧ startRefusal .l0 (withL0 (linkAt .barred)).cfg (withL0 (linkAt .barred)).flows = some .programmeInvalid)
    ∧ (startRefusal .l0 (withProgramme run).cfg
        [(0, testEntry { port := .bh .l0, vlan := some 4000 })] = some .keyInUse
      ∧ startRefusal .l0 (withProgramme run).cfg fullTable.flows = some .tableFull)
    ∧ (Accepts hd (withL0 (linkAt .inService)) ∧ ((withL0 (linkAt .inService)).ctx .l0).underWay = false) :=
  ⟨⟨accepts_of rfl rfl (by decide), by decide +kernel, ⟨by decide, by decide +kernel, by decide, by decide⟩, by decide +kernel,
      by decide, by decide⟩,
    ⟨⟨by decide, by decide +kernel, by decide, by decide⟩, by decide, by decide⟩, ⟨accepts_L0 _, rfl, by decide +kernel⟩,
    by decide +kernel, ⟨accepts_L0 _, rfl⟩⟩

theorem witness_ClearsClearWhatTheyName :
    (Accepts hd run ∧ no.kind.toNat ≤ 3 ∧ clearShape.ok [{ id := 1, value := [24#8, 0xFE#8] }] = true
      ∧ clearedBy [{ id := 1, value := [24#8, 0xFE#8] }] = some [.bufferRetired])
    ∧ (Accepts hd run ∧ clearShape.ok [] = true ∧ clearedBy [] = some allConds) :=
  ⟨⟨accepts_run, by decide +kernel⟩, ⟨accepts_run, by decide +kernel⟩⟩

/-- The page erased, and slot 1 written. -/
def oneWritten : State :=
  { run with store := { run.store with
      slots := tset run.store.slots 1 { erased := false, body := none, header := none, marker := 0x01#8 } } }

theorem witness_StoreCommandsBeginTheirOperations :
    (Accepts hd run ∧ no.kind.toNat ≤ 3 ∧ commandSlot [f8 1 3, fn 16 2 10000] = some 3 ∧ run.store.op = none
      ∧ slotReport run.store 3 = .erased)
    ∧ (Accepts hd oneWritten ∧ commandSlot [f8 1 1] = some 1 ∧ oneWritten.store.op = none
      ∧ (tget oneWritten.store.slots 1).marker ≠ 0#8)
    ∧ (Accepts hd run ∧ (writtenInfo [fn 1 6 0x020000000741, { id := 2, value := [0x41#8] }]).isSome = true
      ∧ pageReport run.store = .erased)
    ∧ (Accepts hd run ∧ (storeShape [1]).ok [f8 1 0xC3] = true ∧ timesOk [f8 1 0xC3] = true ∧ num? [f8 1 0xC3] 1 = some 0xC3) := by
  refine ⟨⟨accepts_run, by decide +kernel, by decide +kernel, rfl, ?_⟩, ⟨accepts_of rfl rfl (by decide), by decide +kernel⟩,
    ⟨accepts_run, by decide +kernel, ?_⟩, ⟨accepts_run, by decide +kernel⟩⟩ <;> decide +kernel

/-- A body of factory classes. -/
def body0 : SlotBody := { classes := factoryClasses, flows := [] }

/-- A body with a programme for L0. -/
def body1 : SlotBody := { classes := (withProgramme run).cfg, flows := [] }

/-- A state whose slot 2 is VALID and holds a body. -/
def slotted (b : SlotBody) (s : State) : State :=
  { s with store := { s.store with
      slots := tset s.store.slots 2
        { erased := false, body := some b, header := some { check := checkOf b, saveCount := 1 }, marker := 0x5A#8 }
      op := none } }

theorem slotted_slot (b : SlotBody) (s : State) : tget (slotted b s).store.slots 2 =
    { erased := false, body := some b, header := some { check := checkOf b, saveCount := 1 }, marker := 0x5A#8 } := by
  simp [slotted, tget, tset]

theorem slotted_valid (b : SlotBody) (s : State) : slotReport (slotted b s).store 2 = .valid := by
  show imageReport (tget (slotted b s).store.slots 2) = .valid
  rw [slotted_slot]
  simp [imageReport, markerValid]

theorem slotted_body (b : SlotBody) (s : State) : (tget (slotted b s).store.slots 2).body = some b := by rw [slotted_slot]

theorem witness_LoadSlotReplacesEveryClass :
    (Accepts hd (slotted body0 run) ∧ no.kind.toNat ≤ 3 ∧ commandSlot [f8 1 2] = some 2 ∧ (slotted body0 run).store.op = none
      ∧ slotReport (slotted body0 run).store 2 = .valid ∧ (tget (slotted body0 run).store.slots 2).body = some body0
      ∧ shareLaw body0.classes.tenants body0.classes.sets = true ∧ (∀ l, ((slotted body0 run).ctx l).underWay = false)
      ∧ (slotted body0 run).time.valid = false)
    ∧ (let s := slotted body0 loadRun
       Accepts hd s ∧ slotReport s.store 2 = .valid ∧ (s.ctx .l0).underWay = true ∧ (s.ctx .l1).underWay = false
        ∧ (s.link .l0).state = .inService ∧ s.time.valid = false)
    ∧ (let s := slotted body1 (withRun (linkAt .qualifying) (ctxAt .settle loadStep) 0)
       Accepts hd s ∧ slotReport s.store 2 = .valid ∧ (tget s.store.slots 2).body = some body1
        ∧ shareLaw body1.classes.tenants body1.classes.sets = true ∧ (s.ctx .l0).underWay = true
        ∧ (s.link .l0).state = .qualifying ∧ Startable .l0 body1.classes [] 31 31 0
        ∧ 0 < (tget body1.classes.steps 31).settle ∧ (tget body1.classes.steps 31).settle ≤ 10000) :=
  ⟨⟨accepts_of rfl rfl (by decide), by decide, by decide +kernel, rfl, slotted_valid _ _, slotted_body _ _, by decide +kernel,
      fun l => by cases l <;> rfl, rfl⟩,
    ⟨accepts_of rfl rfl (by decide), slotted_valid _ _, rfl, rfl, rfl, rfl⟩,
    ⟨accepts_of rfl rfl (by decide), slotted_valid _ _, slotted_body _ _, by decide +kernel, rfl, rfl,
      ⟨by decide, by decide +kernel, by decide, by decide⟩, by decide +kernel, by decide +kernel⟩⟩

theorem witness_RestartFullResets :
    Accepts hd run ∧ no.kind.toNat ≤ 3 ∧ (shapeOf [1, 2]).ok (restartBody 1 [f8 2 0xC3]) = true
      ∧ num? (restartBody 1 [f8 2 0xC3]) 2 = some 0xC3 := ⟨accepts_run, by decide +kernel⟩

theorem witness_RestartTrafficFlushes :
    Accepts hd run ∧ no.kind.toNat ≤ 3 ∧ (shapeOf [1, 2]).ok (restartBody 2 [f8 2 0xC3]) = true
      ∧ num? (restartBody 2 [f8 2 0xC3]) 2 = some 0xC3 ∧ ∀ l, (run.ctx l).underWay = false :=
  ⟨accepts_run, by decide, by decide +kernel, by decide +kernel, fun l => by cases l <;> rfl⟩

/-- FAULT, and runs under way in both states of a link. -/
theorem witness_RestartTrafficFlushes_more :
    (let s := { run with startup := { run.startup with state := .fault } }
     s.startup.state = .fault ∧ hd.port = .sp ∧ (s.cfg.ports.get hd.port).mgmt = true ∧ s.placesTaken hd.port < 16)
    ∧ (Accepts hd loadRun ∧ (loadRun.ctx .l0).underWay = true ∧ (loadRun.ctx .l1).underWay = false
      ∧ (loadRun.link .l0).state = .inService)
    ∧ (let s := withProgramme (withRun (linkAt .qualifying) (ctxAt .settle loadStep) 0)
       Accepts hd s ∧ (s.ctx .l0).underWay = true ∧ (s.link .l0).state = .qualifying
        ∧ Startable .l0 s.cfg (withoutTest .l0 s) 31 31 0)
    ∧ (let s := withRun (linkAt .qualifying) (ctxAt .settle loadStep) 0
       startRefusal .l0 s.cfg (withoutTest .l0 s) = some .programmeInvalid) :=
  ⟨by decide, ⟨accepts_run_L0 _ _ _, by decide +kernel⟩,
    ⟨accepts_of rfl rfl (by decide), rfl, rfl, ⟨by decide, by decide +kernel, by decide, by decide⟩⟩, by decide +kernel⟩

theorem witness_RefusedRequestsChangeNothing :
    (requestByKind 4 0x101 no [f8 1 4] run).1.status = .invalidValue := by decide +kernel

/-- A state with a full local queue on SP. -/
def fullLocal : State :=
  run.setLocalQ .sp (List.replicate 16 (.notice (noticeNow run)))

/-- 15 frames in the local queue of SP, and one of the port's local frames under transmission. -/
def sendingLocal : State :=
  beginTx .sp (.store (.notice (noticeNow run))) [] (run.setLocalQ .sp (List.replicate 15 (.notice (noticeNow run))))

/-- R17: the frame under transmission holds the sixteenth place until its end, so a request is refused before it. -/
theorem test_place_held_until_the_end :
    after (exec (.activateSet hd no []) sendingLocal) (fun t =>
      t.placesTaken .sp == 16 && (tget (t.port .sp).counters (PortCounter.idx .mgmtRefusals)) == 1) = true
    ∧ after (exec (.accessTransmissionEnd .sp) sendingLocal) (fun t => t.placesTaken .sp == 15) = true := by
  decide +kernel

theorem witness_RequestsOutsideRunningAndRefused :
    (requestHeader (.activateSet { hd with port := .ap 0 } no []) = some { hd with port := .ap 0 }
      ∧ run.startup.state = .running ∧ (run.cfg.ports.get (.ap 0)).mgmt = false)
    ∧ (requestHeader (.activateSet hd no []) = some hd ∧ (fullLocal.cfg.ports.get .sp).mgmt = true
      ∧ 16 ≤ fullLocal.placesTaken .sp ∧ 16 ≤ sendingLocal.placesTaken .sp)
    ∧ ({ run with startup := { run.startup with state := .loading } } : State).startup.state = .loading
    ∧ (isRestart (.activateSet hd no []) = false
      ∧ ({ run with startup := { run.startup with state := .fault } } : State).startup.state = .fault
      ∧ (run.cfg.ports.get .sp).mgmt = true ∧ run.placesTaken .sp < 16) := by decide +kernel

/-! ### Frames -/

theorem plain_reaches (p : Port) (s : State) (h1 : lengthOk p plain s = true) (h2 : s.startup.state = .running) :
    Reaches p plain s := ⟨h1, by decide +kernel, by decide +kernel, h2⟩

theorem plain_classified (p : Port) (s : State) (h1 : lengthOk p plain s = true) (h2 : s.startup.state = .running) :
    Classified p plain s := ⟨plain_reaches p s h1 h2, by decide +kernel, by decide +kernel⟩

theorem witness_RequestFrameIsItsRow :
    ((receiving .sp run).port .sp).rx = some 0 ∧ Reaches .sp request1 (receiving .sp run) ∧ isRequest request1 = true
      ∧ dstOf request1 = (receiving .sp run).store.runAddr ∧ headerComplete request1 = true
      ∧ (parseRequest (payload request1)).body = some [f8 1 1]
      ∧ rowOf (headerOf .sp request1) (parseRequest (payload request1)).kind (parseRequest (payload request1)).code
          (parseRequest (payload request1)).sel [f8 1 1] = some (.activateSet (headerOf .sp request1) no [f8 1 1]) :=
  ⟨rfl, ⟨by decide +kernel, by decide +kernel, by decide +kernel, rfl⟩, by decide +kernel⟩

/-- A request frame: READ of the PORT record of SP. -/
def read8 : List Byte :=
  frame (addrs ++ [0x88#8, 0xB5#8, 0x01#8, 0x01#8, 0x00#8, 0x07#8, 0x00#8, 0x01#8, 0x00#8] ++ natToBytes 6 8 ++ natToBytes 2 0)

theorem witness_RequestFrameIsItsRow_read :
    let s := receiving .sp run
    let r := parseRequest (payload read8)
    (s.port .sp).rx = some 0 ∧ Reaches .sp read8 s ∧ isRequest read8 = true ∧ dstOf read8 = s.store.runAddr
      ∧ headerComplete read8 = true ∧ r.body = some [] ∧ r.kind = 1 ∧ r.code = 1 ∧ r.sel = ix 8
      ∧ (readRequest r.code r.sel [] s).1.status = .ok ∧ (s.cfg.ports.get .sp).mgmt = true ∧ s.placesTaken .sp < 16 :=
  ⟨rfl, ⟨by decide +kernel, by decide +kernel, by decide +kernel, rfl⟩, by decide +kernel⟩

/-- RUNNING with no active tenant. -/
def idleTenants : State :=
  { run with cfg := { run.cfg with tenants := run.cfg.tenants.map fun c => { c with active := false } } }

/-- RUNNING with no free cell. -/
def noCells : State := { run with pool := { free := [], retired := [] } }

/-- A frame that is one byte too short, one with a wrong FCS, and one with VLAN 4,095. -/
theorem witness_DiscardedFramesAreCounted :
    (((receiving (.ap 0) run).port (.ap 0)).rx = some 0
      ∧ discardCounter (.ap 0) (List.replicate 63 0#8) (receiving (.ap 0) run) = some .lengthErrors)
    ∧ discardCounter (.ap 0) (List.replicate 64 0#8) (receiving (.ap 0) run) = some .checkErrors
    ∧ discardCounter (.ap 0) (frame (addrs ++ [0x81#8, 0x00#8, 0x0F#8, 0xFF#8])) (receiving (.ap 0) run) = some .tagErrors
    ∧ discardCounter (.ap 0) plain { run with startup := { run.startup with state := .checking } } = some .notRunning
    ∧ discardCounter .sp notice0 run = some .misdirected
    ∧ discardCounter (.bh .l0) plain run = some .flowMisses := by decide +kernel

/-- The counters of FAULT, and the discards of frames that match an entry. -/
theorem witness_DiscardedFramesAreCounted_more :
    (let s := { run with startup := { run.startup with state := .fault }, store := { run.store with runAddr := 1#48 } }
     discardCounter .sp request1 s = some .misdirected ∧ discardCounter (.ap 0) request1 s = some .notRunning
      ∧ discardCounter .sp request1 { s with startup := run.startup } = some .misdirected)
    ∧ (let s := receiving (.ap 0) (withEntry (.ap 0) .discard .management run)
       Classified (.ap 0) plain s ∧ findKey (frameKey (.ap 0) plain) s.flows = some (0, entry (.ap 0) .discard .management))
    ∧ (let s := receiving (.bh .l0) (withEntry (.bh .l0) .testReturn .test run)
       Classified (.bh .l0) plain s ∧ isTestFrame plain = false
        ∧ findKey (frameKey (.bh .l0) plain) s.flows = some (0, entry (.bh .l0) .testReturn .test))
    ∧ (let s := receiving (.ap 0) (withEntry (.ap 0) .timing .management idleTenants)
       Classified (.ap 0) plain s ∧ (s.tenantCfg 0).active = false
        ∧ findKey (frameKey (.ap 0) plain) s.flows = some (0, entry (.ap 0) .timing .management)) :=
  ⟨by decide +kernel, ⟨plain_classified _ _ (by decide +kernel) rfl, by decide +kernel⟩,
    ⟨plain_classified _ _ (by decide +kernel) rfl, by decide +kernel⟩,
    ⟨plain_classified _ _ (by decide +kernel) rfl, by decide +kernel⟩⟩

theorem witness_UpstreamFramesJoinTheirTenantsQueue :
    (((receiving (.ap 0) run).port (.ap 0)).rx = some 0 ∧ roleOf (.ap 0) ≠ .backhaul
      ∧ Classified (.ap 0) plain (receiving (.ap 0) run)
      ∧ tenantOf (.ap 0) plain (receiving (.ap 0) run) = some (0, .any)
      ∧ ((receiving (.ap 0) run).tenantCfg 0).active = true)
    ∧ (tenantOf (.ap 0) plain (withEntry (.ap 0) .forward .management run) = some (0, .any)) :=
  ⟨⟨rfl, by decide, plain_classified _ _ (by decide +kernel) rfl, by decide +kernel, by decide +kernel⟩, by decide +kernel⟩

theorem witness_UpstreamFramesJoinTheirTenantsQueue_drop :
    (let s := receiving (.ap 0) noCells
     Classified (.ap 0) plain s ∧ tenantOf (.ap 0) plain s = some (0, .any) ∧ (s.tenantCfg 0).active = true
      ∧ ¬(plain.length + 255) / 256 ≤ s.pool.free.length)
    ∧ (let s := receiving (.ap 0) idleTenants
       Classified (.ap 0) plain s ∧ tenantOf (.ap 0) plain s = some (0, .any) ∧ (s.tenantCfg 0).active = false) :=
  ⟨⟨plain_classified _ _ (by decide +kernel) rfl, by decide +kernel⟩, ⟨plain_classified _ _ (by decide +kernel) rfl, by decide +kernel⟩⟩

theorem witness_UpstreamTimingFramesJoinTheTimingQueue :
    let s := receiving (.ap 0) (withEntry (.ap 0) .timing .management run)
    (s.port (.ap 0)).rx = some 0 ∧ Classified (.ap 0) plain s
      ∧ findKey (frameKey (.ap 0) plain) s.flows = some (0, entry (.ap 0) .timing .management)
      ∧ (s.tenantCfg 0).active = true :=
  ⟨rfl, plain_classified _ _ (by decide +kernel) rfl, by decide +kernel⟩

theorem witness_UpstreamTimingFramesJoinTheTimingQueue_drop :
    let s := receiving (.ap 0) (withEntry (.ap 0) .timing .management noCells)
    Classified (.ap 0) plain s ∧ findKey (frameKey (.ap 0) plain) s.flows = some (0, entry (.ap 0) .timing .management)
      ∧ (s.tenantCfg 0).active = true ∧ ¬(plain.length + 255) / 256 ≤ s.pool.free.length :=
  ⟨plain_classified _ _ (by decide +kernel) rfl, by decide +kernel⟩

theorem witness_DownstreamFramesJoinTheirEgressQueue :
    let s := receiving (.bh .l0) (withEntry (.bh .l0) .forward .management run)
    (s.port (.bh .l0)).rx = some 0 ∧ Classified (.bh .l0) plain s
      ∧ findKey (frameKey (.bh .l0) plain) s.flows = some (0, entry (.bh .l0) .forward .management)
      ∧ (entry (.bh .l0) .forward .management).spec.egress = some .sp ∧ (s.port .sp).linkUp = true :=
  ⟨rfl, plain_classified _ _ (by decide +kernel) rfl, by decide +kernel⟩

/-- The egress port's link down, no free cell, and the action TIMING. -/
theorem witness_DownstreamFramesJoinTheirEgressQueue_more :
    (let s := receiving (.bh .l0) (withEntry (.bh .l0) .forward .management (run.setPort .sp resetPort))
     Classified (.bh .l0) plain s ∧ (s.port .sp).linkUp = false
      ∧ findKey (frameKey (.bh .l0) plain) s.flows = some (0, entry (.bh .l0) .forward .management))
    ∧ (let s := receiving (.bh .l0) (withEntry (.bh .l0) .forward .management noCells)
       Classified (.bh .l0) plain s ∧ (s.port .sp).linkUp = true ∧ ¬(plain.length + 255) / 256 ≤ s.pool.free.length
        ∧ findKey (frameKey (.bh .l0) plain) s.flows = some (0, entry (.bh .l0) .forward .management))
    ∧ (let s := receiving (.bh .l0) (withEntry (.bh .l0) .timing .management run)
       Classified (.bh .l0) plain s
        ∧ findKey (frameKey (.bh .l0) plain) s.flows = some (0, entry (.bh .l0) .timing .management)) :=
  ⟨⟨plain_classified _ _ (by decide +kernel) rfl, by decide +kernel⟩, ⟨plain_classified _ _ (by decide +kernel) rfl, by decide +kernel⟩,
    ⟨plain_classified _ _ (by decide +kernel) rfl, by decide +kernel⟩⟩

theorem witness_ReflectedFramesAreChargedAndQueued :
    let s := receiving (.bh .l0) (withEntry (.bh .l0) .reflect .management run)
    (s.port (.bh .l0)).rx = some 0 ∧ Classified (.bh .l0) plain s
      ∧ findKey (frameKey (.bh .l0) plain) s.flows = some (0, entry (.bh .l0) .reflect .management)
      ∧ 0 ≤ ((s.bucket (.reflect .l0)).refresh s.nowNs).credit :=
  ⟨rfl, plain_classified _ _ (by decide +kernel) rfl, by decide +kernel⟩

/-- A reflect bucket in debt, and a test frame that takes the peer receive stamp. -/
theorem witness_ReflectedFramesAreChargedAndQueued_more :
    (let s0 := withEntry (.bh .l0) .reflect .management run
     let s := receiving (.bh .l0) { s0 with sched := { s0.sched with
       reflect := .both { rate := 0, depth := 147456, credit := -1, residue := 0, last := 0#64 } } }
     Classified (.bh .l0) plain s ∧ ¬0 ≤ ((s.bucket (.reflect .l0)).refresh s.nowNs).credit
      ∧ findKey (frameKey (.bh .l0) plain) s.flows = some (0, entry (.bh .l0) .reflect .management))
    ∧ (let s := receiving (.bh .l0) (withEntry (.bh .l0) .reflect .management run)
       Classified (.bh .l0) return3 s ∧ isTestFrame return3 = true ∧ holdsPayload return3 32 = true
        ∧ findKey (frameKey (.bh .l0) return3) s.flows = some (0, entry (.bh .l0) .reflect .management)) :=
  ⟨⟨plain_classified _ _ (by decide +kernel) rfl, by decide +kernel⟩,
    ⟨⟨⟨by decide +kernel, by decide +kernel, by decide +kernel, rfl⟩, by decide +kernel, by decide +kernel⟩, by decide +kernel⟩⟩

theorem witness_ReturnsAreCountedForTheirRun :
    let s := receiving (.bh .l0) (withEntry (.bh .l0) .testReturn .test
      (withRun (linkAt .qualifying) { ctxAt .measure loadStep with range := some (3#32, 3#32) } 0))
    (s.port (.bh .l0)).rx = some 0 ∧ Classified (.bh .l0) return3 s
      ∧ findKey (frameKey (.bh .l0) return3) s.flows = some (0, entry (.bh .l0) .testReturn .test)
      ∧ isTestFrame return3 = true ∧ pbyte (payload return3) 1 = (s.ctx .l0).runNo
      ∧ inMeasureRange (s.ctx .l0) (bytesToNat (slice 4 4 (payload return3))) = true :=
  ⟨rfl, ⟨⟨by decide +kernel, by decide +kernel, by decide +kernel, rfl⟩, by decide +kernel, by decide +kernel⟩,
    by decide +kernel⟩

theorem notice0_reaches (s : State) (h1 : lengthOk (.bh .l0) notice0 s = true) (h2 : s.startup.state = .running) :
    Reaches (.bh .l0) notice0 s := ⟨h1, by decide +kernel, by decide +kernel, h2⟩

theorem notice0_parsed : isRequest notice0 = false ∧ isRateNotice notice0 = true
    ∧ parseNotice (payload notice0) = some { current := true, index := some 0, level := 9#8 } := by decide +kernel

theorem witness_CurrentNoticeUpdatesTheLink :
    let s := receiving (.bh .l0) (withL0 (linkAt .inService))
    (s.port (.bh .l0)).rx = some 0 ∧ Reaches (.bh .l0) notice0 s ∧ (s.link .l0).state ≠ .down
      ∧ (s.link .l0).state ≠ .faded ∧ (s.ctx .l0).underWay = false :=
  ⟨rfl, notice0_reaches _ (by decide +kernel) rfl, by decide +kernel⟩

/-- A rate notice with a kind, a carrier and an index. -/
def noticeOf (kind carrier index : Nat) : List Byte :=
  frame (addrs ++ [0x88#8, 0xB5#8, 0x03#8, BitVec.ofNat 8 kind, BitVec.ofNat 8 carrier, BitVec.ofNat 8 index, 0x09#8])

/-- A PENDING notice with and without carrier, a malformed one, and a CURRENT one during an in-service run. -/
theorem witness_CurrentNoticeUpdatesTheLink_more :
    (let s := receiving (.bh .l0) (withL0 (linkAt .inService))
     Reaches (.bh .l0) (noticeOf 2 1 1) s ∧ isRequest (noticeOf 2 1 1) = false ∧ isRateNotice (noticeOf 2 1 1) = true
      ∧ parseNotice (payload (noticeOf 2 1 1)) = some { current := false, index := some 1, level := 9#8 }
      ∧ (s.link .l0).carrier = true ∧ (s.ctx .l0).underWay = false ∧ (run.link .l0).carrier = false)
    ∧ (parseNotice (payload (noticeOf 3 1 1)) = none ∧ isRateNotice (noticeOf 3 1 1) = true
      ∧ parseNotice (payload (noticeOf 1 1 16)) = none)
    ∧ (let s := receiving (.bh .l0) loadRun
       Reaches (.bh .l0) notice0 s ∧ (s.link .l0).state = .inService ∧ (s.ctx .l0).underWay = true) :=
  ⟨⟨⟨by decide +kernel, by decide +kernel, by decide +kernel, rfl⟩, by decide +kernel⟩, by decide +kernel,
    ⟨notice0_reaches _ (by decide +kernel) rfl, by decide +kernel⟩⟩

theorem witness_CurrentNoticeAdmitsTheLink :
    (let s := receiving (.bh .l0) (withL0 (linkAt .faded))
     (s.port (.bh .l0)).rx = some 0 ∧ Reaches (.bh .l0) notice0 s ∧ (s.link .l0).state = .faded)
    ∧ (let s := receiving (.bh .l0) run
       (s.port (.bh .l0)).rx = some 0 ∧ Reaches (.bh .l0) notice0 s ∧ (s.link .l0).state = .down
        ∧ (s.cfg.links.get .l0).startIndex = none)
    ∧ (let s := receiving (.bh .l0) (withProgramme run)
       Reaches (.bh .l0) notice0 s ∧ (s.link .l0).state = .down ∧ s.startup.straps.bringup = false
        ∧ (s.link .l0).admitted = false) :=
  ⟨⟨rfl, notice0_reaches _ (by decide +kernel) rfl, rfl⟩, ⟨rfl, notice0_reaches _ (by decide +kernel) rfl, rfl, rfl⟩,
    ⟨notice0_reaches _ (by decide +kernel) rfl, rfl, rfl, rfl⟩⟩

/-- A DOWN link with a programme that starts, and one whose key is in use. -/
theorem witness_CurrentNoticeAdmitsTheLink_run :
    let s := receiving (.bh .l0) { withProgramme run with startup := { run.startup with straps := ⟨0, true⟩ } }
    (Reaches (.bh .l0) notice0 s ∧ (s.link .l0).state = .down ∧ (s.cfg.links.get .l0).startIndex ≠ none
      ∧ s.startup.straps.bringup = true ∧ Startable .l0 s.cfg s.flows 31 31 0)
    ∧ startRefusal .l0 s.cfg [(0, testEntry { port := .bh .l0, vlan := some 4000 })] = some .keyInUse :=
  ⟨⟨notice0_reaches _ (by decide +kernel) rfl, rfl, by decide, rfl, ⟨by decide, by decide +kernel, by decide, by decide⟩⟩,
    by decide +kernel⟩

/-- A transmission of a plain frame that ends at 0. -/
def sending (p : Port) (s : State) : State :=
  let d : Descriptor := { plainDescriptor .tenant plain with tenant := some 0, cells := [50] }
  s.setPort p { s.port p with tx := some { item := .pool d, bytes := plain, ends := 0 } }

theorem witness_AccessLinkLossFlushesThePort :
    (roleOf (.ap 7) ≠ .backhaul ∧ ((sending (.ap 7) run).port (.ap 7)).linkUp = true)
    ∧ (roleOf .sp ≠ .backhaul ∧ (State.reset.port .sp).linkUp = false) := by decide +kernel

theorem witness_BackhaulLinkLossFadesTheLink :
    (((withL0 (linkAt .inService)).port (.bh .l0)).linkUp = true ∧ ((withL0 (linkAt .inService)).link .l0).state = .inService
      ∧ ((withL0 (linkAt .inService)).ctx .l0).underWay = false ∧ 0 < ((withL0 (linkAt .inService)).cfg.links.get .l0).holdOff)
    ∧ ((withL0 (linkAt .barred)).port (.bh .l0)).linkUp = true ∧ ((withL0 (linkAt .barred)).link .l0).state = .barred := by
  decide +kernel

/-- Runs under way in both states, and notices with carrier absent. -/
theorem witness_BackhaulLinkLossFadesTheLink_more :
    ((loadRun.port (.bh .l0)).linkUp = true ∧ (loadRun.ctx .l0).underWay = true ∧ (loadRun.link .l0).state = .inService)
    ∧ (let s := withRun (linkAt .qualifying) (ctxAt .settle loadStep) 0
       (s.port (.bh .l0)).linkUp = true ∧ (s.ctx .l0).underWay = true ∧ (s.link .l0).state = .qualifying)
    ∧ (Reaches (.bh .l0) (noticeOf 1 0 0) (receiving (.bh .l0) loadRun)
      ∧ parseNotice (payload (noticeOf 1 0 0)) = some { current := true, index := none, level := 9#8 }
      ∧ parseNotice (payload (noticeOf 2 0 0)) = some { current := false, index := none, level := 9#8 }) :=
  ⟨by decide +kernel, by decide +kernel, ⟨⟨by decide +kernel, by decide +kernel, by decide +kernel, rfl⟩, by decide +kernel⟩⟩

theorem witness_LinkUpIsTaken : (State.reset.port .sp).linkUp = false ∧ (run.port .sp).linkUp = true := by decide

theorem witness_AccessTransmissionEnds :
    (Port.ap 0).isAccess = true ∧ (((sending (.ap 0) run).port (.ap 0)).tx.map fun x => x.ends) = some 0
      ∧ reached (sending (.ap 0) run).now 0 = true
      ∧ reached ({ sending (.ap 0) run with time := { run.time with elapsed := -1 } } : State).now 0 = false := by
  decide +kernel

theorem witness_BackhaulTransmissionEnds :
    (((sending (.bh .l1) run).port (.bh .l1)).tx.map fun x => x.ends) = some 0
      ∧ reached (sending (.bh .l1) run).now 0 = true := by decide +kernel

/-- L0 in service and idle; T1's queue holds a frame that is past its age and one that is not. -/
def walking : State :=
  let d : Descriptor := { plainDescriptor .tenant plain with tenant := some 1, cells := [50] }
  let s := idleTenants
  { s with
    cfg := { s.cfg with tenants := tset s.cfg.tenants 1 { tget s.cfg.tenants 1 with active := true } }
    links := ⟨linkAt .inService, resetLink⟩
    time := { s.time with elapsed := BitVec.ofNat 80 (4000000000000 * 65536) }
    queues := { s.queues with
      tenant := tset s.queues.tenant 1 [d, { d with cells := [51], arrival := BitVec.ofNat 80 (4000000000000 * 65536) }] } }

theorem witness_BackhaulTransmissionEnds_pass :
    (ReadyNow .l0 walking ∧ Walks .l0 walking)
    ∧ (tenantServed .l0 walking = some 1 ∧ (agedHeads walking 1).length = 1
      ∧ ((freshQ walking 1).head?.map fun d => d.cells) = some [51])
    ∧ (let s := (sending (.bh .l1) run).setLocalQ (.bh .l1) [.notice (noticeNow run)]
       let t := { s with ports := s.ports.set (.bh .l1) { s.port (.bh .l1) with tx := none } }
       ReadyNow .l1 t ∧ passTakes .l1 t = some (.store (.notice (noticeNow run)))) :=
  ⟨⟨⟨by decide +kernel, by decide +kernel, by decide +kernel⟩, ⟨by decide +kernel, by decide +kernel, by decide +kernel⟩⟩,
    by decide +kernel, ⟨by decide +kernel, by decide +kernel, by decide +kernel⟩, by decide +kernel⟩

/-- A pacing credit of -1 bit that has grown by a bit. -/
def owing : State :=
  { run with
    sched := { run.sched with pacing := ⟨{ rate := 1000, depth := 147456, credit := -1, residue := 0, last := 0#64 },
                                         run.sched.pacing.l1⟩ }
    time := { run.time with elapsed := BitVec.ofNat 80 (1000 * 65536) } }

theorem witness_CreditStartsTheArbiter :
    (BucketId.pacing .l0).awaited = true
      ∧ ((owing.bucket (.pacing .l0)).credit < 0 ∧ 0 ≤ ((owing.bucket (.pacing .l0)).refresh owing.nowNs).credit)
      ∧ ¬((run.bucket .timing).credit < 0) := by decide +kernel

/-- A timing credit of -1 bit that has grown by a bit, while only L0's port is idle. -/
theorem witness_CreditStartsTheArbiter_shared :
    let s := { (sending (.bh .l1) walking) with
      sched := { run.sched with timing := { rate := 1000, depth := 147456, credit := -1, residue := 0, last := 0#64 } } }
    ((s.bucket .timing).credit < 0 ∧ 0 ≤ ((s.bucket .timing).refresh s.nowNs).credit ∧ isShared .timing = true)
    ∧ ReadyNow .l0 s ∧ ¬ReadyNow .l1 s ∧ (passTakes .l0 s).isSome = true ∧ TestQueues s :=
  ⟨by decide +kernel, ⟨by decide +kernel, by decide +kernel, by decide +kernel⟩, fun h => absurd h.2.1 (by decide +kernel),
    by decide +kernel, fun l d h => by cases l <;> cases h⟩

/-! ### Timers -/

theorem witness_DemandWindowExpiryMeasures :
    let s := { run with share := { run.share with window := some { lengthMs := 100, ends := 0 } } }
    s.share.window = some { lengthMs := 100, ends := 0 } ∧ reached s.now 0 = true
      ∧ reached ({ s with time := { run.time with elapsed := -1 } } : State).now 0 = false := by decide +kernel

theorem witness_LinkTimersExpire :
    (let s := withL0 { linkAt .inService with supTimer := some 0 }
     (s.link .l0).supTimer = some 0 ∧ reached s.now 0 = true ∧ (s.link .l0).state = .inService
      ∧ (s.ctx .l0).underWay = false)
    ∧ (let s := withRun { linkAt .qualifying with supTimer := some 0 } (ctxAt .settle loadStep) 0
       (s.link .l0).supTimer = some 0 ∧ reached s.now 0 = true ∧ (s.link .l0).state = .qualifying
        ∧ (s.ctx .l0).underWay = true ∧ (s.link .l0).stale = false)
    ∧ (let s := withL0 { linkAt .inService with pendTimer := some 0, supTimer := some 1, pending := some 1 }
       (s.link .l0).pendTimer = some 0 ∧ reached s.now 0 = true ∧ reached s.now 1 = false ∧ (s.ctx .l0).underWay = false)
    ∧ (let s := withL0 { linkAt .faded with holdTimer := some 0, pendTimer := some 1 }
       (s.link .l0).holdTimer = some 0 ∧ reached s.now 0 = true ∧ reached s.now 1 = false ∧ (s.link .l0).state = .faded)
    ∧ (let s := withL0 { linkAt .faded with holdTimer := some 1 }
       (s.link .l0).holdTimer = some 1 ∧ reached s.now 1 = false) := by decide +kernel

theorem witness_LinkTimersExpire_run :
    let s := { loadRun with links := ⟨{ linkAt .inService with supTimer := some 0, pendTimer := some 0, pending := some 1 },
                                      resetLink⟩ }
    (s.link .l0).supTimer = some 0 ∧ (s.link .l0).pendTimer = some 0 ∧ reached s.now 0 = true
      ∧ (s.link .l0).state = .inService ∧ (s.ctx .l0).underWay = true := by decide +kernel

theorem witness_PulseEdgesDriveTheServo :
    (State.reset.startup.state ≠ .running)
    ∧ (let s := withServo { resetServo with state := .locked, reference := some 0#64 } 0 998999999
       s.startup.state = .running ∧ s.time.servo.reference = some 0#64 ∧ (s.nowNs - 0#64).toNat < 999000000)
    ∧ (let s := withServo { resetServo with state := .locked, reference := some 0#64 } 10001 999000000
       s.startup.state = .running ∧ 999000000 ≤ (s.nowNs - 0#64).toNat ∧ (s.nowNs - 0#64).toNat ≤ 1001000000
        ∧ s.cfg.timing.stepLimit < (10001 : Int).natAbs)
    ∧ (let s := withServo { resetServo with state := .locked, reference := some 0#64 } 10000 1001000000
       s.time.servo.state ≠ .freeRun ∧ (s.nowNs - 0#64).toNat ≤ 1001000000 ∧ (10000 : Int).natAbs ≤ s.cfg.timing.stepLimit) := by
  decide +kernel

theorem witness_PulseEdgesDriveTheServo_schedule : scheduleLaw run.cfg.schedule := by unfold scheduleLaw; decide

theorem witness_ServoTimersExpire :
    (let s := withServo { resetServo with state := .acquiring, reference := some 0#64 } 0 1500000000
     s.time.servo.reference = some 0#64 ∧ (s.nowNs - 0#64).toNat = 1500000000)
    ∧ (let s := withServo { resetServo with state := .locked, reference := some 0#64 } 0 1499999999
       s.time.servo.reference = some 0#64 ∧ (s.nowNs - 0#64).toNat < 1500000000)
    ∧ (let s := withServo { resetServo with state := .holdover, holdoverEnds := some 14400000000000#64 } 0 14400000000000
       s.time.servo.holdoverEnds = some 14400000000000#64 ∧ reachedNs s.nowNs 14400000000000#64 = true)
    ∧ (holding.time.servo.state = .holdover ∧ holding.time.servo.holdoverEnds = some 14400000000000#64
      ∧ reachedNs holding.nowNs 14400000000000#64 = false)
    ∧ (let s := withServo { resetServo with slew := 40, slewEnd := some 9#64 } 0 9
       s.time.servo.slewEnd = some 9#64 ∧ reachedNs s.nowNs 9#64 = true ∧ reachedNs 8#64 9#64 = false) := by decide +kernel

theorem witness_PulseOutputsRiseAndFall :
    let s := { run with time := { run.time with pulses := tset run.time.pulses 3 { high := true, fall := some 0, pulses := 1 } } }
    (tget s.time.pulses 3).fall = some 0 ∧ reached s.now 0 = true
      ∧ reached ({ s with time := { s.time with elapsed := -1 } } : State).now 0 = false := by decide +kernel

/-- The schedule's entry is reached. -/
def dueNow : State := { scheduled with time := { scheduled.time with site := { seconds := 9, nanos := 0, frac := 0 } } }

theorem witness_ScheduledEntriesFireAndSecondsWrap :
    (scheduleLaw dueNow.cfg.schedule ∧ dueNow.time.valid = true ∧ ∃ e, e ∈ dueNow.cfg.schedule ∧ e.time ≤ dueNow.time.site.seconds)
    ∧ (∀ e, e ∈ scheduled.cfg.schedule → scheduled.time.site.seconds < e.time)
    ∧ run.time.valid = false :=
  ⟨⟨sorted_scheduled, rfl, ⟨{ time := 9, set := 1, tag := 0 }, by decide, by decide⟩⟩, by decide, rfl⟩

/-- The clock of an empty queue: inside a nanosecond, at a whole one, and with an event due. -/
theorem witness_ScheduledEntriesFireAndSecondsWrap_clock :
    (run.pending = [] ∧ (dueEvents run run.freeCount).isEmpty = true ∧ (run.time.elapsed + 1).extractLsb' 0 16 ≠ 0#16)
    ∧ (let s := { run with time := { run.time with elapsed := 65535 } }
       (dueEvents s s.freeCount).isEmpty = true ∧ (s.time.elapsed + 1).extractLsb' 0 16 = 0#16
        ∧ (s.time.servo.f + s.time.servo.slew).natAbs < 1000000000 ∧ s.time.site.frac < 2 ^ 32)
    ∧ (dueEvents (withL0 { linkAt .inService with supTimer := some 0 }) 0).isEmpty = false := by decide +kernel

theorem witness_PhasesFollowEachOther :
    (let s := withRun (linkAt .qualifying) (ctxAt .settle loadStep) 0
     (s.ctx .l0).phaseEnd = some 0 ∧ (s.ctx .l0).step = some loadStep ∧ (s.ctx .l0).current = some 0
      ∧ reached s.now 0 = true ∧ (s.ctx .l0).state = .settle ∧ loadStep.kind ≠ .wait
      ∧ reached s.now (afterMs 0 loadStep.measure) = false)
    ∧ (let s := withRun (linkAt .qualifying) (ctxAt .measure loadStep) 0
       (s.ctx .l0).state = .measure ∧ reached s.now 0 = true ∧ reached s.now (afterMs 0 loadStep.recover) = false)
    ∧ (let s := withRun (linkAt .qualifying) { ctxAt .recover loadStep with last := some 1, sent := 5#32, returned := 5#32 } 0
       let s1 := { s with cfg := { s.cfg with steps := tset s.cfg.steps 1 loadStep } }
       (s1.ctx .l0).state = .recover ∧ s1.share.testRate.get .l0 = 0 ∧ (s1.ctx .l0).sent ≠ 0
        ∧ (5 - 5) * 1000000 / 5 ≤ loadStep.maxLoss ∧ loadStep.maxRoundTrip = 0 ∧ loadStep.maxVariation = 0
        ∧ (s1.ctx .l0).last ≠ some 0 ∧ 0 < (tget s1.cfg.steps 1).settle ∧ (tget s1.cfg.steps 1).settle ≤ 10000
        ∧ (s1.ctx .l0).inService = false)
    ∧ (let s := withRun (linkAt .qualifying) (ctxAt .recover loadStep) 0
       (s.ctx .l0).state = .recover ∧ s.share.testRate.get .l0 = 0 ∧ (s.ctx .l0).sent = 0 ∧ (s.ctx .l0).last = some 0)
    ∧ (let s := withRun (linkAt .qualifying) (ctxAt .recover loadStep) (-1)
       (s.ctx .l0).phaseEnd = some 0 ∧ reached s.now 0 = false) := by decide +kernel

/-- A MEASURE and a RECOVER of 0 ms. -/
theorem witness_PhasesFollowEachOther_zero :
    (let r := { loadStep with measure := 0 }
     let s := withRun (linkAt .qualifying) (ctxAt .settle r) 0
     (s.ctx .l0).phaseEnd = some 0 ∧ (s.ctx .l0).step = some r ∧ (s.ctx .l0).current = some 0 ∧ reached s.now 0 = true
      ∧ (s.ctx .l0).state = .settle ∧ r.kind ≠ .wait ∧ r.measure = 0 ∧ reached s.now (afterMs 0 r.recover) = false)
    ∧ (let r := { loadStep with recover := 0 }
       let s := withRun (linkAt .qualifying) (ctxAt .measure r) 0
       (s.ctx .l0).step = some r ∧ (s.ctx .l0).state = .measure ∧ r.recover = 0 ∧ (s.ctx .l0).last = some 0) := by
  decide +kernel

/-- A LOAD run whose credit holds a frame, and whose phase goes on. -/
def frameDue : State :=
  withRun (linkAt .qualifying) { ctxAt .measure loadStep with gen := .load 1024 0 0, phaseEnd := some 1 } 0

theorem witness_TestFramesAreGeneratedWhenDue :
    ((frameDue.ctx .l0).phaseEnd = some 1 ∧ reached frameDue.now 1 = false ∧ (frameDue.ctx .l0).step = some loadStep
      ∧ (frameDue.ctx .l0).current = some 0 ∧ (frameDue.ctx .l0).state = .measure ∧ 64 ≤ loadStep.length
      ∧ (frameDue.ctx .l0).gen = .load 1024 0 0
      ∧ loadStep.length * 8 ≤ min (1024 + loadStep.rate * (frameDue.now - 0).toNat / (1000000 * 65536)) (loadStep.length * 8)
      ∧ occupancy (frameDue.queues.test.get .l0) + 1 ≤ 128 ∧ 1 ≤ frameDue.pool.free.length)
    ∧ (let s := withRun (linkAt .qualifying) { ctxAt .settle { loadStep with kind := .probe } with
          gen := .probe 0, phaseEnd := some 1 } 0
       reached s.now 1 = false ∧ (s.ctx .l0).gen = .probe 0 ∧ reached s.now 0 = true) := by decide +kernel

/-- A generated frame at the head of the test queue, and a reflected one. -/
theorem witness_TestFramesAreGeneratedWhenDue_start :
    let gen : Descriptor := { testDescriptor .l0 return3 with cells := [50] }
    let s (d : Descriptor) := { frameDue with queues := { frameDue.queues with test := ⟨[d], []⟩ } }
    (ReadyNow .l0 (s gen) ∧ (s gen).localQ (.bh .l0) = [] ∧ (s gen).queues.timing = [] ∧ freshTest .l0 (s gen) = [gen]
      ∧ holdsPayload return3 32 = true ∧ isTestFrame return3 = true)
    ∧ freshTest .l0 (s { gen with cls := .reflected }) = [{ gen with cls := .reflected }] :=
  ⟨⟨⟨by decide +kernel, by decide +kernel, by decide +kernel⟩, by decide +kernel⟩, by decide +kernel⟩

/-- A pending notice, due now. -/
def noticePends (s : State) : State :=
  s.setNotice { last := some 0#64, pending := true, due := some 0#64, built := 0#32, refused := 0#32 }

theorem witness_PendingNoticesFallDue :
    ((noticePends run).mgmt.notice.pending = true ∧ (noticePends run).mgmt.notice.due = some 0#64
      ∧ reachedNs (noticePends run).nowNs 0#64 = true)
    ∧ (let s := noticePends (raise .storeInvalid none run)
       (s.latch .storeInvalid).latched = true ∧ 1 ≤ s.level .storeInvalid ∧ s.level .storeInvalid ≤ 3)
    ∧ reachedNs (-1#64) 0#64 = false := by decide +kernel

/-- A new latching in RUNNING: at once at first, and pending within the interval. -/
theorem witness_PendingNoticesFallDue_latching :
    let s := withServo { resetServo with state := .locked, reference := some 0#64 } 0 400000000
    (s.startup.state = .running ∧ s.time.servo.reference = some 0#64 ∧ ¬999000000 ≤ (s.nowNs - 0#64).toNat)
    ∧ after (exec (.ppsEdge 100) { s with cfg := { s.cfg with notice := { s.cfg.notice with levels := Vector.replicate 24 1 } } })
        (fun t => t.mgmt.notice.built == 1#32) = true
    ∧ after (exec (.ppsEdge 100)
        { s.setNotice { s.mgmt.notice with last := some 399999999#64 } with
          cfg := { s.cfg with notice := { s.cfg.notice with levels := Vector.replicate 24 1 } } })
        (fun t => t.mgmt.notice.built == 0#32 && t.mgmt.notice.pending && t.mgmt.notice.due.isSome) = true := by
  decide +kernel

/-- A store operation in a phase that ends at 0. -/
def storeAt (job : StoreJob) (phase : StorePhase) (done total : Nat) : State :=
  { run with store := { run.store with op := some { job, phase, done, total, ends := 0 } } }

theorem witness_StorePhasesEnd :
    ((storeAt (.eraseSlot 3) .erase 0 0).store.op.map (fun o => o.phase) = some .erase
      ∧ reached (storeAt (.eraseSlot 3) .erase 0 0).now 0 = true)
    ∧ ((storeAt (.saveSlot 0 body0 1) .program 25 26).store.op.map (fun o => (o.phase, o.done + 1)) = some (.program, 26)
      ∧ jobName (.saveSlot 0 body0 1) ≠ .invalidateSlot)
    ∧ ((storeAt (.invalidateSlot 1) .program 0 1).store.op.map (fun o => jobName o.job) = some .invalidateSlot)
    ∧ ((storeAt (.writeInfo 0x020000000741#48 emptyLabel) .recovery 2 2).store.op.map (fun o => o.phase) = some .recovery)
    ∧ reached (-1) 0 = false := by decide +kernel

theorem witness_ResetsLeaveThePowerOnState : 49999 < 50000 ∧ 999 < 1000 := by decide

/-- A save and a write of the page under way, on a store that keeps to its law. -/
theorem witness_ResetsLeaveThePowerOnState_cut :
    (let x := (storeAt (.saveSlot 0 body0 1) .program 25 26).store
     StoreLaw x ∧ ∃ o, x.op = some o ∧ jobSlot o.job = some 0 ∧ o.phase ≠ .recovery)
    ∧ (let x := (storeAt (.writeInfo 0x020000000741#48 emptyLabel) .program 1 2).store
       StoreLaw x ∧ ∃ o, x.op = some o ∧ jobName o.job = .writeInfo ∧ o.phase = .program)
    ∧ (let x := (storeAt (.eraseSlot 3) .erase 0 0).store
       StoreLaw x ∧ ∃ o, x.op = some o ∧ jobSlot o.job = some 3 ∧ o.phase ≠ .recovery) := by
  refine ⟨⟨⟨by decide +kernel, by decide +kernel, ?_⟩, _, rfl, by decide, by decide⟩,
    ⟨⟨by decide +kernel, by decide +kernel, ?_⟩, _, rfl, by decide, by decide⟩,
    ⟨by decide +kernel, by decide +kernel, ?_⟩, _, rfl, by decide, by decide⟩ <;>
  · rintro o h
    cases h
    exact ⟨by decide, by decide +kernel⟩

theorem witness_StartUpRunsInOrder :
    (resetOf (.powerOn 50000) ∈ State.reset.startup.held ∧ State.reset.startup.state = .reset ∧ 0 < 32 ∧ 0 ∉ State.reset.pool.retired
      ∧ (State.reset.startup.held.all fun h => h == .powerOn) = true)
    ∧ (let s := { State.reset with startup := { State.reset.startup with held := [.powerOn, .pin] } }
       resetOf (.powerOn 50000) ∈ s.startup.held ∧ ResetKind.pin ∈ s.startup.held)
    ∧ (let s := { run with startup := { run.startup with state := .checking, group := some (0, 0) } }
       s.startup.state = .checking ∧ s.startup.group = some (0, 0) ∧ reached s.now 0 = true ∧ 1 ∉ s.pool.retired)
    ∧ (let s := { run with startup := { run.startup with state := .checking, group := some (31, 0) } }
       s.startup.group = some (31, 0) ∧ reached s.now 0 = true)
    ∧ (let s := { run with startup := { run.startup with state := .loading, loadEnds := some 0 } }
       s.startup.state = .loading ∧ s.startup.loadEnds = some 0 ∧ reached s.now 0 = true
        ∧ slotReport s.store s.startup.straps.slotSel ≠ .valid) := by decide +kernel

theorem witness_StartUpRunsInOrder_valid :
    let s := slotted body0 { run with startup := { run.startup with state := .loading, loadEnds := some 0, straps := ⟨2, false⟩ } }
    s.startup.state = .loading ∧ s.startup.loadEnds = some 0 ∧ slotReport s.store s.startup.straps.slotSel = .valid
      ∧ (tget s.store.slots s.startup.straps.slotSel).body = some body0
      ∧ shareLaw body0.classes.tenants body0.classes.sets = true :=
  ⟨rfl, rfl, slotted_valid _ _, slotted_body _ _, by decide +kernel⟩

/-- A VALID slot that breaks the share-sum law. -/
theorem witness_StartUpRunsInOrder_over :
    let heavy : SlotBody := { classes := { overShare.cfg with
      tenants := overShare.cfg.tenants.map fun c => { c with active := true } }, flows := [] }
    let s := slotted heavy { run with startup := { run.startup with state := .loading, loadEnds := some 0, straps := ⟨2, false⟩ } }
    s.startup.state = .loading ∧ s.startup.loadEnds = some 0
      ∧ ∀ b, slotReport s.store s.startup.straps.slotSel = .valid →
          (tget s.store.slots s.startup.straps.slotSel).body = some b → shareLaw b.classes.tenants b.classes.sets = false := by
  refine ⟨rfl, rfl, fun b _ h => ?_⟩
  have e := (slotted_body _ _).symm.trans h
  cases e
  decide +kernel

/-- The last group bad with four retired: FAULT, with a notice that start-up left pending. -/
theorem witness_StartUpRunsInOrder_fault :
    let s := noticePends { run with
      startup := { run.startup with state := .checking, group := some (31, 0) }, pool := { free := [], retired := [0, 1, 2, 3] } }
    s.startup.state = .checking ∧ s.startup.group = some (31, 0) ∧ reached s.now 0 = true
      ∧ (flagged .bufferRetired true s).pending = true
      ∧ after (exec (.bufferGroupTested true) s) (fun t => t.startup.state == .fault && !t.startup.resetOut
          && t.mgmt.notice.built == 1#32) = true := by decide +kernel

/-! ### Arithmetic and laws -/

theorem witness_BucketUpdatesCompose : (5#64 - 0#64).toNat + (9#64 - 5#64).toNat < 2 ^ 64 := by decide

theorem witness_RewrittenCorrectionIsTheExactSum : 48 + 12 ≤ plain.length := by decide +kernel

/-- A timing frame at the head of the timing queue, and one on SP. -/
theorem witness_RewrittenCorrectionIsTheExactSum_start :
    let d : Descriptor := { plainDescriptor .timing plain with slot := some 0, offset := some 20, ingress := some 0 }
    (let s := { withEntry (.ap 0) .timing .management (withL0 (linkAt .inService)) with
                  queues := { run.queues with timing := [d] } }
     ReadyNow .l0 s ∧ s.localQ (.bh .l0) = [] ∧ timingGoes .l0 s d = true
      ∧ ((slotEntry 0 s.flows).filter FlowEntry.hasLastLink).isSome = true)
    ∧ (let s := run.setDown .sp [d]
       (s.port .sp).linkUp = true ∧ (s.port .sp).tx = none ∧ s.localQ .sp = [] ∧ s.queues.down.get .sp = [d]) :=
  ⟨⟨⟨by decide +kernel, by decide +kernel, by decide +kernel⟩, by decide +kernel⟩, by decide +kernel⟩

theorem reset_laws : ClassLaws State.reset ∧ shareSumLaw State.reset ∧ allocationLaw State.reset.share.table := by
  have hf : flowLaw State.reset.flows := by unfold flowLaw; decide
  have hsch : scheduleLaw State.reset.cfg.schedule := by unfold scheduleLaw; decide
  have hsum : shareSumLaw State.reset := by unfold shareSumLaw; decide +kernel
  have hb : storedBodies State.reset = [] := by decide +kernel
  exact ⟨⟨hf, hsch, hsum, by rw [hb]; simp⟩, hsum, by unfold allocationLaw; decide +kernel⟩

/-- Reset meets the laws of runs, the schedule, the pool and the table. -/
theorem reset_laws_more : TestLaw State.reset ∧ ScheduleAhead State.reset ∧ PoolLaw State.reset ∧ TestQueues State.reset
    ∧ tableLaw State.reset.share.table ∧ LinksCounted State.reset := by
  have hh : heldCells State.reset = [] := by decide +kernel
  have ht : TestLaw State.reset := by
    refine ⟨fun _ l => ?_, fun l h => ?_, fun x h => by cases h⟩
    · cases l <;> rfl
    · cases l <;> cases h
  have hs : ScheduleAhead State.reset := ⟨fun _ => rfl, fun h => by cases h⟩
  have hp : PoolLaw State.reset := by
    refine ⟨?_, fun _ => hh⟩
    have e : cellsWithout [] = allCells := List.filter_eq_self.2 fun c _ => rfl
    have hr : State.reset.pool = ({ free := allCells, retired := [] } : Pool) := rfl
    rw [hh, List.append_nil, hr]
    simp only [e, List.Perm.refl]
  have hq : TestQueues State.reset := by
    intro l d h
    cases l <;> cases h
  have hl : LinksCounted State.reset := by
    intro l
    cases l <;> exact ⟨rfl, fun h => by cases h⟩
  exact ⟨ht, hs, hp, hq, by unfold tableLaw; decide +kernel, hl⟩

/-- The store right after reset keeps to its law. -/
theorem reset_store_law : StoreLaw State.reset.store ∧ State.reset.time.site.nanos < 1000000000 :=
  ⟨⟨by decide, by decide, fun o h => by cases h⟩, by decide⟩

/-- No local store is above its places at reset, nor where all places of one are taken. -/
theorem local_laws : LocalLaw State.reset ∧ LocalLaw sendingLocal ∧ sendingLocal.placesTaken .sp = 16 := by
  refine ⟨fun p => ?_, fun p => ?_, by decide +kernel⟩ <;> rcases p with i | _ | l
  · fin_cases i <;> decide +kernel
  · decide +kernel
  · cases l <;> decide +kernel
  · fin_cases i <;> decide +kernel
  · decide +kernel
  · cases l <;> decide +kernel

/-- Reset meets the laws, and a step of it answers. -/
theorem witness_ClassLawsAreKept :
    (ClassLaws State.reset ∧ shareSumLaw State.reset ∧ allocationLaw State.reset.share.table)
      ∧ ∃ t, step { State.reset with pending := [.powerOnReset] } = .next t :=
  ⟨reset_laws, _, rfl⟩

end Sys2Proof.Tests
end

section
/-!
PROOF. ADMIT (R56): the entry into IN_SERVICE is one computation on the admitted record, and the rest of the event is
departures.
-/

namespace Sys2Proof.Machine

/-! ## Computations, reported -/

theorem told_kickBackhaul (s : State) : Told s (kickBackhaul s) := (told_kick _ _).trans (told_kick _ _)

theorem told_setShareRates (a : Vector AllocTenant 8) (r : Nat) (s : State) : Told s (setShareRates a r s) := by
  unfold setShareRates
  simp only
  split
  · refine Told.trans ?_ (told_kickBackhaul _)
    exact told_quiet rfl rfl rfl rfl rfl
  · exact told_quiet rfl rfl rfl rfl rfl

/-- A computation reports nothing but CAPACITY_CHANGED (R81). -/
theorem told_recompute (s : State) : Told s (recompute s) := by
  have hp : Told s (publish (computeTable s) s) := by
    refine Told.trans ?_ (told_setShareRates _ _ _)
    exact told_quiet rfl rfl rfl rfl rfl
  unfold recompute
  simp only
  split
  · exact hp
  · exact hp.trans (told_raise _ _ _)

/-- A computation on a state u that has the calculator and the buckets of s, and its latches but for some, stands after
the departures as a computation on s (R74 to R79, R81). -/
theorem recompute_beside {ls : List Cond} {s u t : State} (hshare : u.share = s.share)
    (hbucket : ∀ b, u.bucket b = s.bucket b) (hnow : u.nowNs = s.nowNs)
    (hlatch : ∀ c : Cond, c ∉ ls → u.latch c = s.latch c) (hcap : Cond.capacityChanged ∉ ls)
    (k : Departs (recompute u) t) :
    OneComputation s t ∧ t.share = { s.share with table := t.share.table } ∧ OtherRatesKept [] s t ∧ DepthsKept [] s t
      ∧ LatchesKept (.capacityChanged :: ls) s t
      ∧ ∀ c : Cond, c ≠ .capacityChanged → c.ofDeparture = false → t.latch c = u.latch c := by
  obtain ⟨hone, hcalc, hrates, hdepths, hkept⟩ := recompute_departs k
  have hother : ∀ c : Cond, c ≠ .capacityChanged → c.ofDeparture = false → t.latch c = u.latch c :=
    fun c hc hd => hkept c (by simpa using hc) hd
  refine ⟨?_, ?_, fun b hb hn => ?_, fun b hn => ?_, fun c hc hd => ?_, hother⟩
  · unfold OneComputation at hone ⊢
    rwa [hshare, hlatch _ hcap, hnow] at hone
  · rwa [hshare] at hcalc
  · rw [hrates b hb hn, hbucket]
  · rw [hdepths b hn, hbucket]
  · simp only [List.mem_cons, not_or] at hc
    rw [hother c hc.1 hd, hlatch c hc.2]

/-! ## Requests whose operation moves no frame -/

theorem Kept.mono {w v : List Part} {s t : State} (h : Kept w s t) (hv : ∀ a ∈ w, a ∈ v) : Kept v s t :=
  fun a ha => h a fun hw => ha (hv a hw)

/-- An accepted request whose operation moves no frame writes what its operation writes, and the local queues, which its
answer joins (R157, R158). -/
theorem Steady.request {w : List Part} {h : Header} {kind code : Nat} {sel : Selector} {body : List Field}
    {op : Operation} {s s1 : State} {st : Status} {items : List Item} (ha : Accepts h s) (hk : sel.kind.toNat ≤ 3)
    (hop : op sel body { s with ev := noWork } = ({ status := st, body := items, after := .nothing }, s1))
    (ht : Told { s with ev := noWork } s1) (hs : Steady w { s with ev := noWork } s1)
    (hup : Part.linkUp ∉ w := by decide) (hst : Part.store ∉ w := by decide) :
    Departs s1 (rowRequest h kind code sel body op s)
      ∧ Answered h kind code sel st s (rowRequest h kind code sel body op s)
      ∧ Kept (.locals :: w) s (rowRequest h kind code sel body op s) := by
  have hstore : s1.store = s.store := hs.kept .store hst rfl
  obtain ⟨hdep, hans, hnotice⟩ := request_next (kind := kind) (code := code) ha hk hop ht
    (fun p => by unfold State.localQ; rw [hs.queues]) hs.tx (hs.kept .linkUp hup rfl) (by rw [hstore])
  have hkept := (((ev_steady s noWork).mono (by simp)).trans hs).departs hdep (fun hl => absurd hl hup)
  refine ⟨hdep, ⟨items, hans⟩, fun a hw => ?_⟩
  by_cases hn : a = .notice
  · rw [hn]; exact hnotice
  · exact hkept a (by simpa [hn] using hw)

/-! ## Entry into IN_SERVICE (R54) -/

/-- The record of a link that enters IN_SERVICE (R53, R54). -/
def admittedUnit (l : Link) (s : State) : LinkUnit :=
  { s.link l with
    state := .inService, admitted := true, barCause := .none, holdTimer := none
    supTimer := some ((s.link l).supTimer.getD (afterMs s.now (s.cfg.links.get l).supervision)) }

/-- The entry into IN_SERVICE, before Link Control's report (R54). -/
def admitting (l : Link) (s : State) : State :=
  raise (.linkAdmitted l) none (kickBackhaul (s.setLink l (admittedUnit l s)))

/-- The entry into IN_SERVICE is its change of the record, reported (R40, R54). -/
theorem enterInService_eq_report (l : Link) (s : State) :
    enterInService l s = reportLink l (s.el l) (s.inService l) (admitting l s) := by
  have hunit : startSupervision l (updLink l (fun u =>
      { u with state := .inService, admitted := true, barCause := .none, holdTimer := none }) s)
        = s.setLink l (admittedUnit l s) := by
    unfold startSupervision admittedUnit
    cases hsup : (s.link l).supTimer <;> cases l <;>
      simp_all [updLink, State.setLink, State.link, State.now, PerLink.set, PerLink.get]
  rw [admitting, ← hunit]
  rfl

theorem admitting_links (l : Link) (s : State) : (admitting l s).links = s.links.set l (admittedUnit l s) := by
  obtain ⟨x, e, h⟩ := raise_shape (.linkAdmitted l) none (kickBackhaul (s.setLink l (admittedUnit l s)))
  unfold admitting
  rw [h]
  rfl

theorem admitting_cfg (l : Link) (s : State) : (admitting l s).cfg = s.cfg := by
  obtain ⟨x, e, h⟩ := raise_shape (.linkAdmitted l) none (kickBackhaul (s.setLink l (admittedUnit l s)))
  unfold admitting
  rw [h]
  rfl

/-- Nothing that E_L depends on changes at the entry (R38). -/
theorem admitting_el (l : Link) (s : State) : (admitting l s).el l = s.el l := by
  unfold State.el State.link
  rw [admitting_links, admitting_cfg, PerLink.get_set_same]
  rfl

theorem admitting_inService (l : Link) (s : State) : (admitting l s).inService l = true := by
  unfold State.inService State.link
  rw [admitting_links, PerLink.get_set_same]
  rfl

/-- A link that comes into service with the E_L that it had is reported by one computation alone (R40, R81). -/
theorem enterInService_eq_recompute {l : Link} {s : State} (h : s.inService l = false) :
    enterInService l s = recompute (admitting l s) := by
  have hcfg : (recompute (admitting l s)).cfg = (admitting l s).cfg := (recompute_steady _).kept .config (by decide) rfl
  have hlinks : (recompute (admitting l s)).links = (admitting l s).links :=
    (recompute_steady _).kept .links (by decide) rfl
  have hel : (recompute (admitting l s)).el l = s.el l := by
    rw [← admitting_el l s]
    unfold State.el State.link
    rw [hcfg, hlinks]
  rw [enterInService_eq_report]
  simp [reportLink, admitting_el, admitting_inService, h, hel]

theorem admitting_steady (l : Link) (s : State) : Steady [.links, .latches] s (admitting l s) :=
  (((links_steady s _).mono (by simp)).trans ((kickBackhaul_steady _).mono (by simp))).trans
    ((raise_steady _ _ _).mono (by simp))

theorem told_admitting (l : Link) (s : State) : Told s (admitting l s) := by
  refine Told.trans (Told.trans ?_ (told_kickBackhaul _)) (told_raise _ _ _)
  exact told_quiet rfl rfl rfl rfl rfl

theorem enterInService_steady {l : Link} {s : State} (h : s.inService l = false) :
    Steady (.links :: computed) s (enterInService l s) := by
  rw [enterInService_eq_recompute h]
  exact ((admitting_steady l s).mono (by decide)).trans ((recompute_steady _).mono (by decide))

theorem told_enterInService {l : Link} {s : State} (h : s.inService l = false) : Told s (enterInService l s) := by
  rw [enterInService_eq_recompute h]
  exact (told_admitting l s).trans (told_recompute _)

theorem admitting_latch (l : Link) (s : State) :
    (admitting l s).latch (.linkAdmitted l) = (s.latch (.linkAdmitted l)).occur s.nowNs none :=
  raise_latch_same _ _ _

/-- An entry into IN_SERVICE stands after the departures that follow it (R54, R40): the record, the one computation, and
LINK_ADMITTED. -/
theorem enterInService_departs {l : Link} {s t : State} (h : s.inService l = false)
    (k : Departs (enterInService l s) t) :
    t.links = s.links.set l (admittedUnit l s)
      ∧ OneComputation s t ∧ t.share = { s.share with table := t.share.table } ∧ OtherRatesKept [] s t
      ∧ DepthsKept [] s t ∧ t.latch (.linkAdmitted l) = (s.latch (.linkAdmitted l)).occur s.nowNs none
      ∧ LatchesKept [.capacityChanged, .linkAdmitted l] s t := by
  rw [enterInService_eq_recompute h] at k
  obtain ⟨hshare, hbucket, hnow, _⟩ := raise_quiet (.linkAdmitted l) none (kickBackhaul (s.setLink l (admittedUnit l s)))
  obtain ⟨hone, hcalc, hrates, hdepths, hkept, hother⟩ := recompute_beside (ls := [.linkAdmitted l])
    (s := s) (u := admitting l s) hshare (fun b => (hbucket b).trans (by cases b <;> rfl)) hnow
    (fun c hc => raise_latch_other _ _ _ _ (by simpa using hc)) (by simp) k
  have hlinks : t.links = (admitting l s).links :=
    Part.kept_trans (a := .links) rfl ((recompute_steady _).kept .links (by decide) rfl) (k.1 .links rfl)
  exact ⟨hlinks.trans (admitting_links l s), hone, hcalc, hrates, hdepths,
    (hother _ (by simp) rfl).trans (admitting_latch l s), hkept⟩

/-! ## ADMIT (R56) -/

theorem admitCommand_barred {body : List Field} {l : Link} {s : State} (hb : commandLink body = some l)
    (hl : (s.link l).state = .barred ∧ (s.link l).carrier = true) :
    admitCommand body s = ({ status := .ok, body := [], after := .nothing }, enterInService l s) := by
  simp [admitCommand, hb, answer, admitBarred, hl]

theorem admitCommand_otherwise {body : List Field} {l : Link} {s : State} (hb : commandLink body = some l)
    (hl : ¬((s.link l).state = .barred ∧ (s.link l).carrier = true)) :
    admitCommand body s = ({ status := .notPermitted, body := [], after := .nothing }, s) := by
  simp only [admitCommand, hb, answer, admitBarred, if_neg hl]

/-- Settles O15, by the two outcomes of ADMIT: the entry into IN_SERVICE, or a refusal that changes nothing. -/
theorem admitPutsABarredLinkIntoService : Obligations.AdmitPutsABarredLinkIntoService := by
  intro h sel body s l ha hk hb
  refine ⟨_, rfl, ?_⟩
  split
  · next hl =>
    have hsvc : ({ s with ev := noWork } : State).inService l = false := by
      show decide ((s.link l).state = .inService) = false
      simp [hl.1]
    obtain ⟨hdep, hans, hkept⟩ := Steady.request (op := fun _ => admitCommand) (kind := 4) (code := 0x104) ha hk
      (admitCommand_barred hb hl) (told_enterInService hsvc) (enterInService_steady hsvc)
    obtain ⟨hlinks, hone, hcalc, hrates, hdepths, hadmitted, hlatches⟩ := enterInService_departs hsvc hdep
    refine ⟨hlinks, hone, hcalc, fun b hs hn => ?_, fun b hn => ?_, hadmitted, hlatches,
      hkept.mono (by decide), hans⟩
    · rw [hrates b hs hn, State.bucket_ev]
    · rw [hdepths b hn, State.bucket_ev]
  · next hl =>
    obtain ⟨_, hans, hkept⟩ := Steady.request (op := fun _ => admitCommand) (kind := 4) (code := 0x104) ha hk
      (admitCommand_otherwise hb hl) (Told.refl _) (Steady.refl [] _)
    exact ⟨hkept, hans⟩

end Sys2Proof.Machine
end

section
/-!
PROOF. ACTIVATE_SET (R66): another set made active is one computation on the classes that name it; every other outcome is
an answer alone.
-/

namespace Sys2Proof.Machine

/-! ## Requests that answer alone, and requests that write the classes and compute -/

/-- An accepted request whose operation leaves the state as it is changes nothing but the local queues, which its answer
joins (R158, R161). -/
theorem request_unchanged {h : Header} {kind code : Nat} {sel : Selector} {body : List Field} {op : Operation}
    {s : State} {st : Status} {items : List Item} (ha : Accepts h s) (hk : sel.kind.toNat ≤ 3)
    (hop : op sel body { s with ev := noWork }
      = ({ status := st, body := items, after := .nothing }, { s with ev := noWork })) :
    Kept [.locals] s (rowRequest h kind code sel body op s)
      ∧ Answered h kind code sel st s (rowRequest h kind code sel body op s) := by
  obtain ⟨_, hans, hkept⟩ :=
    Steady.request (kind := kind) (code := code) ha hk hop (Told.refl _) (Steady.refl [] _)
  exact ⟨hkept, hans⟩

/-- An accepted request whose operation writes the running classes and then computes leaves those classes and that one
computation (R74 to R81). -/
theorem request_computes {h : Header} {kind code : Nat} {sel : Selector} {body : List Field} {op : Operation}
    {s : State} {st : Status} {items : List Item} {c : Classes} (ha : Accepts h s) (hk : sel.kind.toNat ≤ 3)
    (hop : op sel body { s with ev := noWork }
      = ({ status := st, body := items, after := .nothing }, recompute { s with ev := noWork, cfg := c })) :
    (rowRequest h kind code sel body op s).cfg = c
      ∧ Answered h kind code sel st s (rowRequest h kind code sel body op s)
      ∧ ComputedOnce s (rowRequest h kind code sel body op s) := by
  have htold : Told { s with ev := noWork } (recompute { s with ev := noWork, cfg := c }) := by
    refine Told.trans ?_ (told_recompute _)
    exact told_quiet rfl rfl rfl rfl rfl
  have hsteady : Steady (.config :: computed) { s with ev := noWork } (recompute { s with ev := noWork, cfg := c }) :=
    ((cfg_steady _ c).mono (by simp)).trans ((recompute_steady _).mono (by decide))
  obtain ⟨hdep, hans, hkept⟩ := Steady.request (kind := kind) (code := code) ha hk hop htold hsteady
  have hcfg : (rowRequest h kind code sel body op s).cfg = c :=
    (hdep.1 .config rfl).trans ((recompute_steady _).kept .config (by decide) rfl)
  obtain ⟨hone, hcalc, hrates, hdepths, hlatches, _⟩ := recompute_beside (ls := []) (s := s)
    (u := { s with ev := noWork, cfg := c }) rfl (fun b => by cases b <;> rfl) rfl (fun _ _ => rfl) (by simp) hdep
  exact ⟨hcfg, hans, hone, hcalc, hrates, hdepths, hlatches, hkept.mono (by decide)⟩

/-! ## ACTIVATE_SET (R66) -/

theorem activateCommand_noSet {body : List Field} (hn : (num? body 1).bind (finOf 4) = none) (s : State) :
    activateCommand body s = refuse .invalidValue s := by
  simp [activateCommand, hn]

theorem activateCommand_saving {body : List Field} {k : SetId} {s : State} (hok : (shapeOf [1]).ok body = true)
    (hn : (num? body 1).bind (finOf 4) = some k) (hsave : saveRuns s = true) :
    activateCommand body s = refuse .busy s := by
  simp [activateCommand, hn, checked, hok, hsave]

theorem activateCommand_active {body : List Field} {s : State} (hok : (shapeOf [1]).ok body = true)
    (hn : (num? body 1).bind (finOf 4) = some s.cfg.activeSet) (hsave : saveRuns s = false) :
    activateCommand body s = okay (fun _ => []) s := by
  simp [activateCommand, hn, checked, hok, hsave]

theorem activateCommand_other {body : List Field} {k : SetId} {s : State} (hok : (shapeOf [1]).ok body = true)
    (hn : (num? body 1).bind (finOf 4) = some k) (hsave : saveRuns s = false) (hk : k ≠ s.cfg.activeSet) :
    activateCommand body s = okay (fun _ => []) (recompute (setActive k s)) := by
  simp [activateCommand, hn, checked, hok, hsave, hk]

/-- Settles O9, by the four outcomes of ACTIVATE_SET: the active set named again, another set made active, a value that
is no set, and a SAVE_SLOT under way. -/
theorem activateSetComputes : Obligations.ActivateSetComputes := by
  intro h sel body s ha hk
  refine ⟨fun k hok hn hsave => ⟨_, rfl, ?_⟩, fun hn => ⟨_, rfl, ?_⟩, fun k hok hn hsave => ⟨_, rfl, ?_⟩⟩
  · by_cases hset : k = s.cfg.activeSet
    · subst hset
      obtain ⟨hkept, hans⟩ := request_unchanged (op := fun _ => activateCommand) (kind := 4) (code := 0x101)
        ha hk (activateCommand_active hok hn hsave)
      exact ⟨hans, by rwa [if_pos rfl]⟩
    · obtain ⟨hcfg, hans, hcomputed⟩ := request_computes (op := fun _ => activateCommand) (kind := 4) (code := 0x101)
        ha hk (activateCommand_other hok hn hsave hset)
      exact ⟨hans, by rw [if_neg hset]; exact ⟨hcfg, hcomputed⟩⟩
  · exact request_unchanged (op := fun _ => activateCommand) ha hk (activateCommand_noSet hn _)
  · exact request_unchanged (op := fun _ => activateCommand) ha hk (activateCommand_saving hok hn hsave)

end Sys2Proof.Machine
end

section
/-!
PROOF. The step, the composition of bucket updates, the laws at reset, and the two port events that move no frame: the
start of a reception and a physical link that comes up (R4, R5, R84, R120).
-/

namespace Sys2Proof.Machine

/-- Settles O53: a step on a queue with a front command is that command, by the definition of step. -/
theorem stepRunsTheFrontCommand : Obligations.StepRunsTheFrontCommand := fun _ _ _ => rfl

/-! ## Bucket updates (R84) -/

/-- Two stretches of time that do not wrap the counter add up. -/
theorem sinceNs_add {a b c : Ns} (h : (b - a).toNat + (c - b).toNat < 2 ^ 64) :
    sinceNs c a = sinceNs b a + sinceNs c b := by
  unfold sinceNs
  bv_omega

/-- The whole bits of two stretches, with the residue carried over, are the whole bits of both at once. -/
theorem bits_add (r x y res : Nat) :
    (r * x + res) / 1000000 + (r * y + (r * x + res) % 1000000) / 1000000 = (r * (x + y) + res) / 1000000
      ∧ (r * y + (r * x + res) % 1000000) % 1000000 = (r * (x + y) + res) % 1000000 := by
  rw [Nat.mul_add]
  generalize r * x = a
  generalize r * y = b
  omega

/-- Settles O54: the bits of the two parts add up, and a cap between them does not change the cap at the end. -/
theorem bucketUpdatesCompose : Obligations.BucketUpdatesCompose := by
  intro b t1 t2 h
  obtain ⟨hbits, hres⟩ := bits_add b.rate (sinceNs t1 b.last) (sinceNs t2 t1) b.residue
  rw [← sinceNs_add h] at hbits hres
  simp only [Bucket.refresh, Bucket.mk.injEq, true_and, hres, and_true, ← hbits]
  omega

/-! ## The state at reset -/

/-- No frame holds a cell at reset. -/
theorem heldCells_reset : heldCells State.reset = [] := by decide +kernel

/-- At reset every cell is free (R15). -/
theorem poolLaw_reset : PoolLaw State.reset := by
  have hall : cellsWithout [] = allCells := List.filter_eq_self.2 fun c _ => rfl
  refine ⟨?_, fun _ => heldCells_reset⟩
  have hpool : State.reset.pool = ({ free := allCells, retired := [] } : Pool) := rfl
  rw [heldCells_reset, List.append_nil, hpool]
  simp only [hall, List.Perm.refl]

/-- At reset no run is under way and the Flow Table is empty (R141). -/
theorem testLaw_reset : TestLaw State.reset := by
  refine ⟨fun _ l => ?_, fun l h => ?_, fun x h => by cases h⟩
  · cases l <;> rfl
  · cases l <;> cases h

theorem localLaw_reset : LocalLaw State.reset := by
  intro p
  rcases p with i | _ | l
  · fin_cases i <;> decide +kernel
  · decide +kernel
  · cases l <;> decide +kernel

/-- The classes at reset keep their laws, and no slot holds a body (R168). -/
theorem classLaws_reset : ClassLaws State.reset := by
  refine ⟨⟨List.Pairwise.nil, List.nodup_nil⟩, List.Pairwise.nil, ?_, fun b hb => ?_⟩
  · show shareLaw factoryClasses.tenants factoryClasses.sets = true
    decide +kernel
  · have : storedBodies State.reset = [] := by decide +kernel
    rw [this] at hb
    cases hb

/-- Settles O60, law by law on the state of reset. -/
theorem resetMeetsTheLaws : Obligations.ResetMeetsTheLaws := by
  refine ⟨classLaws_reset, ?_, by unfold servoLaw; decide, List.Pairwise.nil, ?_, fun l => ?_, testLaw_reset, ?_,
    poolLaw_reset, localLaw_reset, fun l d h => ?_, ⟨by decide, by decide, fun o h => by cases h⟩, by decide⟩
  · unfold allocationLaw; decide +kernel
  · unfold tableLaw; decide +kernel
  · cases l <;> exact ⟨rfl, fun h => by cases h⟩
  · exact ⟨fun _ => rfl, fun h => by cases h⟩
  · cases l <;> cases h

/-! ## A port's record replaced (R3, R4, R5) -/

/-- A port's record with the transmission that it had: no frame moves. -/
theorem setPort_steady (p : Port) (u : PortUnit) (s : State) (htx : u.tx = (s.port p).tx) :
    Steady [.linkUp, .reception, .counters] s (s.setPort p u) := by
  refine ⟨fun a ha hx => ?_, rfl, fun q => ?_, rfl⟩
  · cases a <;> first
      | rfl | exact absurd hx (by decide) | exact absurd (by decide) ha | exact fun _ => rfl | exact fun _ _ => rfl
      | exact fun _ => ⟨rfl, rfl⟩ | exact fun _ => ⟨rfl, rfl, rfl⟩
  · by_cases hq : q = p
    · subst hq; simpa using htx
    · simp [State.port_setPort_ne, hq]

/-- A port's record that keeps a part of the one before keeps that part of the state. -/
theorem setPort_kept {p : Port} {u : PortUnit} {s : State} :
    (u.linkUp = (s.port p).linkUp → Part.linkUp.kept s (s.setPort p u))
      ∧ (u.rx = (s.port p).rx → Part.reception.kept s (s.setPort p u))
      ∧ (u.counters = (s.port p).counters → Part.counters.kept s (s.setPort p u)) := by
  refine ⟨fun h q => ?_, fun h q => ?_, fun h q c _ => ?_⟩ <;>
  · by_cases hq : q = p
    · subst hq; simp [h]
    · simp [State.port_setPort_ne, hq]

/-- What is written beside a part that is kept all the same. -/
theorem Steady.drop {w v : List Part} {s t : State} (h : Steady w s t) (k : ∀ a, a ∈ w → a ∉ v → a.kept s t) :
    Steady v s t :=
  ⟨fun a ha hx => by
    by_cases hw : a ∈ w
    · exact k a hw ha
    · exact h.kept a hw hx, h.queues, h.tx, h.free⟩

/-- A reception that ends or begins (R5). -/
theorem setRx_steady (p : Port) (r : Option Instant) (s : State) :
    Steady [.reception] s (s.setPort p { s.port p with rx := r }) :=
  (setPort_steady p { s.port p with rx := r } s rfl).drop fun a ha hv => by
    obtain ⟨hup, _, hcount⟩ := setPort_kept (p := p) (u := { s.port p with rx := r }) (s := s)
    simp only [List.mem_cons, List.not_mem_nil, or_false] at ha hv
    rcases ha with rfl | rfl | rfl
    · exact hup rfl
    · exact absurd rfl hv
    · exact hcount rfl

/-- A physical link that comes up or goes down, with nothing else (R4). -/
theorem setLinkUp_steady (p : Port) (b : Bool) (s : State) :
    Steady [.linkUp] s (s.setPort p { s.port p with linkUp := b }) :=
  (setPort_steady p { s.port p with linkUp := b } s rfl).drop fun a ha hv => by
    obtain ⟨_, hrx, hcount⟩ := setPort_kept (p := p) (u := { s.port p with linkUp := b }) (s := s)
    simp only [List.mem_cons, List.not_mem_nil, or_false] at ha hv
    rcases ha with rfl | rfl | rfl
    · exact absurd rfl hv
    · exact hrx rfl
    · exact hcount rfl

/-- A counter stepped (R3). -/
theorem count_steady (p : Port) (c : PortCounter) (n : Nat) (s : State) : Steady [.counters] s (count p c n s) :=
  let u : PortUnit :=
    { s.port p with counters := tset (s.port p).counters c.idx (tget (s.port p).counters c.idx + BitVec.ofNat 64 n) }
  (setPort_steady p u s rfl).drop fun a ha hv => by
    obtain ⟨hup, hrx, _⟩ := setPort_kept (p := p) (s := s) (u := u)
    simp only [List.mem_cons, List.not_mem_nil, or_false] at ha hv
    rcases ha with rfl | rfl | rfl
    · exact hup rfl
    · exact hrx rfl
    · exact absurd rfl hv

/-- What changes no queue and no transmission, and neither the latches, the notices nor the clock, reports nothing. -/
theorem told_still {s t : State} (hm : t.mgmt = s.mgmt) (ho : t.ev.outbox = s.ev.outbox)
    (hn : t.time.elapsed = s.time.elapsed) (hq : ∀ p, t.localQ p = s.localQ p) (hx : ∀ p, (t.port p).tx = (s.port p).tx) :
    Told s t :=
  told_same hm ho hn (fun p => by rw [hq]) fun p f ⟨x, hx', hi⟩ => .inl ⟨x, by rwa [hx] at hx', hi⟩

/-- The frame of an event whose operation moves no frame and answers nothing. -/
theorem Steady.event {w : List Part} {f : State → State} {s : State}
    (hs : Steady w { s with ev := noWork } (f { s with ev := noWork }))
    (ht : Told { s with ev := noWork } (f { s with ev := noWork }))
    (hw : Part.linkUp ∈ w → Part.traffic ∈ w := by decide) : Kept w s (event f s) := by
  refine (event_kept hs hw).event ht (fun p => ?_) fun p g ⟨x, hx, hi⟩ => ⟨x, ?_, hi⟩
  · show (f { s with ev := noWork }).queues.locals.get p <:+ _
    rw [hs.queues]
    exact List.suffix_refl _
  · rw [hs.tx] at hx
    exact hx

/-! ## The start of a reception (R5, R120), and a physical link that comes up (R4) -/

/-- In RESET the end of a reception is its end alone (R6). -/
theorem receptionEnds_reset {p : Port} {stamp : Instant} {bytes : List Byte} {s : State}
    (h : s.startup.state = .reset) : receptionEnds p stamp bytes s = s.setPort p { s.port p with rx := none } := by
  unfold receptionEnds
  simp [h]

/-- Settles O26: the start of a reception by its definition, and its end in RESET, which ends it and nothing else. -/
theorem receptionTakesTheStamp : Obligations.ReceptionTakesTheStamp := by
  refine ⟨fun p s => ?_, fun p bytes s stamp hrx hreset => ?_⟩
  · show Host.Outcome.next (receptionBegins p s) = _
    unfold receptionBegins
    rfl
  · have hop : receptionEnds p stamp bytes { s with ev := noWork }
        = ({ s with ev := noWork } : State).setPort p { s.port p with rx := none } := receptionEnds_reset hreset
    have hs : Steady [.reception] { s with ev := noWork } (receptionEnds p stamp bytes { s with ev := noWork }) := by
      rw [hop]; exact setRx_steady p none _
    have hdep := event_departs (receptionEnds p stamp bytes) s
    refine ⟨event (receptionEnds p stamp bytes) s, ?_, fun q => ?_, hs.event ?_⟩
    · show execFrameReceived p bytes s = _
      unfold execFrameReceived
      rw [hrx]
    · rw [hdep.1 .reception rfl q, hop]
      show ((s.ports.set p _).get q).rx = _
      rw [PerPort.get_set]
      split <;> rfl
    · rw [hop]
      exact told_still rfl rfl rfl (fun _ => rfl) (setRx_steady p none _).tx

/-- Settles O37: a link that comes up writes link up and calls the port's arbiter; the rest is departures. -/
theorem linkUpIsTaken : Obligations.LinkUpIsTaken := by
  intro p s
  refine ⟨fun hup => ?_, fun hdown => ?_⟩
  · show execPortLinkUp p s = _
    rw [execPortLinkUp, if_pos hup]
  · have hs : Steady [.linkUp, .traffic] { s with ev := noWork } (linkComesUp p { s with ev := noWork }) :=
      ((setLinkUp_steady p true _).mono (by simp)).trans ((kick_steady p _).mono (by simp))
    have hdep := event_departs (linkComesUp p) s
    refine ⟨event (linkComesUp p) s, ?_, fun q => ?_, ?_, hs.event ?_⟩
    · show execPortLinkUp p s = _
      rw [execPortLinkUp, hdown]
      rfl
    · rw [hdep.1 .linkUp rfl q]
      show ((s.ports.set p _).get q).linkUp = _
      rw [PerPort.get_set]
      split <;> rfl
    · exact (TrafficKept.of_eq (s := { s with ports := s.ports.set p { s.port p with linkUp := true } })
        (t := linkComesUp p { s with ev := noWork }) rfl
        (fun _ => rfl) rfl).trans (fun _ => rfl) hdep
    · exact told_still rfl rfl rfl (fun _ => rfl) hs.tx

end Sys2Proof.Machine
end

section
/-!
PROOF. Events whose only calls are of ports with a local frame to send: what such an event does after its operation is
the start of local frames, so it writes no latch and no record of any other block (R17, R18, R92).
-/

namespace Sys2Proof.Machine

/-! ## Calls of ports with a local frame to send -/

/-- A port that could start a frame has one of its local queue to start (R18, R92). -/
def LocalFirst (s : State) (p : Port) : Prop := (s.port p).linkUp = true → (s.port p).tx = none → s.localQ p ≠ []

/-- Every port that the event calls starts a local frame, if any. -/
def LocalOnly (s : State) : Prop := ∀ p, s.ev.kick.get p = true → LocalFirst s p

/-- What the start of local frames changes: transmissions, local queues and the scheduler; the copies of notices that
were refused, and the notices that wait to be offered, are given. -/
def LocalStarts (refused : BitVec 32) (outbox : List Notice) (s t : State) : Prop :=
  ∃ ports locals sched ev freeCount,
    t = { s with
      ports, sched, ev, freeCount
      queues := { s.queues with locals }
      mgmt := { s.mgmt with notice := { s.mgmt.notice with refused } } }
    ∧ ev.outbox = outbox

/-- Local frames start, and no notice is offered. -/
abbrev LocalServed (s t : State) : Prop := LocalStarts s.mgmt.notice.refused s.ev.outbox s t

theorem LocalServed.refl (s : State) : LocalServed s s :=
  ⟨s.ports, s.queues.locals, s.sched, s.ev, s.freeCount, rfl, rfl⟩

theorem LocalStarts.trans {r r' : BitVec 32} {o o' : List Notice} {s t u : State} (h : LocalStarts r o s t)
    (k : LocalStarts r' o' t u) : LocalStarts r' o' s u := by
  obtain ⟨_, _, _, _, _, rfl, _⟩ := h
  obtain ⟨ports, locals, sched, ev, freeCount, rfl, ho⟩ := k
  exact ⟨ports, locals, sched, ev, freeCount, rfl, ho⟩

/-- The start of local frames goes on after no notice was offered. -/
theorem LocalServed.trans {s t u : State} (h : LocalServed s t) (k : LocalServed t u) : LocalServed s u := by
  obtain ⟨_, _, _, _, _, rfl, ho⟩ := h
  obtain ⟨ports, locals, sched, ev, freeCount, rfl, ho'⟩ := k
  exact ⟨ports, locals, sched, ev, freeCount, rfl, ho'.trans ho⟩

theorem LocalOnly.kick {s : State} {p : Port} (h : LocalOnly s) (hp : LocalFirst s p) : LocalOnly (kick p s) := by
  intro q hq
  change (s.ev.kick.set p true).get q = true at hq
  rw [PerPort.get_set] at hq
  split at hq
  · next he => rw [he]; exact hp
  · exact h q hq

/-! ## The update of a pacing bucket -/

theorem touch_pacing (l : Link) (s : State) :
    ∃ d e, touch (.pacing l) s = { s with sched := d, ev := e } ∧ e.outbox = s.ev.outbox
      ∧ ∀ p, e.kick.get p = true → s.ev.kick.get p = true ∨ p = .bh l := by
  unfold touch
  simp only
  split
  · refine ⟨_, _, rfl, rfl, fun p hp => ?_⟩
    change (s.ev.kick.set (.bh l) true).get p = true at hp
    rw [PerPort.get_set] at hp
    split at hp
    · next he => exact .inr he
    · exact .inl hp
  · exact ⟨_, s.ev, rfl, rfl, fun p hp => .inl hp⟩

theorem charge_pacing (l : Link) (n : Nat) (s : State) :
    ∃ d e, charge (.pacing l) n s = { s with sched := d, ev := e } ∧ e.outbox = s.ev.outbox
      ∧ ∀ p, e.kick.get p = true → s.ev.kick.get p = true ∨ p = .bh l := by
  obtain ⟨d, e, h, ho, hk⟩ := touch_pacing l s
  refine ⟨((touch (.pacing l) s).setBucket (.pacing l) (((touch (.pacing l) s).bucket (.pacing l)).charge n)).sched, e,
    ?_, ho, hk⟩
  unfold charge
  simp only [h]
  rfl

/-! ## The arbiter of a port with a local frame to send -/

/-- A local frame that starts on a port: the port sends it, and every other port is as it was. -/
theorem LocalOnly.begin {s u : State} {p : Port} {f : LocalFrame} {rest : List LocalFrame} {bytes : List Byte}
    {d : Departure} {e : EventWork} (h : ∀ q, s.ev.kick.get q = true ∨ q = p → LocalFirst s q)
    (hu : u = { s with queues := { s.queues with locals := s.queues.locals.set p rest }, sched := d, ev := e })
    (hk : ∀ q, e.kick.get q = true → s.ev.kick.get q = true ∨ q = p) (ho : e.outbox = s.ev.outbox) :
    LocalOnly (beginTx p (.store f) bytes u) ∧ LocalServed s (beginTx p (.store f) bytes u) := by
  subst hu
  refine ⟨fun q hq => ?_, ⟨_, _, _, _, _, rfl, ho⟩⟩
  intro hup htx
  change ((s.ports.set p _).get q).linkUp = true at hup
  change ((s.ports.set p _).get q).tx = none at htx
  rw [PerPort.get_set] at hup htx
  split at htx
  · cases htx
  · next hne =>
    rw [if_neg hne] at hup
    change (s.queues.locals.set p rest).get q ≠ []
    rw [PerPort.get_set, if_neg hne]
    exact h q (hk q hq) hup htx

theorem serveAccess_local {s : State} {p : Port} (h : ∀ q, s.ev.kick.get q = true ∨ q = p → LocalFirst s q) :
    LocalOnly (serveAccess p s) ∧ LocalServed s (serveAccess p s) := by
  unfold serveAccess
  split
  · next hready =>
    simp only [Bool.and_eq_true, Option.isNone_iff_eq_none] at hready
    split
    · exact LocalOnly.begin (d := s.sched) (e := s.ev) h rfl (fun _ hq => .inl hq) rfl
    · next hq => exact absurd hq (h p (.inr rfl) hready.1 hready.2)
  · exact ⟨fun q hq => h q (.inl hq), LocalServed.refl s⟩

theorem serveBackhaul_local {s : State} {l : Link} (h : ∀ q, s.ev.kick.get q = true ∨ q = .bh l → LocalFirst s q) :
    LocalOnly (serveBackhaul l s) ∧ LocalServed s (serveBackhaul l s) := by
  obtain ⟨d, e, htouch, ho, hk⟩ := touch_pacing l s
  have hcalls : ∀ q, e.kick.get q = true ∨ q = .bh l → LocalFirst s q := fun q hq =>
    h q (hq.elim (hk q) .inr)
  have hstart : LocalServed s { s with sched := d, ev := e } :=
    ⟨_, _, _, _, _, rfl, ho⟩
  unfold serveBackhaul
  simp only [htouch]
  split
  · next hready =>
    simp only [portReady, Bool.and_eq_true, Option.isNone_iff_eq_none] at hready
    unfold selectionPass
    split
    · next f rest hq =>
      obtain ⟨d', e', hcharge, ho', hk'⟩ := charge_pacing l (localBytes f).length
        (({ s with sched := d, ev := e } : State).setLocalQ (.bh l) rest)
      obtain ⟨hlocal, hstarts⟩ := LocalOnly.begin (s := { s with sched := d, ev := e }) (p := .bh l) (f := f)
        (bytes := localBytes f) (fun q hq => hcalls q hq) hcharge hk' ho'
      exact ⟨hlocal, LocalServed.trans hstart hstarts⟩
    · next hq => exact absurd hq (hcalls (.bh l) (.inr rfl) hready.1.1 hready.1.2)
  · exact ⟨fun q hq => hcalls q (.inl hq), hstart⟩

theorem serve_local {s : State} {p : Port} (h : LocalOnly s) (hp : s.ev.kick.get p = true) :
    LocalOnly (serve p s) ∧ LocalServed s (serve p s) := by
  have hclear : LocalServed s { s with ev := { s.ev with kick := s.ev.kick.set p false } } :=
    ⟨_, _, _, _, _, rfl, rfl⟩
  have hcalls : ∀ q, (s.ev.kick.set p false).get q = true ∨ q = p →
      LocalFirst { s with ev := { s.ev with kick := s.ev.kick.set p false } } q := by
    rintro q (hq | rfl)
    · rw [PerPort.get_set] at hq
      split at hq
      · cases hq
      · exact h q hq
    · exact h q hp
  unfold serve
  cases p with
  | bh l => exact ⟨(serveBackhaul_local hcalls).1, LocalServed.trans hclear (serveBackhaul_local hcalls).2⟩
  | ap i => exact ⟨(serveAccess_local hcalls).1, LocalServed.trans hclear (serveAccess_local hcalls).2⟩
  | sp => exact ⟨(serveAccess_local hcalls).1, LocalServed.trans hclear (serveAccess_local hcalls).2⟩

/-- The next port served is a called one, and only the free values are read (R97). -/
theorem nextServed_some {s s1 : State} {p : Port} (h : nextServed s = (some p, s1)) :
    s.ev.kick.get p = true ∧ ∃ n, s1 = { s with freeCount := n } := by
  unfold nextServed at h
  split at h
  · next q hq =>
    cases h
    exact ⟨by simpa using List.find?_some hq, s.freeCount, rfl⟩
  · split at h
    · next hb =>
      simp only [Bool.and_eq_true] at hb
      cases h
      refine ⟨?_, s.freeCount + 1, rfl⟩
      split
      · exact hb.2
      · exact hb.1
    · split at h
      · next hb => cases h; exact ⟨hb, s.freeCount, rfl⟩
      · split at h
        · next hb => cases h; exact ⟨hb, s.freeCount, rfl⟩
        · cases h

theorem nextServed_none {s s1 : State} (h : nextServed s = (none, s1)) : s1 = s := by
  unfold nextServed at h
  split at h
  · cases h
  · split at h
    · cases h
    · split at h
      · cases h
      · split at h
        · cases h
        · cases h; rfl

/-! ## Offers and the rounds of an event -/

theorem offerLocal_local {s : State} (p : Port) (f : LocalFrame) (h : LocalOnly s) :
    LocalOnly (offerLocal p f s).2 ∧ LocalServed s (offerLocal p f s).2 := by
  unfold offerLocal
  split
  · refine ⟨LocalOnly.kick (fun q hq => ?_) fun _ _ => ?_, ⟨_, _, _, _, _, rfl, rfl⟩⟩
    · intro hup htx
      change (s.queues.locals.set p _).get q ≠ []
      rw [PerPort.get_set]
      split
      · simp
      · exact h q hq hup htx
    · change (s.queues.locals.set p _).get p ≠ []
      simp
  · exact ⟨h, LocalServed.refl s⟩

/-- The copies of one notice are offered (R166). -/
theorem offerCopies_local (n : Notice) {s : State} (h : LocalOnly s) :
    LocalOnly (offerCopies n s) ∧ ∃ r, LocalStarts r s.ev.outbox s (offerCopies n s) := by
  unfold offerCopies
  generalize Port.list = ps
  induction ps generalizing s with
  | nil => exact ⟨h, s.mgmt.notice.refused, LocalServed.refl s⟩
  | cons p ps ih =>
    rw [List.foldl_cons]
    split
    · obtain ⟨hlocal, hserved⟩ := offerLocal_local p (.notice n) h
      have hbox : (offerLocal p (.notice n) s).2.ev.outbox = s.ev.outbox := by
        obtain ⟨_, _, _, _, _, he, ho⟩ := hserved
        rw [he]; exact ho
      split
      · next u hu =>
        rw [hu] at hlocal hserved hbox
        obtain ⟨k, r, hr⟩ := ih hlocal
        rw [hbox] at hr
        exact ⟨k, r, LocalStarts.trans hserved hr⟩
      · next u hu =>
        rw [hu] at hlocal hserved hbox
        obtain ⟨k, r, hr⟩ := ih
          (s := u.setNotice { u.mgmt.notice with refused := u.mgmt.notice.refused + 1 }) hlocal
        have hset : LocalStarts (u.mgmt.notice.refused + 1) u.ev.outbox u
            (u.setNotice { u.mgmt.notice with refused := u.mgmt.notice.refused + 1 }) :=
          ⟨_, _, _, _, _, rfl, rfl⟩
        change LocalStarts r u.ev.outbox _ _ at hr
        rw [hbox] at hr
        exact ⟨k, r, (LocalStarts.trans hserved hset).trans hr⟩
    · exact ih h

/-- The notices of an event are offered: none waits any more (R157, R166). -/
theorem offerNotices_local {s : State} (h : LocalOnly s) :
    LocalOnly (offerNotices s) ∧ ∃ r, LocalStarts r [] s (offerNotices s) := by
  have hclear : LocalStarts s.mgmt.notice.refused [] s { s with ev := { s.ev with outbox := [] } } :=
    ⟨_, _, _, _, _, rfl, rfl⟩
  unfold offerNotices
  have hfold : ∀ (ns : List Notice) (u : State), LocalOnly u → u.ev.outbox = [] →
      LocalOnly (ns.foldl (fun s n => offerCopies n s) u)
        ∧ ∃ r, LocalStarts r [] u (ns.foldl (fun s n => offerCopies n s) u) := by
    intro ns
    induction ns with
    | nil => exact fun u hu ho => ⟨hu, _, u.ports, u.queues.locals, u.sched, u.ev, u.freeCount, rfl, ho⟩
    | cons n ns ih =>
      intro u hu ho
      obtain ⟨k, r, hr⟩ := offerCopies_local n hu
      have ho' : (offerCopies n u).ev.outbox = [] := by
        obtain ⟨_, _, _, _, _, he, hb⟩ := hr
        rw [he]; exact hb.trans ho
      obtain ⟨k', r', hr'⟩ := ih _ k ho'
      rw [List.foldl_cons]
      exact ⟨k', r', hr.trans hr'⟩
  have hcalls : LocalOnly { s with ev := { s.ev with outbox := [] } } := fun p hp => h p hp
  obtain ⟨k, r, hr⟩ := hfold s.ev.outbox _ hcalls rfl
  exact ⟨k, r, LocalStarts.trans hclear hr⟩

/-- The rounds of an event that calls only ports with a local frame to send start local frames alone. -/
theorem settleRounds_local (n : Nat) {s : State} (h : LocalOnly s) (ho : s.ev.outbox = []) :
    LocalServed s (settleRounds n s) := by
  induction n generalizing s with
  | zero => exact LocalServed.refl s
  | succ n ih =>
    unfold settleRounds
    rw [ho]
    simp only [List.isEmpty_nil, Bool.not_true, Bool.false_eq_true, if_false]
    split
    · next p s1 hn =>
      obtain ⟨hp, c, rfl⟩ := nextServed_some hn
      obtain ⟨hlocal, hserved⟩ := serve_local (s := { s with freeCount := c }) h hp
      have ho' : (serve p { s with freeCount := c }).ev.outbox = [] := by
        obtain ⟨_, _, _, _, _, he, hb⟩ := hserved
        rw [he]; exact hb.trans ho
      have hfree : LocalServed s { s with freeCount := c } := ⟨_, _, _, _, _, rfl, rfl⟩
      exact LocalServed.trans (LocalServed.trans hfree hserved) (ih hlocal ho')
    · next s1 hn => rw [nextServed_none hn]; exact LocalServed.refl s

/-- An event that calls only ports with a local frame to send, and that built no notice, ends with the start of local
frames alone. -/
theorem settle_local {s : State} (h : LocalOnly s) (ho : s.ev.outbox = []) :
    ∃ ports locals sched freeCount,
      settle s = { s with ports, sched, freeCount, ev := noWork, queues := { s.queues with locals } } := by
  obtain ⟨ports, locals, sched, ev, freeCount, he, _⟩ := settleRounds_local 64 h ho
  exact ⟨ports, locals, sched, freeCount, by unfold settle; rw [he]⟩

end Sys2Proof.Machine
end

section
/-!
PROOF. Requests whose operation writes the running classes, and nothing that moves a frame: the answer joins the local
queue of its port, and what follows is the start of local frames (R2, R104, R115, R130, R131, R139, R158, R161).
-/

namespace Sys2Proof.Machine

/-- A state as an event finds it: with no work yet. -/
abbrev State.begun (s : State) : State := { s with ev := noWork }

/-! ## The acceptance of a request (R157, R158) -/

/-- An accepted request is its operation, the offer of its response, and the end of the event (R157, R158). -/
theorem rowRequest_accepted {h : Header} {kind code : Nat} {sel : Selector} {body : List Field} {op : Operation}
    {s s1 : State} {x : Reply} (ha : Accepts h s) (hk : sel.kind.toNat ≤ 3) (hx : x.after = .nothing)
    (hop : op sel body { s with ev := noWork } = (x, s1)) :
    rowRequest h kind code sel body op s
      = settle (offerFrame h.port (.response (responseTo h { kind, code, sel, body := some body } x s1)) s1) := by
  obtain ⟨hrun, hm, hroom⟩ := ha
  have hroom' : ¬16 ≤ ({ s with ev := noWork } : State).placesTaken h.port := by
    show ¬16 ≤ s.placesTaken h.port
    omega
  simp [rowRequest, event, gateRequest, hrun, acceptRequest, hm, hroom', execute, executed, perform, hk, hop, hx,
    finishRestart]

/-- An accepted request that calls no arbiter but those of ports with a local frame to send ends with the start of local
frames: every other block is as the operation left it. -/
theorem request_local {h : Header} {kind code : Nat} {sel : Selector} {body : List Field} {op : Operation}
    {s s1 : State} {x : Reply} (ha : Accepts h s) (hk : sel.kind.toNat ≤ 3) (hx : x.after = .nothing)
    (hop : op sel body { s with ev := noWork } = (x, s1)) (hcalls : LocalOnly s1) (ho : s1.ev.outbox = []) :
    ∃ ports locals sched freeCount, rowRequest h kind code sel body op s
      = { s1 with ports, sched, freeCount, ev := noWork, queues := { s1.queues with locals } } := by
  rw [rowRequest_accepted ha hk hx hop]
  obtain ⟨hlocal, _, _, _, _, _, hserved, hbox⟩ :=
    offerLocal_local h.port (.response (responseTo h { kind, code, sel, body := some body } x s1)) hcalls
  obtain ⟨ports, locals, sched, freeCount, hsettle⟩ := settle_local hlocal (by rw [hserved]; exact hbox.trans ho)
  refine ⟨ports, locals, sched, freeCount, ?_⟩
  show settle (offerLocal _ _ _).2 = _
  rw [hsettle, hserved]

/-- An event that has called nothing yet. -/
theorem localOnly_noWork {s : State} (h : s.ev = noWork) : LocalOnly s := by
  intro p hp
  rw [h] at hp
  rcases p with i | _ | l
  · simp [noWork, PerPort.get, PerPort.all] at hp
  · cases hp
  · cases l <;> cases hp

/-- An accepted request whose operation moves no frame: as Steady.request, with the body of the answer. -/
theorem Steady.requestWith {w : List Part} {h : Header} {kind code : Nat} {sel : Selector} {body : List Field}
    {op : Operation} {s s1 : State} {st : Status} {items : List Item} (ha : Accepts h s) (hk : sel.kind.toNat ≤ 3)
    (hop : op sel body { s with ev := noWork } = ({ status := st, body := items, after := .nothing }, s1))
    (ht : Told { s with ev := noWork } s1) (hs : Steady w { s with ev := noWork } s1)
    (hup : Part.linkUp ∉ w := by decide) (hst : s1.store.runAddr = s.store.runAddr := by rfl) :
    Departs s1 (rowRequest h kind code sel body op s)
      ∧ AnsweredWith h kind code sel st items s (rowRequest h kind code sel body op s)
      ∧ Kept (.locals :: w) s (rowRequest h kind code sel body op s) := by
  obtain ⟨hdep, hans, hnotice⟩ := request_next (kind := kind) (code := code) ha hk hop ht
    (fun p => by unfold State.localQ; rw [hs.queues]) hs.tx (hs.kept .linkUp hup rfl) hst
  have hkept := (((ev_steady s noWork).mono (by simp)).trans hs).departs hdep (fun hl => absurd hl hup)
  refine ⟨hdep, hans, fun a hw => ?_⟩
  by_cases hn : a = .notice
  · rw [hn]; exact hnotice
  · exact hkept a (by simpa [hn] using hw)

/-- An accepted request whose operation leaves the state as it is answers alone. -/
theorem request_answers {h : Header} {kind code : Nat} {sel : Selector} {body : List Field} {op : Operation}
    {s : State} {st : Status} {items : List Item} (ha : Accepts h s) (hk : sel.kind.toNat ≤ 3)
    (hop : op sel body { s with ev := noWork }
      = ({ status := st, body := items, after := .nothing }, { s with ev := noWork })) :
    Kept [.locals] s (rowRequest h kind code sel body op s)
      ∧ AnsweredWith h kind code sel st items s (rowRequest h kind code sel body op s) :=
  have ⟨_, hans, hkept⟩ := Steady.requestWith ha hk hop (Told.refl _) (Steady.refl [] _)
  ⟨hkept, hans⟩

/-- An accepted request whose operation writes the running classes leaves those classes, and the management records as
they were. -/
theorem request_writes {h : Header} {kind code : Nat} {sel : Selector} {body : List Field} {op : Operation}
    {s : State} {st : Status} {items : List Item} {c : Classes} (ha : Accepts h s) (hk : sel.kind.toNat ≤ 3)
    (hop : op sel body { s with ev := noWork }
      = ({ status := st, body := items, after := .nothing }, { s with ev := noWork, cfg := c })) :
    (rowRequest h kind code sel body op s).cfg = c ∧ (rowRequest h kind code sel body op s).mgmt = s.mgmt
      ∧ Kept [.locals, .config] s (rowRequest h kind code sel body op s)
      ∧ AnsweredWith h kind code sel st items s (rowRequest h kind code sel body op s) := by
  obtain ⟨hdep, hans, hkept⟩ := Steady.requestWith (kind := kind) (code := code) ha hk hop
    (told_quiet rfl rfl rfl rfl rfl) (cfg_steady { s with ev := noWork } c)
  obtain ⟨_, _, _, _, hlocal⟩ := request_local (kind := kind) (code := code) ha hk rfl hop (localOnly_noWork rfl) rfl
  exact ⟨hdep.1 .config rfl, by rw [hlocal], hkept, hans⟩

/-- The order of R161 passed: the form and the content are right, and no SAVE_SLOT runs. -/
theorem checked_passes {valid : Bool} {s : State} (hv : valid = true) (hs : saveRuns s = false)
    (f : State → Reply × State) : checked valid f s = f s := by
  simp [checked, hv, hs]

theorem checked_saving {valid : Bool} {s : State} (hv : valid = true) (hs : saveRuns s = true)
    (f : State → Reply × State) : checked valid f s = refuse .busy s := by
  simp [checked, hv, hs]

/-! ## PORT, STEP and PULSE_OUTPUT (R2, R115, R139) -/

/-- A PORT write of the right form is what R2 makes of the permissions it leaves. -/
theorem portClassWrite_named {sel : Selector} {body : List Field} {s : State} {p : Port} (hp : selPort sel = some p)
    (hok : portWriteOk p body s = true) (hs : saveRuns s = false) :
    portClassWrite sel body s
      = if anyMgmt (s.cfg.ports.set p (portWritten body (s.cfg.ports.get p))) then
          okay (portItems p)
            { s with cfg := { s.cfg with ports := s.cfg.ports.set p (portWritten body (s.cfg.ports.get p)) } }
        else refuse .notPermitted s := by
  simp only [portClassWrite, hp, checked_passes hok hs]
  rfl

/-- Settles O1, by whether some port keeps management permitted. -/
theorem portWriteReplacesTheRecord : Obligations.PortWriteReplacesTheRecord := by
  refine ⟨fun h sel body s p ha hp hok hs hany => ⟨_, rfl, ?_⟩, fun h sel body s p ha hp hok hs hany => ⟨_, rfl, ?_⟩⟩
  · obtain ⟨hcfg, _, hkept, hans⟩ := request_writes (op := portClassWrite) (kind := 2) (code := 1) ha (selPort_kind hp)
      ((portClassWrite_named (s := s.begun) hp hok hs).trans (if_pos hany))
    exact ⟨hcfg, hkept, _, hans⟩
  · exact request_unchanged (op := portClassWrite) ha (selPort_kind hp)
      ((portClassWrite_named (s := s.begun) hp hok hs).trans (if_neg (by simpa using hany)))

theorem stepClassWrite_named {sel : Selector} {body : List Field} {s : State} {i : Fin 32}
    (hi : selIndex 32 sel = some i) (hok : stepWriteOk body = true) (hs : saveRuns s = false) :
    stepClassWrite sel body s
      = okay (stepItems i)
          { s with cfg := { s.cfg with steps := tset s.cfg.steps i (stepWritten body (tget s.cfg.steps i)) } } := by
  simp only [stepClassWrite, hi, checked_passes hok hs]
  rfl

/-! ## SCHEDULE (R130, R131) -/

/-- An entry joins the table at the place its time gives it (R129). -/
theorem insertEntry_perm (e : ScheduleEntry) (t : List ScheduleEntry) : (insertEntry e t).Perm (e :: t) := by
  induction t with
  | nil => exact List.Perm.refl _
  | cons x rest ih =>
    unfold insertEntry
    split
    · exact List.Perm.refl _
    · exact (ih.cons x).trans (List.Perm.swap e x rest)

/-- An entry whose time no other entry holds keeps the order of the table (R129). -/
theorem insertEntry_law {e : ScheduleEntry} {t : List ScheduleEntry} (h : scheduleLaw t)
    (hne : ∀ x ∈ t, x.time ≠ e.time) : scheduleLaw (insertEntry e t) := by
  unfold scheduleLaw at h ⊢
  induction t with
  | nil => simp [insertEntry]
  | cons x rest ih =>
    simp only [List.map_cons, List.pairwise_cons, List.mem_map, forall_exists_index, and_imp,
      forall_apply_eq_imp_iff₂] at h
    unfold insertEntry
    split
    · next hlt =>
      simp only [List.map_cons, List.pairwise_cons, List.mem_cons, List.mem_map]
      refine ⟨?_, ?_, h.2⟩
      · rintro _ (rfl | ⟨y, hy, rfl⟩)
        · exact hlt
        · exact hlt.trans (h.1 y hy)
      · rintro _ ⟨y, hy, rfl⟩
        exact h.1 y hy
    · next hge =>
      simp only [List.map_cons, List.pairwise_cons, List.mem_map]
      refine ⟨?_, ih h.2 fun y hy => hne y (List.mem_cons_of_mem _ hy)⟩
      rintro _ ⟨y, hy, rfl⟩
      rcases List.mem_cons.1 ((insertEntry_perm e rest).subset hy) with rfl | hy'
      · have := hne x List.mem_cons_self
        omega
      · exact h.1 y hy'

/-- Settles O12, by the checks of R130 in their order. -/
theorem scheduleWriteInsertsInOrder : Obligations.ScheduleWriteInsertsInOrder := by
  intro h sel body s e ha hk he hs
  refine ⟨_, rfl, ?_⟩
  have hop : scheduleClassWrite body { s with ev := noWork } = placeScheduled e { s with ev := noWork } := by
    simp only [scheduleClassWrite, he]
    exact checked_passes (s := s.begun) rfl hs _
  split
  · next hpast =>
    refine request_unchanged (op := fun _ => scheduleClassWrite) (items := []) ha hk (hop.trans ?_)
    simp [placeScheduled, refuse, hpast]
  next hpast =>
  split
  · next hheld =>
    refine request_unchanged (op := fun _ => scheduleClassWrite) (items := []) ha hk (hop.trans ?_)
    simp [placeScheduled, refuse, hpast, hheld]
  next hheld =>
  split
  · next hfull =>
    refine request_unchanged (op := fun _ => scheduleClassWrite) (items := []) ha hk (hop.trans ?_)
    simp [placeScheduled, refuse, hpast, hheld, hfull]
  next hfull =>
  obtain ⟨hcfg, _, hkept, hans⟩ := request_writes (op := fun _ => scheduleClassWrite) (kind := 2) (code := 11)
    (st := .ok) (c := { s.cfg with schedule := insertEntry e s.cfg.schedule }) ha hk (by
      rw [hop]
      simp only [placeScheduled, Bool.and_eq_true, decide_eq_true_eq, hpast, if_false, List.any_eq_true, beq_iff_eq,
        hheld, hfull]
      rfl)
  refine ⟨by rw [hcfg], fun hlaw => ?_, ?_, hkept, _, hans⟩
  · rw [hcfg]
    exact insertEntry_law hlaw fun x hx hxe => hheld ⟨x, hx, hxe⟩
  · rw [hcfg]
    exact insertEntry_perm e _

/-- Settles O13: the entry named is in the table, and its removal is a write of the classes. -/
theorem scheduleDeleteRemovesTheEntry : Obligations.ScheduleDeleteRemovesTheEntry := by
  intro h sel body s n ha hn hok hs
  have hop : scheduleClassDelete sel body { s with ev := noWork } = deleteScheduled n { s with ev := noWork } := by
    simp only [scheduleClassDelete, hn]
    exact checked_passes (s := s.begun) hok hs _
  refine ⟨_, rfl, ?_⟩
  change match namedEntry n s.cfg.schedule with | none => _ | some k => _
  split
  · next hnone =>
    refine request_answers (op := scheduleClassDelete) ha (selEntry_kind hn) (hop.trans ?_)
    simp [deleteScheduled, refuse, hnone]
  · next k hsome =>
    have hlt : k < s.cfg.schedule.length := by
      cases n with
      | position m =>
        simp only [namedEntry] at hsome
        split at hsome
        · next hm => cases hsome; exact hm
        · cases hsome
      | time x => exact (List.findIdx?_eq_some_iff_getElem.1 hsome).1
    obtain ⟨hcfg, _, hkept, hans⟩ := request_writes (op := scheduleClassDelete) (kind := 3) (code := 11) (st := .ok)
      (items := entryItems s.cfg.schedule[k]) (c := { s.cfg with schedule := s.cfg.schedule.eraseIdx k }) ha
      (selEntry_kind hn) (by
        rw [hop]
        simp only [deleteScheduled, hsome, List.getElem?_eq_getElem hlt]
        rfl)
    exact ⟨_, List.getElem?_eq_getElem hlt, hcfg, hkept, hans⟩

end Sys2Proof.Machine
end

section
/-!
PROOF. Requests on tenants, shares, parameters and links: a change of the running classes and of a bucket, and at most one
computation (R36, R61, R62, R64, R68, R84, R86, R87).
-/

namespace Sys2Proof.Machine

/-- A computation on a change u of a state s that keeps the table, the latches but for those listed, and the clock, is
one computation between s and what follows (R79, R81). -/
theorem OneComputation.of_eq {s u t : State} (h : OneComputation u t) (hs : u.share.table = s.share.table)
    (hl : u.latch .capacityChanged = s.latch .capacityChanged) (hn : u.nowNs = s.nowNs) : OneComputation s t := by
  unfold OneComputation at h ⊢
  rwa [hs, hl, hn] at h

/-! ## TENANT (R61, R62) -/

theorem tenantClassWrite_refused {sel : Selector} {body : List Field} {s : State} {i : Tenant}
    (hi : selIndex 8 sel = some i) (hok : tenantWriteOk body = true) (hs : saveRuns s = false)
    (hc : (tenantWritten body (s.tenantCfg i)).active = true ∧ (s.tenantCfg i).active = false
      ∧ shareLaw (tset s.cfg.tenants i (tenantWritten body (s.tenantCfg i))) s.cfg.sets = false) :
    tenantClassWrite sel body s = refuse .shareExceeded s := by
  simp only [tenantClassWrite, hi, checked_passes hok hs, hc, Bool.not_false, Bool.and_self, if_true]

theorem tenantClassWrite_accepted {sel : Selector} {body : List Field} {s : State} {i : Tenant}
    (hi : selIndex 8 sel = some i) (hok : tenantWriteOk body = true) (hs : saveRuns s = false)
    (hc : ¬((tenantWritten body (s.tenantCfg i)).active = true ∧ (s.tenantCfg i).active = false
      ∧ shareLaw (tset s.cfg.tenants i (tenantWritten body (s.tenantCfg i))) s.cfg.sets = false)) :
    tenantClassWrite sel body s
      = okay (tenantItems i) (applyTenant i body (tenantWritten body (s.tenantCfg i)) s) := by
  simp only [tenantClassWrite, hi, checked_passes hok hs]
  rw [if_neg]
  simpa only [Bool.and_eq_true, Bool.not_eq_true', and_assoc] using hc

/-- A tenant's record and its bucket's depth, before the computation that a change of its flag calls for. -/
def tenantPlaced (i : Tenant) (body : List Field) (c : TenantConfig) (s : State) : State :=
  let s1 : State := { s with cfg := { s.cfg with tenants := tset s.cfg.tenants i c } }
  if (bytes? body 4).isSome then setDepth i c.depth s1 else s1

theorem applyTenant_eq (i : Tenant) (body : List Field) (c : TenantConfig) (s : State) :
    applyTenant i body c s
      = if c.active = (s.tenantCfg i).active then tenantPlaced i body c s
        else recompute (kickBackhaul (tenantPlaced i body c s)) := rfl

/-- The record is written, and nothing but the depth of the tenant's bucket with it (R61, R87). -/
theorem tenantPlaced_shape (i : Tenant) (body : List Field) (c : TenantConfig) (s : State) :
    (∃ d e, tenantPlaced i body c s
        = { s with cfg := { s.cfg with tenants := tset s.cfg.tenants i c }, sched := d, ev := e })
      ∧ (∀ b, ((tenantPlaced i body c s).bucket b).rate = (s.bucket b).rate)
      ∧ ∀ b, ((tenantPlaced i body c s).bucket b).depth
          = if b = .tenant i ∧ (bytes? body 4).isSome then c.depth * 8 else (s.bucket b).depth := by
  have hb : ∀ b, ({ s with cfg := { s.cfg with tenants := tset s.cfg.tenants i c } } : State).bucket b = s.bucket b :=
    fun b => by cases b <;> rfl
  unfold tenantPlaced
  simp only
  split
  · next hdepth =>
    obtain ⟨d, e, h, hr, hd⟩ :=
      setDepth_shape i c.depth { s with cfg := { s.cfg with tenants := tset s.cfg.tenants i c } }
    exact ⟨⟨d, e, h⟩, fun b => by rw [hr, hb], fun b => by rw [hd, hb]; simp [hdepth]⟩
  · next hdepth => exact ⟨⟨s.sched, s.ev, rfl⟩, fun b => by rw [hb], fun b => by rw [hb]; simp [hdepth]⟩

theorem tenantPlaced_steady (i : Tenant) (body : List Field) (c : TenantConfig) (s : State) :
    Steady [.config, .rates] s (tenantPlaced i body c s) := by
  have hcfg := (cfg_steady s { s.cfg with tenants := tset s.cfg.tenants i c }).mono (v := [.config, .rates]) (by simp)
  unfold tenantPlaced
  simp only
  split
  · exact hcfg.trans ((setDepth_steady i c.depth _).mono (by simp))
  · exact hcfg

theorem told_setBucket (b : BucketId) (x : Bucket) (s : State) : Told s (s.setBucket b x) := told_quiet rfl rfl rfl rfl rfl

theorem told_setDepth (i : Tenant) (n : Nat) (s : State) : Told s (setDepth i n s) :=
  (told_touch (.tenant i) s).trans (told_setBucket (.tenant i) _ (touch (.tenant i) s))

theorem told_setRate (b : BucketId) (r : Nat) (s : State) : Told s (setRate b r s) :=
  (told_touch b s).trans (told_setBucket b _ (touch b s))

theorem told_cfg (s : State) (c : Classes) : Told s { s with cfg := c } := told_quiet rfl rfl rfl rfl rfl

theorem told_tenantPlaced (i : Tenant) (body : List Field) (c : TenantConfig) (s : State) :
    Told s (tenantPlaced i body c s) := by
  unfold tenantPlaced
  simp only
  split
  · exact (told_cfg s _).trans (told_setDepth _ _ _)
  · exact told_cfg s _

/-- Settles O7, by the share-sum law and by whether the active flag changes. -/
theorem tenantWriteReplacesTheRecord : Obligations.TenantWriteReplacesTheRecord := by
  intro h sel body s i ha hi hok hs
  refine ⟨_, rfl, ?_⟩
  split
  · next hc =>
    exact request_unchanged (op := tenantClassWrite) ha (selIndex_kind hi)
      (tenantClassWrite_refused (s := s.begun) hi hok hs hc)
  next hc =>
  have hop := (tenantClassWrite_accepted (s := s.begun) hi hok hs hc).trans
    (congrArg _ (applyTenant_eq i body (tenantWritten body (s.tenantCfg i)) s.begun))
  obtain ⟨⟨d, e, heq⟩, hrates, hdepths⟩ := tenantPlaced_shape i body (tenantWritten body (s.tenantCfg i)) s.begun
  have hsteady := tenantPlaced_steady i body (tenantWritten body (s.tenantCfg i)) s.begun
  have htold := told_tenantPlaced i body (tenantWritten body (s.tenantCfg i)) s.begun
  by_cases hflag : (tenantWritten body (s.tenantCfg i)).active = (s.tenantCfg i).active
  · rw [if_pos (by exact hflag)] at hop
    obtain ⟨hdep, hans, hkept⟩ := Steady.request (op := tenantClassWrite) (kind := 2) (code := 3) ha (selIndex_kind hi)
      hop htold hsteady
    have hb : ∀ b, _ := hdep.1 .rates rfl
    refine ⟨?_, hans, ?_, fun b hb' => ?_, ?_⟩
    · rw [hdep.1 .config rfl, heq]
    · rw [(hb _).2, hdepths]; simp
    · rw [(hb _).2, hdepths, if_neg (fun hx => hb' (by simp [hx.1])), State.bucket_ev]
    · rw [if_pos hflag]
      exact ⟨hkept, fun b => by rw [(hb _).1, hrates, State.bucket_ev]⟩
  · rw [if_neg (by exact hflag)] at hop
    have hcomp := recompute_steady (kickBackhaul (tenantPlaced i body (tenantWritten body (s.tenantCfg i)) s.begun))
    obtain ⟨hdep, hans, hkept⟩ := Steady.request (w := .config :: computed) (op := tenantClassWrite) (kind := 2)
      (code := 3) ha (selIndex_kind hi) hop ((htold.trans (told_kickBackhaul _)).trans (told_recompute _))
      (((hsteady.mono (by decide)).trans ((kickBackhaul_steady _).mono (by simp))).trans (hcomp.mono (by decide)))
    obtain ⟨hone, hcalc, hother, hdepth, hlatch⟩ := recompute_departs hdep
    have hbk : ∀ b, (kickBackhaul (tenantPlaced i body (tenantWritten body (s.tenantCfg i)) s.begun)).bucket b
        = (tenantPlaced i body (tenantWritten body (s.tenantCfg i)) s.begun).bucket b := fun b => by cases b <;> rfl
    have hshare : (kickBackhaul (tenantPlaced i body (tenantWritten body (s.tenantCfg i)) s.begun)).share = s.share := by
      rw [heq]; rfl
    have hlat : ∀ k, (kickBackhaul (tenantPlaced i body (tenantWritten body (s.tenantCfg i)) s.begun)).latch k
        = s.latch k := fun k => by rw [heq]; rfl
    refine ⟨?_, hans, ?_, fun b hb' => ?_, ?_⟩
    · rw [hdep.1 .config rfl, hcomp.kept .config (by decide) rfl, heq]
      rfl
    · rw [hdepth _ (by simp), hbk, hdepths]; simp
    · rw [hdepth _ (by simp), hbk, hdepths, if_neg (fun hx => hb' (by simp [hx.1])), State.bucket_ev]
    · rw [if_neg hflag]
      refine ⟨hone.of_eq (by rw [hshare]) (hlat _) (by rw [heq]; rfl), by rw [hcalc, hshare], fun b h1 h2 => ?_,
        fun c h1 h2 => ?_, hkept.mono (by decide)⟩
      · rw [hother b h1 h2, hbk, hrates, State.bucket_ev]
      · rw [hlatch c h1 h2, hlat]

/-! ## SHARE_SET and PARAMETERS (R64, R68) -/

theorem shareClassWrite_named {sel : Selector} {body : List Field} {s : State} {k : SetId}
    (hp : namesParams sel = false) (hk : selIndex 4 sel = some k) (hok : shareWriteOk body = true)
    (hs : saveRuns s = false) :
    shareClassWrite sel body s
      = if guaranteeSum s.cfg.tenants (setWritten body (tget s.cfg.sets k)) ≤ 1000 then
          okay (shareSetItems k) (applySet k (setWritten body (tget s.cfg.sets k)) s)
        else refuse .shareExceeded s := by
  simp only [shareClassWrite, hp, Bool.false_eq_true, if_false, hk, checked_passes hok hs]

theorem paramClassWrite_named {body : List Field} {s : State} (hok : paramWriteOk body = true)
    (hs : saveRuns s = false) : paramClassWrite body s = okay paramItems (applyParams body s) :=
  checked_passes hok hs _

/-- Settles O8: a set within the law, and the parameters, are written, with the one computation that each calls for. -/
theorem shareWritesReplaceAndCompute : Obligations.ShareWritesReplaceAndCompute := by
  refine ⟨fun h sel body s k ha hp hk hok hs => ⟨_, rfl, ?_⟩, fun h body s ha hok hs => ⟨_, rfl, ?_⟩⟩
  · have hop := shareClassWrite_named (s := s.begun) hp hk hok hs
    split
    · next hsum =>
      rw [if_pos (by exact hsum)] at hop
      by_cases hset : k = s.cfg.activeSet
      · rw [applySet, if_pos (by exact hset)] at hop
        obtain ⟨hcfg, hans, hcomputed⟩ := request_computes (op := shareClassWrite) (kind := 2) (code := 4) ha
          (selIndex_kind hk) hop
        exact ⟨hcfg, hans, by rwa [if_pos hset]⟩
      · rw [applySet, if_neg (by exact hset)] at hop
        obtain ⟨hcfg, _, hkept, hans⟩ := request_writes (op := shareClassWrite) (kind := 2) (code := 4) ha
          (selIndex_kind hk) hop
        exact ⟨hcfg, ⟨_, hans⟩, by rwa [if_neg hset]⟩
    · next hsum =>
      rw [if_neg (by exact hsum)] at hop
      exact request_unchanged (op := shareClassWrite) ha (selIndex_kind hk) hop
  · have hop := paramClassWrite_named (s := s.begun) hok hs
    have hkind : paramSelector.kind.toNat ≤ 3 := by decide
    by_cases hres : (bytes? body 2).isSome = true
    · rw [applyParams, if_pos hres] at hop
      obtain ⟨hcfg, hans, hcomputed⟩ := request_computes (op := fun _ => paramClassWrite) (kind := 2) (code := 4)
        ha hkind hop
      exact ⟨hcfg, hans, by rwa [if_pos hres]⟩
    · rw [applyParams, if_neg hres] at hop
      obtain ⟨hcfg, _, hkept, hans⟩ := request_writes (op := fun _ => paramClassWrite) (kind := 2) (code := 4)
        ha hkind hop
      exact ⟨hcfg, ⟨_, hans⟩, by rwa [if_neg hres]⟩

end Sys2Proof.Machine
end

section
/-!
PROOF. LINK writes (R36, R72, R84, R86): at a write of the reflect allowance the reflect bucket is brought up to date and
takes it as its rate; PULSE_OUTPUT and TIMING writes (R104, R113, R115, R116).
-/

namespace Sys2Proof.Machine

/-! ## LINK (R36) -/

/-- A reflect bucket is brought up to date and given its rate, and no arbiter is called for it (R86, R91). -/
theorem setRate_reflect_eq (l : Link) (r : Nat) (s : State) :
    setRate (.reflect l) r s
      = { s with sched := { s.sched with
            reflect := s.sched.reflect.set l { (s.bucket (.reflect l)).refresh s.nowNs with rate := r } } } := by
  have htouch : touch (.reflect l) s = s.setBucket (.reflect l) ((s.bucket (.reflect l)).refresh s.nowNs) := by
    unfold touch kickForBucket
    simp
  unfold setRate
  simp only [htouch]
  unfold State.setBucket State.bucket Bucket.withRate
  cases l <;> rfl

theorem linkClassWrite_named {sel : Selector} {body : List Field} {s : State} {l : Link} (hl : selLink sel = some l)
    (hok : linkWriteOk body = true) (hs : saveRuns s = false) :
    linkClassWrite sel body s = okay (linkItems l) (applyLinkWrite l body s) := by
  simp only [linkClassWrite, hl, checked_passes hok hs]

/-- A link's configuration written with a reflect allowance, before the computation that a change of X_L calls for. -/
def allowancePlaced (l : Link) (c : LinkConfig) (s : State) : State :=
  setRate (.reflect l) c.reflectAllowance { s with cfg := { s.cfg with links := s.cfg.links.set l c } }

theorem applyLinkWrite_without {l : Link} {body : List Field} {s : State} (hb : (bytes? body 14).isSome = false) :
    applyLinkWrite l body s
      = { s with cfg := { s.cfg with links := s.cfg.links.set l (linkWritten body (s.cfg.links.get l)) } } := by
  simp only [applyLinkWrite, hb, Bool.false_eq_true, if_false]
  rfl

theorem applyLinkWrite_with {l : Link} {body : List Field} {s : State} (hb : (bytes? body 14).isSome = true) :
    applyLinkWrite l body s
      = if (linkWritten body (s.cfg.links.get l)).reflectAllowance ≠ (s.cfg.links.get l).reflectAllowance
            ∧ s.share.reflectPresent.get l = true ∧ s.inService l = true then
          recompute (allowancePlaced l (linkWritten body (s.cfg.links.get l)) s)
        else allowancePlaced l (linkWritten body (s.cfg.links.get l)) s := by
  simp only [applyLinkWrite, hb, if_true, Bool.and_eq_true, decide_eq_true_eq, and_assoc]
  rfl

theorem allowancePlaced_steady (l : Link) (c : LinkConfig) (s : State) :
    Steady [.config, .rates, .reflect] s (allowancePlaced l c s) :=
  ((cfg_steady s _).mono (by simp)).trans ((setRate_steady' (.reflect l) _ _).mono (by simp))

theorem told_allowancePlaced (l : Link) (c : LinkConfig) (s : State) : Told s (allowancePlaced l c s) :=
  (told_cfg s _).trans (told_setRate _ _ _)

/-- The reflect buckets after a write of a link's allowance (R84, R86). -/
theorem allowancePlaced_reflect (l k : Link) (c : LinkConfig) (s : State) :
    (allowancePlaced l c s).sched.reflect.get k
      = if k = l then { (s.bucket (.reflect l)).refresh s.nowNs with rate := c.reflectAllowance }
        else s.sched.reflect.get k := by
  unfold allowancePlaced
  rw [setRate_reflect_eq]
  show (PerLink.set _ l _).get k = _
  rw [PerLink.get_set]
  rfl

/-- Every other bucket, and every depth, is as it was. -/
theorem allowancePlaced_bucket (l : Link) (c : LinkConfig) (s : State) :
    (∀ b, b ≠ .reflect l → (allowancePlaced l c s).bucket b = s.bucket b)
      ∧ ∀ b, ((allowancePlaced l c s).bucket b).depth = (s.bucket b).depth := by
  unfold allowancePlaced
  rw [setRate_reflect_eq]
  have hother : ∀ k, k ≠ l → ∀ x, (s.sched.reflect.set l x).get k = s.sched.reflect.get k := fun k hk x => by
    rw [PerLink.get_set, if_neg hk]
  refine ⟨fun b hb => ?_, fun b => ?_⟩
  · cases b with
    | reflect k => exact hother k (fun hk => hb (hk ▸ rfl)) _
    | tenant _ => rfl
    | timing => rfl
    | pacing _ => rfl
  · cases b with
    | reflect k =>
      show ((s.sched.reflect.set l _).get k).depth = (s.sched.reflect.get k).depth
      rw [PerLink.get_set]
      split
      · next hk => rw [hk]; rfl
      · rfl
    | tenant _ => rfl
    | timing => rfl
    | pacing _ => rfl

/-- What a write of the allowance leaves of the buckets, after the departures that keep the reflect buckets. -/
theorem allowancePlaced_kept {l : Link} {c : LinkConfig} {s t : State}
    (ht : t.sched.reflect = (allowancePlaced l c s).sched.reflect) :
    t.bucket (.reflect l) = { (s.bucket (.reflect l)).refresh s.nowNs with rate := c.reflectAllowance }
      ∧ t.bucket (.reflect l.other) = s.bucket (.reflect l.other) := by
  have hget : ∀ k, t.bucket (.reflect k) = (allowancePlaced l c s).sched.reflect.get k := fun k => by rw [← ht]; rfl
  refine ⟨by rw [hget, allowancePlaced_reflect, if_pos rfl], ?_⟩
  rw [hget, allowancePlaced_reflect, if_neg (by cases l <;> simp [Link.other])]
  rfl

/-- Settles O10, by whether the allowance is carried, and whether X_L changes with it. -/
theorem linkWriteReplacesTheRecord : Obligations.LinkWriteReplacesTheRecord := by
  intro h sel body s l ha hl hok hs
  have hop := linkClassWrite_named (s := s.begun) hl hok hs
  by_cases hb : (bytes? body 14).isSome = true
  · rw [applyLinkWrite_with hb] at hop
    have hsteady := allowancePlaced_steady l (linkWritten body (s.cfg.links.get l)) s.begun
    have htold := told_allowancePlaced l (linkWritten body (s.cfg.links.get l)) s.begun
    obtain ⟨hbuckets, hdepths⟩ := allowancePlaced_bucket l (linkWritten body (s.cfg.links.get l)) s.begun
    have hcfg : (allowancePlaced l (linkWritten body (s.cfg.links.get l)) s.begun).cfg
        = { s.cfg with links := s.cfg.links.set l (linkWritten body (s.cfg.links.get l)) } := by
      unfold allowancePlaced; rw [setRate_reflect_eq]
    by_cases hx : (linkWritten body (s.cfg.links.get l)).reflectAllowance ≠ (s.cfg.links.get l).reflectAllowance
        ∧ s.share.reflectPresent.get l = true ∧ s.inService l = true
    · rw [if_pos (by exact hx)] at hop
      have hcomp := recompute_steady (allowancePlaced l (linkWritten body (s.cfg.links.get l)) s.begun)
      obtain ⟨hdep, hans, hkept⟩ := Steady.request (w := .config :: .reflect :: computed) (op := linkClassWrite)
        (kind := 2) (code := 6) ha (selLink_kind hl) hop (htold.trans (told_recompute _))
        ((hsteady.mono (by decide)).trans (hcomp.mono (by decide)))
      obtain ⟨hone, hcalc, hother, hdepth, hlatch⟩ := recompute_departs hdep
      obtain ⟨hthis, hthat⟩ := allowancePlaced_kept
        ((hdep.1 .reflect rfl : _ = _).trans (hcomp.kept .reflect (by decide) rfl))
      have hplaced : ∃ d, allowancePlaced l (linkWritten body (s.cfg.links.get l)) s.begun
          = { s.begun with
              cfg := { s.cfg with links := s.cfg.links.set l (linkWritten body (s.cfg.links.get l)) }, sched := d } :=
        ⟨_, setRate_reflect_eq _ _ _⟩
      obtain ⟨d, hd⟩ := hplaced
      refine ⟨_, rfl, ?_, hans, ?_⟩
      · rw [hdep.1 .config rfl, hcomp.kept .config (by decide) rfl, hcfg]
      rw [if_neg (by simp [hb])]
      refine ⟨hthis, hthat, fun b hs' hb' => ?_, fun b _ => ?_, ?_⟩
      · rw [hother b hs' (by simp), hbuckets b (by simpa using hb'), State.bucket_ev]
      · rw [hdepth b (by simp), hdepths, State.bucket_ev]
      · rw [if_pos hx]
        refine ⟨hone.of_eq (by rw [hd]) (by rw [hd]; rfl) (by rw [hd]; rfl), by rw [hcalc, hd], fun k h1 h2 => ?_,
          hkept.mono (by decide)⟩
        rw [hlatch k h1 h2, hd]
        rfl
    · rw [if_neg (by exact hx)] at hop
      obtain ⟨hdep, hans, hkept⟩ := Steady.request (op := linkClassWrite) (kind := 2) (code := 6) ha (selLink_kind hl)
        hop htold hsteady
      have hrates : ∀ b, _ := hdep.1 .rates rfl
      obtain ⟨hthis, hthat⟩ := allowancePlaced_kept (hdep.1 .reflect rfl)
      refine ⟨_, rfl, ?_, hans, ?_⟩
      · rw [hdep.1 .config rfl, hcfg]
      rw [if_neg (by simp [hb])]
      refine ⟨hthis, hthat, fun b hs' hb' => ?_, fun b _ => ?_, ?_⟩
      · rw [(hrates b).1, hbuckets b (by simpa using hb'), State.bucket_ev]
      · rw [(hrates b).2, hdepths, State.bucket_ev]
      · rw [if_neg hx]
        refine ⟨hkept.mono (by decide), fun b hsh => ?_⟩
        rw [(hrates b).1, hbuckets b (by rintro rfl; cases hsh), State.bucket_ev]
  · rw [applyLinkWrite_without (by simpa using hb)] at hop
    obtain ⟨hcfg, _, hkept, hans⟩ := request_writes (op := linkClassWrite) (kind := 2) (code := 6) ha (selLink_kind hl)
      hop
    refine ⟨_, rfl, hcfg, ⟨_, hans⟩, ?_⟩
    rwa [if_pos (by simpa using hb)]

end Sys2Proof.Machine
end

section
/-!
PROOF. The Time Unit: TIMING and PULSE_OUTPUT writes (R104, R113, R115, R116), SET_TIME and what it fires (R114, R133,
R135), the edges of the pulse input and the timers of the servo (R106 to R113), and the pulse outputs (R116).
-/

namespace Sys2Proof.Machine

/-! ## What the operations of the Time Unit write -/

theorem squelch_steady (s : State) : Steady [.time] s (squelch s) := time_steady s _

theorem updServo_steady (f : Servo → Servo) (s : State) : Steady [.time] s (updServo f s) := time_steady s _

theorem told_time {s : State} (t : TimeUnit) (h : t.elapsed = s.time.elapsed) : Told s { s with time := t } :=
  told_still rfl rfl h (fun _ => rfl) (fun _ => rfl)

theorem told_squelch (s : State) : Told s (squelch s) := told_time _ rfl

theorem told_updServo (f : Servo → Servo) (s : State) : Told s (updServo f s) := told_time _ rfl

/-- The outputs after a squelch (R116). -/
theorem squelch_pulse (s : State) (k : Fin 4) :
    tget (squelch s).time.pulses k
      = if (tget s.time.pulses k).high = true ∧ pulseAllowed s k = false then
          { tget s.time.pulses k with high := false, fall := none } else tget s.time.pulses k := by
  simp only [squelch, tget_ofFn, Bool.and_eq_true, Bool.not_eq_true', PulseUnit.low]

/-- An event that squelches the outputs of a state last, and then changes neither the outputs' configuration nor the
Time Unit, leaves the outputs squelched (R116). -/
theorem squelched_of {s u t : State} (hp : u.time.pulses = s.time.pulses) (ht : t.time = (squelch u).time)
    (hc : t.cfg.pulses = u.cfg.pulses) : Squelched s t := by
  intro k
  have hallowed : pulseAllowed t k = pulseAllowed u k := by unfold pulseAllowed; rw [ht, hc]; rfl
  rw [ht, squelch_pulse, hallowed, hp]

/-- A condition raised on a state whose Time Unit has changed, and the outputs squelched after it. -/
def timeRaised (c : Cond) (t : TimeUnit) (s : State) : State := squelch (raise c none { s with time := t })

theorem timeRaised_steady (c : Cond) (t : TimeUnit) (s : State) : Steady [.time, .latches] s (timeRaised c t s) :=
  (((time_steady s t).mono (by simp)).trans ((raise_steady c none _).mono (by simp))).trans
    ((squelch_steady _).mono (by simp))

theorem told_timeRaised (c : Cond) {t : TimeUnit} {s : State} (h : t.elapsed = s.time.elapsed) :
    Told s (timeRaised c t s) :=
  ((told_time t h).trans (told_raise c none _)).trans (told_squelch _)

theorem timeRaised_time (c : Cond) (t : TimeUnit) (s : State) :
    (timeRaised c t s).time = { t with pulses := (timeRaised c t s).time.pulses } := by
  obtain ⟨x, e, h⟩ := raise_shape c none { s with time := t }
  unfold timeRaised
  rw [h]
  rfl

theorem timeRaised_squelched {c : Cond} {t : TimeUnit} {s : State} (h : t.pulses = s.time.pulses) {u : State}
    (hu : u.time = (timeRaised c t s).time) (hc : u.cfg = s.cfg) : Squelched s u := by
  obtain ⟨_, _, _, hcfg, _, _, _, htime, _⟩ := raise_quiet c none { s with time := t }
  exact squelched_of (u := raise c none { s with time := t }) (by rw [htime, h]) hu (by rw [hc, hcfg])

theorem timeRaised_latch (c k : Cond) (t : TimeUnit) (s : State) (h : t.elapsed = s.time.elapsed) :
    (timeRaised c t s).latch k = if k = c then (s.latch c).occur s.nowNs none else s.latch k := by
  show (raise c none { s with time := t }).latch k = _
  split
  · next hk =>
    rw [hk, raise_latch_same]
    show ((s.latch c).occur (wholeNs t.elapsed) none) = _
    rw [h]
    rfl
  · next hk => rw [raise_latch_other _ _ _ _ hk]; rfl

/-! ## TIMING writes (R104, R113) -/

theorem timingClassWrite_named {body : List Field} {s : State} (hok : timingWriteOk body = true)
    (hs : saveRuns s = false) : timingClassWrite body s = okay timingItems (applyTiming body s) :=
  checked_passes hok hs _

/-- The timing configuration written with a holdover limit, and the expiry taken again (R113). -/
def timingPlaced (body : List Field) (s : State) : State :=
  { s with
    cfg := { s.cfg with timing := timingWritten body s.cfg.timing }
    time := { s.time with
      servo := s.time.servo.retakeLimit (timingWritten body s.cfg.timing).holdoverLimit } }

theorem applyTiming_without {body : List Field} {s : State} (hb : (bytes? body 7).isSome = false) :
    applyTiming body s = { s with cfg := { s.cfg with timing := timingWritten body s.cfg.timing } } := by
  simp only [applyTiming, hb, Bool.false_eq_true, if_false, updCfg]

theorem applyTiming_with {body : List Field} {s : State} (hb : (bytes? body 7).isSome = true) :
    applyTiming body s
      = if holdoverDue (timingPlaced body s) = true then holdoverExpires (timingPlaced body s)
        else timingPlaced body s := by
  simp only [applyTiming, hb, if_true]
  rfl

/-- Outside HOLDOVER no expiry runs (R113). -/
theorem retakeLimit_outside {v : Servo} (h : v.state ≠ .holdover) (n : Nat) : v.retakeLimit n = v := by
  unfold Servo.retakeLimit
  cases hv : v.state <;> first | rfl | exact absurd hv h

theorem holdoverDue_outside {s : State} (h : s.time.servo.state ≠ .holdover) : holdoverDue s = false := by
  unfold holdoverDue
  split
  · next hst _ => exact absurd hst h
  · rfl

theorem timingPlaced_outside {body : List Field} {s : State} (h : s.time.servo.state ≠ .holdover) :
    timingPlaced body s = { s with cfg := { s.cfg with timing := timingWritten body s.cfg.timing } } := by
  unfold timingPlaced
  rw [retakeLimit_outside h]

/-- In HOLDOVER from a recorded start the expiry is the limit after it (R113). -/
theorem retakeLimit_from {v : Servo} {x : Ns} (h : v.state = .holdover) (hx : v.holdoverStart = some x) (n : Nat) :
    v.retakeLimit n = { v with holdoverEnds := some (x + BitVec.ofNat 64 (n * 1000000000)) } := by
  simp only [Servo.retakeLimit, h, hx, limitEnd]

/-- The servo in FREE_RUN after a holdover (R113). -/
def holdoverEnded (t : TimeUnit) : TimeUnit :=
  { t with servo := { t.servo with state := .freeRun, holdoverStart := none, holdoverEnds := none } }

/-- The expiry of the holdover limit is TIME_FREE_RUN with the servo in FREE_RUN (R113). -/
theorem holdoverExpires_eq (s : State) :
    holdoverExpires s = timeRaised .timeFreeRun (holdoverEnded s.time) s := rfl

theorem holdoverExpires_steady (s : State) : Steady [.time, .latches] s (holdoverExpires s) := timeRaised_steady _ _ _

theorem told_holdoverExpires (s : State) : Told s (holdoverExpires s) :=
  told_timeRaised .timeFreeRun (t := holdoverEnded s.time) rfl

theorem holdoverExpires_time (s : State) :
    (holdoverExpires s).time = { holdoverEnded s.time with pulses := (holdoverExpires s).time.pulses } :=
  timeRaised_time _ _ _

theorem holdoverExpires_latch (k : Cond) (s : State) :
    (holdoverExpires s).latch k = if k = .timeFreeRun then (s.latch .timeFreeRun).occur s.nowNs none else s.latch k :=
  timeRaised_latch .timeFreeRun k (holdoverEnded s.time) s rfl

theorem holdoverExpires_squelched {s u : State} (hu : u.time = (holdoverExpires s).time) (hc : u.cfg = s.cfg) :
    Squelched s u :=
  timeRaised_squelched (c := .timeFreeRun) (t := holdoverEnded s.time) rfl hu hc

theorem timingPlaced_steady (body : List Field) (s : State) : Steady [.config, .time] s (timingPlaced body s) :=
  ((cfg_steady s _).mono (by simp)).trans ((time_steady _ _).mono (by simp))

theorem told_timingPlaced (body : List Field) (s : State) : Told s (timingPlaced body s) :=
  told_still rfl rfl rfl (fun _ => rfl) (fun _ => rfl)

/-- Settles O3, by whether the write takes the expiry of the holdover again, and whether it is then reached. -/
theorem timingWriteReplacesTheRecord : Obligations.TimingWriteReplacesTheRecord := by
  intro h sel body s ha hk hok hs
  have hop := timingClassWrite_named (s := s.begun) hok hs
  by_cases hplain : (bytes? body 7).isSome = false ∨ s.time.servo.state ≠ .holdover
  · have happ : applyTiming body s.begun
        = { s.begun with cfg := { s.cfg with timing := timingWritten body s.cfg.timing } } := by
      cases hb : (bytes? body 7).isSome with
      | false => exact applyTiming_without hb
      | true =>
        have hst : s.time.servo.state ≠ .holdover := hplain.resolve_left (by simp [hb])
        rw [applyTiming_with hb, timingPlaced_outside (s := s.begun) hst, holdoverDue_outside (by exact hst)]
        rfl
    rw [happ] at hop
    obtain ⟨hcfg, _, hkept, hans⟩ := request_writes (op := fun _ => timingClassWrite) (kind := 2) (code := 12) ha hk hop
    refine ⟨_, rfl, hcfg, ⟨_, hans⟩, fun _ => hkept, fun x hb hst => ?_⟩
    exact absurd hplain (by simp [hb, hst])
  have hplaced := timingPlaced_steady body s.begun
  have htold := told_timingPlaced body s.begun
  simp only [not_or, Bool.not_eq_false, not_not] at hplain
  rw [applyTiming_with hplain.1] at hop
  by_cases hdue : holdoverDue (timingPlaced body s.begun) = true
  · rw [if_pos hdue] at hop
    obtain ⟨hdep, hans, hkept⟩ := Steady.request (w := [.config, .time, .latches]) (op := fun _ => timingClassWrite)
      (kind := 2) (code := 12) ha hk hop (htold.trans (told_holdoverExpires _))
      ((hplaced.mono (by simp)).trans ((holdoverExpires_steady _).mono (by simp)))
    have hcfg := (hdep.1 .config rfl : _ = _).trans ((holdoverExpires_steady _).kept .config (by decide) rfl)
    refine ⟨_, rfl, hcfg, hans, fun hor => ?_, fun x hb hst hx => ?_⟩
    · exact absurd hor (by simp [hplain])
    have hends := retakeLimit_from hst hx (timingWritten body s.cfg.timing).holdoverLimit
    have htime := (hdep.1 .time rfl : _ = _).trans (holdoverExpires_time _)
    have hlatch : ∀ k : Cond, k.ofDeparture = false → _ := hdep.1 .latches rfl
    have hreached : reachedNs s.nowNs
        (x + BitVec.ofNat 64 ((timingWritten body s.cfg.timing).holdoverLimit * 1000000000)) = true := by
      unfold holdoverDue timingPlaced at hdue
      simp only [hends, hst] at hdue
      exact hdue
    have hlimit : (rowRequest h 2 12 sel body (fun _ => timingClassWrite) s).cfg.timing.holdoverLimit
        = (timingWritten body s.cfg.timing).holdoverLimit := by rw [hcfg]; rfl
    show if reachedNs s.nowNs (x + BitVec.ofNat 64 (_ * 1000000000)) = true then _ else _
    rw [hlimit, if_pos hreached]
    refine ⟨hkept, fun k hk' hd => ?_, ?_, ?_, ?_, ?_, ?_, ?_⟩
    · rw [hlatch k hd, holdoverExpires_latch, if_neg (by simpa using hk')]
      rfl
    · rw [hlatch _ rfl, holdoverExpires_latch, if_pos rfl]
      rfl
    · rw [htime]
      show (holdoverEnded (timingPlaced body s.begun).time).servo = _
      unfold timingPlaced holdoverEnded
      simp only [hends]
    · rw [htime]; rfl
    · rw [htime]; rfl
    · rw [htime]; rfl
    · exact holdoverExpires_squelched (s := timingPlaced body s.begun) (hdep.1 .time rfl) hcfg
  · rw [if_neg hdue] at hop
    obtain ⟨hdep, hans, hkept⟩ := Steady.request (op := fun _ => timingClassWrite)
      (kind := 2) (code := 12) ha hk hop htold hplaced
    refine ⟨_, rfl, hdep.1 .config rfl, hans, fun hor => ?_, fun x hb hst hx => ?_⟩
    · exact absurd hor (by simp [hplain])
    have hends := retakeLimit_from hst hx (timingWritten body s.cfg.timing).holdoverLimit
    have hreached : ¬reachedNs s.nowNs
        (x + BitVec.ofNat 64 ((timingWritten body s.cfg.timing).holdoverLimit * 1000000000)) = true := by
      unfold holdoverDue timingPlaced at hdue
      simp only [hends, hst] at hdue
      exact hdue
    have hlimit : (rowRequest h 2 12 sel body (fun _ => timingClassWrite) s).cfg.timing.holdoverLimit
        = (timingWritten body s.cfg.timing).holdoverLimit := by
      rw [show (rowRequest h 2 12 sel body (fun _ => timingClassWrite) s).cfg = _ from hdep.1 .config rfl]; rfl
    show if reachedNs s.nowNs (x + BitVec.ofNat 64 (_ * 1000000000)) = true then _ else _
    rw [hlimit, if_neg hreached]
    refine ⟨?_, hkept.mono (by decide)⟩
    rw [show (rowRequest h 2 12 sel body (fun _ => timingClassWrite) s).time = _ from hdep.1 .time rfl, ← hends]
    rfl

/-! ## PULSE_OUTPUT writes (R115) -/

theorem pulseClassWrite_named {sel : Selector} {body : List Field} {s : State} {k : Fin 4}
    (hk : selIndex 4 sel = some k) (hok : pulseWriteOk body = true) (hs : saveRuns s = false) :
    pulseClassWrite sel body s
      = okay (pulseItems k) (squelch
          { s with cfg := { s.cfg with pulses := tset s.cfg.pulses k (pulseWritten body (tget s.cfg.pulses k)) } }) := by
  simp only [pulseClassWrite, hk, checked_passes hok hs]
  rfl

/-- Settles O4: the write of the record, and the squelch that follows it. -/
theorem pulseOutputWriteReplacesTheRecord : Obligations.PulseOutputWriteReplacesTheRecord := by
  intro h sel body s k ha hk hok hs
  have hop := pulseClassWrite_named (s := s.begun) hk hok hs
  obtain ⟨hdep, hans, hkept⟩ := Steady.request (w := [.config, .time]) (op := pulseClassWrite) (kind := 2) (code := 13)
    ha (selIndex_kind hk) hop ((told_cfg s.begun _).trans (told_squelch _))
    (((cfg_steady s.begun _).mono (by simp)).trans ((squelch_steady _).mono (by simp)))
  have hcfg : _ = _ := hdep.1 .config rfl
  have htime : _ = _ := hdep.1 .time rfl
  refine ⟨_, rfl, hcfg, by rw [htime]; rfl, ?_, hkept, hans⟩
  exact squelched_of (s := s) (u := { s.begun with
    cfg := { s.cfg with pulses := tset s.cfg.pulses k (pulseWritten body (tget s.cfg.pulses k)) } }) rfl htime
    (by rw [hcfg]; rfl)

/-! ## The timers of the servo (R110, R112, R113) -/

/-- The servo after the loss of the pulse (R112). -/
def lostTime (s : State) : TimeUnit := { s.time with servo := s.time.servo.lost }

theorem pulseLost_locked {s : State} (h : s.time.servo.state = .locked) :
    pulseLost s = timeRaised .timeHoldover
      { s.time with servo := (s.time.servo.lost).hold s.nowNs s.cfg.timing.holdoverLimit } s := by
  simp only [pulseLost, h]
  rfl

theorem pulseLost_acquiring {s : State} (h : s.time.servo.state = .acquiring) :
    pulseLost s = timeRaised .timeFreeRun
      { s.time with servo := { s.time.servo.lost with state := .freeRun } } s := by
  simp only [pulseLost, h]
  rfl

theorem pulseLost_otherwise {s : State} (h1 : s.time.servo.state ≠ .locked) (h2 : s.time.servo.state ≠ .acquiring) :
    pulseLost s = { s with time := lostTime s } := by
  unfold pulseLost
  cases hst : s.time.servo.state with
  | locked => exact absurd hst h1
  | acquiring => exact absurd hst h2
  | freeRun => rfl
  | holdover => rfl

/-- An event of the Time Unit that raises one condition last. -/
theorem timeRaised_event {f : State → State} {c : Cond} {t : TimeUnit} {s : State}
    (hf : f s.begun = timeRaised c t s.begun) (he : t.elapsed = s.time.elapsed) (hp : t.pulses = s.time.pulses) :
    (event f s).time = { t with pulses := (event f s).time.pulses } ∧ Squelched s (event f s)
      ∧ (∀ k : Cond, k.ofDeparture = false →
          (event f s).latch k = if k = c then (s.latch c).occur s.nowNs none else s.latch k)
      ∧ Kept [.time, .latches] s (event f s) := by
  have hdep := event_departs f s
  have hkept : Kept [.time, .latches] s (event f s) :=
    Steady.event (by rw [show f { s with ev := noWork } = _ from hf]; exact timeRaised_steady _ _ _)
      (by rw [show f { s with ev := noWork } = _ from hf]; exact told_timeRaised _ he)
  rw [show f { s with ev := noWork } = _ from hf] at hdep
  have htime : _ = _ := hdep.1 .time rfl
  refine ⟨?_, ?_, fun k hk => ?_, hkept⟩
  · rw [htime]; exact timeRaised_time c t s.begun
  · exact timeRaised_squelched (s := s.begun) hp htime (hkept .config (by decide))
  · exact ((hdep.1 .latches rfl : ∀ k : Cond, _) k hk).trans (timeRaised_latch c k t s.begun he)

/-- An event that changes the Time Unit alone. -/
theorem time_event {f : State → State} {t : TimeUnit} {s : State} (hf : f s.begun = { s.begun with time := t })
    (he : t.elapsed = s.time.elapsed) :
    (event f s).time = t ∧ (∀ k : Cond, k.ofDeparture = false → (event f s).latch k = s.latch k)
      ∧ Kept [.time] s (event f s) := by
  have hdep := event_departs f s
  have hkept : Kept [.time] s (event f s) :=
    Steady.event (by rw [show f { s with ev := noWork } = _ from hf]; exact time_steady _ _)
      (by rw [show f { s with ev := noWork } = _ from hf]; exact told_time _ he)
  rw [show f { s with ev := noWork } = _ from hf] at hdep
  exact ⟨hdep.1 .time rfl, fun k hk => hkept .latches (by decide) k hk, hkept⟩

/-- The pulse-missing timer runs from the reference (R112). -/
theorem missingDue_from {s : State} {r : Ns} (h : s.time.servo.reference = some r) :
    missingDue s = decide (1500000000 ≤ (s.nowNs - r).toNat) := by
  unfold missingDue
  rw [h]
  rfl

/-- Settles O44, by the timer that expires and the state of the servo. -/
theorem servoTimersExpire : Obligations.ServoTimersExpire := by
  refine fun s => ⟨fun r hr => ⟨fun hlt => ?_, fun hge => ⟨event pulseLost s, ?_, ?_⟩⟩,
    fun x hst hx => ⟨fun hlt => ?_, fun hge => ⟨event holdoverExpires s, ?_, ?_⟩⟩,
    fun x hx => ⟨fun hlt => ?_, fun hge => ⟨event slewEnds s, ?_, ?_⟩⟩⟩
  · show execPulseMissingExpiry s = _
    rw [execPulseMissingExpiry, if_neg]
    rw [missingDue_from hr]
    exact fun hdue => absurd (of_decide_eq_true hdue) (by omega)
  · show execPulseMissingExpiry s = _
    rw [execPulseMissingExpiry, if_pos]
    rw [missingDue_from hr]
    exact decide_eq_true hge
  · by_cases hlocked : s.time.servo.state = .locked
    · obtain ⟨htime, hsq, hlatch, hkept⟩ := timeRaised_event (s := s) (pulseLost_locked (s := s.begun) hlocked) rfl rfl
      refine ⟨?_, by simpa [hlocked] using hsq, fun k hk => ?_, hkept⟩
      · rw [htime]
        simp [hlocked, Servo.hold, Servo.lost, limitEnd]
        rfl
      · rw [hlatch k hk]
        simp only [hlocked, true_and, reduceCtorEq, false_and, or_false]
        split
        · next hk' => rw [hk']
        · rfl
    by_cases hacq : s.time.servo.state = .acquiring
    · obtain ⟨htime, hsq, hlatch, hkept⟩ := timeRaised_event (s := s) (pulseLost_acquiring (s := s.begun) hacq) rfl rfl
      refine ⟨?_, by simpa [hacq] using hsq, fun k hk => ?_, hkept⟩
      · rw [htime]
        simp [hacq, Servo.lost]
      · rw [hlatch k hk]
        simp only [hacq, true_and, reduceCtorEq, false_and, false_or]
        split
        · next hk' => rw [hk']
        · rfl
    · obtain ⟨htime, hlatch, hkept⟩ := time_event (s := s) (t := lostTime s)
        (pulseLost_otherwise (s := s.begun) hlocked hacq) rfl
      refine ⟨?_, ?_, fun k hk => ?_, fun a ha => hkept a fun hm => ha (by simp_all)⟩
      · rw [htime]
        simp [hlocked, hacq, lostTime, Servo.lost]
      · rw [if_neg (by simp [hlocked, hacq]), htime]
        rfl
      · rw [hlatch k hk]
        simp [hlocked, hacq]
  · show execHoldoverLimitExpiry s = _
    simp [execHoldoverLimitExpiry, holdoverDue, hst, hx, hlt]
  · show execHoldoverLimitExpiry s = _
    simp [execHoldoverLimitExpiry, holdoverDue, hst, hx, hge]
  · obtain ⟨htime, hsq, hlatch, hkept⟩ := timeRaised_event (s := s) (holdoverExpires_eq s.begun) rfl rfl
    refine ⟨htime, hsq, ?_, fun k hk hd => ?_, hkept⟩
    · rw [hlatch _ rfl, if_pos rfl]
    · rw [hlatch k hd, if_neg (by simpa using hk)]
  · show execSlewEnd s = _
    simp [execSlewEnd, slewDue, hx, hlt]
  · show execSlewEnd s = _
    simp [execSlewEnd, slewDue, hx, hge]
  · obtain ⟨htime, _, hkept⟩ := time_event (s := s) (f := slewEnds)
      (t := { s.time with servo := { s.time.servo with slew := 0, slewEnd := none } }) rfl rfl
    exact ⟨htime, hkept⟩

/-! ## Pulse outputs (R116) -/

/-- Settles O45: the rise of an output that may pulse, and the fall at its time. -/
theorem pulseOutputsRiseAndFall : Obligations.PulseOutputsRiseAndFall := by
  refine fun k s => ⟨⟨event (pulseRise k) s, rfl, ?_⟩, fun x hx => ⟨fun hlt => ?_, fun hge =>
    ⟨event (pulseFall k) s, ?_, ?_⟩⟩⟩
  · have hallowed : (pulseAllowed s.begun k = true) ↔ (s.time.valid = true
        ∧ ((tget s.cfg.pulses k).policy = .always ∨ s.time.servo.state = .locked ∨ s.time.servo.state = .holdover)) := by
      simp only [pulseAllowed, Bool.and_eq_true]
      refine and_congr Iff.rfl ?_
      cases (tget s.cfg.pulses k).policy <;> cases s.time.servo.state <;> simp [Squelch.admits]
    split
    · next hgo =>
      obtain ⟨htime, _, hkept⟩ := time_event (s := s) (f := pulseRise k)
        (t := { s.time with pulses := tset s.time.pulses k ⟨true, some (afterMs s.now (tget s.cfg.pulses k).width),
          (tget s.time.pulses k).pulses + 1⟩ })
        (by rw [pulseRise, if_pos (hallowed.2 hgo)]; rfl) rfl
      exact ⟨htime, hkept⟩
    · next hno =>
      have hop : pulseRise k s.begun = s.begun := by rw [pulseRise, if_neg (fun h => hno (hallowed.1 h))]
      exact Steady.event (by rw [show pulseRise k { s with ev := noWork } = _ from hop]; exact Steady.refl _ _)
        (by rw [show pulseRise k { s with ev := noWork } = _ from hop]; exact Told.refl _)
  · show execPulseOutputFall k s = _
    simp [execPulseOutputFall, fallDue, hx, hlt]
  · show execPulseOutputFall k s = _
    simp [execPulseOutputFall, fallDue, hx, hge]
  · obtain ⟨htime, _, hkept⟩ := time_event (s := s) (f := pulseFall k)
      (t := { s.time with pulses := tset s.time.pulses k { tget s.time.pulses k with high := false, fall := none } })
      rfl rfl
    exact ⟨htime, hkept⟩

end Sys2Proof.Machine
end

section
/-!
PROOF. The events that move site time or fire the schedule: SET_TIME (R114, R133, R135), the edges of the pulse input
(R106 to R111, R133), the firing of the schedule and the clock of the empty queue (R101, R102, R116, R132, R134).
-/

namespace Sys2Proof.Machine

/-! ## Firing (R132, R133) -/

theorem fireEntries_steady (s : State) : Steady (computed ++ [.config, .firing]) s (fireEntries s) := by
  unfold fireEntries
  split
  · simp only
    split
    · exact Steady.refl _ _
    · refine Steady.trans ?_ ((raise_steady _ _ _).mono (by decide))
      refine Steady.trans ?_ ((recompute_steady _).mono (by decide))
      refine Steady.trans ?_ ((cfg_steady _ _).mono (by decide))
      exact ((cfg_steady s _).mono (by decide)).trans ((firing_steady _ _).mono (by decide))
  · exact Steady.refl _ _

theorem told_fireEntries (s : State) : Told s (fireEntries s) := by
  unfold fireEntries
  split
  · simp only
    split
    · exact Told.refl _
    · refine Told.trans ?_ (told_raise _ _ _)
      refine Told.trans ?_ (told_recompute _)
      exact told_quiet rfl rfl rfl rfl rfl
  · exact Told.refl _

theorem fireEntries_invalid {s : State} (h : s.time.valid = false) : fireEntries s = s := by
  simp [fireEntries, h]

/-! ## SET_TIME (R114) -/

/-- The Time Unit after a SET_TIME, before what it fires (R114). -/
def timeSet (sec ns : Nat) (t : TimeUnit) : TimeUnit :=
  { t with site := settledSite t.servo.state sec ns t.site, valid := true }

theorem applyTime_eq (sec ns : Nat) (s : State) :
    applyTime sec ns s
      = if s.time.valid = false ∨ (timeSet sec ns s.time).site.later s.time.site = true then
          fireEntries { s with time := timeSet sec ns s.time }
        else { s with time := timeSet sec ns s.time } := by
  simp only [applyTime, Bool.or_eq_true, Bool.not_eq_true', timeSet]
  rfl

theorem setTimeCommand_named {body : List Field} {s : State} {sec ns : Nat} (hok : (shapeOf [1, 2]).ok body = true)
    (h1 : num? body 1 = some sec) (h2 : num? body 2 = some ns) (hsec : sec < 2 ^ 48) (hns : ns ≤ 999999999) :
    setTimeCommand body s = okay setTimeItems (applyTime sec ns s) := by
  simp only [setTimeCommand, h1, h2]
  exact if_pos ⟨hok, hsec, hns⟩

theorem timeSet_site (sec ns : Nat) (t : TimeUnit) :
    (timeSet sec ns t).site = if t.servo.state = .locked ∨ t.servo.state = .holdover then { t.site with seconds := sec }
      else { seconds := sec, nanos := ns, frac := 0 } := by
  unfold timeSet settledSite
  cases t.servo.state <;> simp

/-- Settles O14, by whether the SET_TIME fires the schedule. -/
theorem setTimeSetsSiteTimeAndFires : Obligations.SetTimeSetsSiteTimeAndFires := by
  intro h sel body s sec ns ha hk hok h1 h2 hsec hns hlaw
  have hop := setTimeCommand_named (s := s.begun) hok h1 h2 hsec hns
  rw [applyTime_eq] at hop
  have hset : Steady [.time] s.begun { s.begun with time := timeSet sec ns s.time } := time_steady _ _
  have hquiet : Told s.begun { s.begun with time := timeSet sec ns s.time } := told_time _ rfl
  by_cases hfires : s.time.valid = false ∨ (timeSet sec ns s.time).site.later s.time.site = true
  · rw [if_pos (by exact hfires)] at hop
    obtain ⟨hdep, hans, hkept⟩ := Steady.request (w := .time :: (computed ++ [.config, .firing]))
      (op := fun _ => setTimeCommand) (kind := 4) (code := 0x102) ha hk hop (hquiet.trans (told_fireEntries _))
      ((hset.mono (by decide)).trans ((fireEntries_steady _).mono (by decide)))
    obtain ⟨hfired, htime, _⟩ := fired_of (ls := []) (ps := [.time, .locals]) (s := s)
      (u := { s.begun with time := timeSet sec ns s.time })
      (((ev_steady s noWork).mono (by simp)).trans (hset.mono (by decide))) rfl rfl rfl
      (fun b => by cases b <;> rfl) (fun _ _ => rfl) (by simp) (by simp) rfl rfl hlaw (by simp) hdep
      (fun a ha hn => by
        rcases ha with rfl | rfl
        · exact hkept .notice (by decide)
        · exact absurd (by simp) hn)
    refine ⟨_, rfl, ?_, hans, ?_⟩
    · rw [htime, ← timeSet_site]; rfl
    · rw [if_pos (by rw [htime]; exact hfires)]
      exact hfired
  · rw [if_neg (by exact hfires)] at hop
    obtain ⟨hdep, hans, hkept⟩ := Steady.request (op := fun _ => setTimeCommand) (kind := 4) (code := 0x102) ha hk hop
      hquiet hset
    have htime : _ = timeSet sec ns s.time := hdep.1 .time rfl
    refine ⟨_, rfl, ?_, hans, ?_⟩
    · rw [← timeSet_site]; exact htime
    · rw [if_neg (by rw [show TimeUnit.site _ = _ from congrArg TimeUnit.site htime]; exact hfires)]
      exact ⟨hdep.1 .config rfl, hkept⟩

/-! ## Edges of the pulse input (R106 to R111) -/

theorem edgeAccepted_iff (r : Option Ns) (t : Ns) :
    edgeAccepted r t = true ↔ ∀ x, r = some x → 999000000 ≤ (t - x).toNat ∧ (t - x).toNat ≤ 1001000000 := by
  unfold edgeAccepted
  cases r with
  | none => simp
  | some x =>
    simp only [Option.some.injEq, forall_eq', sinceNs]
    exact decide_eq_true_iff

/-- The servo when an edge is accepted (R106, R108). -/
def edgeTaken (e : Int) (t : Ns) (v : Servo) : Servo :=
  { v with accepted := v.accepted + 1, reference := some t, phaseError := some e }

/-- The Time Unit after a step (R109). -/
def stepTime (e : Int) (t : Ns) (x : TimeUnit) : TimeUnit :=
  { x with site := x.site.move (-e), servo := (edgeTaken e t x.servo).stepped }

/-- The servo after the discipline of an edge (R110, R111). -/
def disciplinedServo (c : TimingConfig) (e : Int) (t : Ns) (v : Servo) : Servo :=
  let w := (edgeTaken e t v).disciplined c e t
  { w with state := stateAfterEdge c w }

theorem acceptEdge_step {s : State} (e : Int) (he : phaseErrorOf s.time.site.nanos s.cfg.timing.comp = e)
    (h : edgeSteps s.time.servo.state e s.cfg.timing.stepLimit = true) :
    acceptEdge s = if e < 0 then fireEntries (timeRaised .timeStepped (stepTime e s.nowNs s.time) s)
      else timeRaised .timeStepped (stepTime e s.nowNs s.time) s := by
  subst he
  simp only [acceptEdge, h, if_true]
  rfl

theorem acceptEdge_discipline {s : State} (e : Int) (he : phaseErrorOf s.time.site.nanos s.cfg.timing.comp = e)
    (h : edgeSteps s.time.servo.state e s.cfg.timing.stepLimit = false) :
    acceptEdge s =
      let t : TimeUnit := { s.time with servo := disciplinedServo s.cfg.timing e s.nowNs s.time.servo }
      if t.servo.state = .locked ∧ s.time.servo.state ≠ .locked then timeRaised .timeLocked t s
      else squelch { s with time := t } := by
  subst he
  simp only [acceptEdge, h, Bool.false_eq_true, if_false, servoDiscipline]
  show squelch (if _ then _ else _) = _
  split
  · next hl => exact (if_pos hl).symm
  · next hl => exact (if_neg hl).symm

/-- A step moves site time by its amount, modulo the seconds that it counts (R102, R109). -/
theorem move_units (x : SiteTime) (d : Int) :
    (x.move d).frac = x.frac ∧ (x.move d).nanos < 1000000000
      ∧ ((x.move d).seconds : Int) * 1000000000 + (x.move d).nanos
          = ((x.seconds : Int) * 1000000000 + x.nanos + d) % (2 ^ 48 * 1000000000) := by
  refine ⟨rfl, ?_, ?_⟩ <;> simp only [SiteTime.move, secondsWrap] <;> omega

/-- An edge of the pulse input that RUNNING takes (R106). -/
theorem execPpsEdge_taken {n : Nat} {s : State} (hrun : s.startup.state = .running) (hn : 100 ≤ n) :
    execPpsEdge n s = .next (event takeEdge s) := by
  rw [execPpsEdge, if_pos]
  simp [hrun, ppsLowNs, hn]

theorem takeEdge_accepted {s : State} (h : edgeAccepted s.time.servo.reference s.nowNs = true) :
    takeEdge s = acceptEdge s := if_pos h

/-- A rejected edge is counted and raises PPS_REJECTED (R107). -/
theorem rejectEdge_shape (s : State) :
    ∃ x e, rejectEdge s = { s with
      time := { s.time with servo := { s.time.servo with rejected := s.time.servo.rejected + 1 } }, mgmt := x, ev := e }
    ∧ (∀ k, (rejectEdge s).latch k = if k = .ppsRejected then (s.latch .ppsRejected).occur s.nowNs none else s.latch k)
    ∧ Steady [.time, .latches] s (rejectEdge s) ∧ Told s (rejectEdge s) := by
  have hservo := updServo_steady (fun v => { v with rejected := v.rejected + 1 }) s
  have htold := told_updServo (fun v => { v with rejected := v.rejected + 1 }) s
  obtain ⟨x, e, hx⟩ := raise_shape .ppsRejected none (updServo (fun v => { v with rejected := v.rejected + 1 }) s)
  refine ⟨_, e, hx, fun k => ?_, (hservo.mono (by simp)).trans ((raise_steady _ _ _).mono (by simp)),
    htold.trans (told_raise _ _ _)⟩
  unfold rejectEdge
  split
  · next hk => rw [hk]; exact raise_latch_same _ _ _
  · next hk => exact raise_latch_other _ _ _ _ hk

/-- The state after a step of the servo, before what it fires (R109). -/
def steppedState (e : Int) (s : State) : State := timeRaised .timeStepped (stepTime e s.nowNs s.time) s

/-- What the Time Unit of a step shows in a state that has it (R102, R109). -/
theorem steppedState_time (e : Int) (s t : State) (h : t.time = (steppedState e s.begun).time) :
    t.time.servo = (edgeTaken e s.nowNs s.time.servo).stepped
      ∧ t.time.site.frac = s.time.site.frac ∧ t.time.site.nanos < 1000000000
      ∧ ((t.time.site.seconds : Int) * 1000000000 + t.time.site.nanos)
          = ((s.time.site.seconds : Int) * 1000000000 + s.time.site.nanos - e) % (2 ^ 48 * 1000000000)
      ∧ t.time.elapsed = s.time.elapsed ∧ t.time.valid = s.time.valid := by
  obtain ⟨hfrac, hnanos, hunits⟩ := move_units s.time.site (-e)
  have htime : (steppedState e s.begun).time
      = { stepTime e s.nowNs s.time with pulses := (steppedState e s.begun).time.pulses } :=
    timeRaised_time .timeStepped (stepTime e s.nowNs s.time) s.begun
  rw [h, htime]
  exact ⟨rfl, hfrac, hnanos, hunits.trans (by rw [← Int.sub_eq_add_neg]), rfl, rfl⟩

theorem steppedState_steady (e : Int) (s : State) : Steady [.time, .latches] s (steppedState e s) :=
  timeRaised_steady _ _ _

theorem told_steppedState (e : Int) (s : State) : Told s (steppedState e s) :=
  told_timeRaised .timeStepped (t := stepTime e s.nowNs s.time) rfl

theorem steppedState_latch (e : Int) (k : Cond) (s : State) :
    (steppedState e s).latch k = if k = .timeStepped then (s.latch .timeStepped).occur s.nowNs none else s.latch k :=
  timeRaised_latch .timeStepped k (stepTime e s.nowNs s.time) s rfl

/-- A step changes nothing that a computation or the schedule reads (R74, R129). -/
theorem steppedState_quiet (e : Int) (s : State) :
    (steppedState e s).share = s.share ∧ (∀ b, (steppedState e s).bucket b = s.bucket b)
      ∧ (steppedState e s).nowNs = s.nowNs ∧ (steppedState e s).cfg = s.cfg ∧ (steppedState e s).firing = s.firing
      ∧ (steppedState e s).time.valid = s.time.valid := by
  obtain ⟨x, ev, h⟩ := raise_shape .timeStepped none { s with time := stepTime e s.nowNs s.time }
  unfold steppedState timeRaised
  rw [h]
  exact ⟨rfl, fun b => by cases b <;> rfl, rfl, rfl, rfl, rfl⟩

/-- An edge that steps site time back, or while site time is not valid, fires nothing (R109, R133, R135). -/
theorem stepEvent_plain {f : State → State} {e : Int} {s : State} (hf : f s.begun = steppedState e s.begun) :
    (event f s).time = (steppedState e s.begun).time ∧ (event f s).cfg = s.cfg
      ∧ (event f s).latch .timeStepped = (s.latch .timeStepped).occur s.nowNs none
      ∧ LatchesKept [.timeStepped] s (event f s) ∧ Kept [.time, .latches] s (event f s) := by
  have hf' : f { s with ev := noWork } = steppedState e s.begun := hf
  have hdep := event_departs f s
  have hkept : Kept [.time, .latches] s (event f s) :=
    Steady.event (by rw [hf']; exact steppedState_steady e s.begun) (by rw [hf']; exact told_steppedState e s.begun)
  rw [hf'] at hdep
  have hlatch : ∀ k : Cond, k.ofDeparture = false → _ := hdep.1 .latches rfl
  refine ⟨hdep.1 .time rfl, hkept .config (by decide), ?_, fun k hk hd => ?_, hkept⟩
  · rw [hlatch _ rfl, steppedState_latch, if_pos rfl]; rfl
  · rw [hlatch k hd, steppedState_latch, if_neg (by simpa using hk)]; rfl

/-- An edge that steps valid site time forward fires the entries that it passes (R133). -/
theorem stepEvent_fires {f : State → State} {e : Int} {s : State}
    (hf : f s.begun = fireEntries (steppedState e s.begun)) (hv : s.time.valid = true)
    (hlaw : scheduleLaw s.cfg.schedule) :
    (event f s).time = (steppedState e s.begun).time ∧ (event f s).cfg.pulses = s.cfg.pulses
      ∧ (event f s).latch .timeStepped = (s.latch .timeStepped).occur s.nowNs none
      ∧ FiredBeside [.timeStepped] [.time, .latches] s (event f s) := by
  have hf' : f { s with ev := noWork } = fireEntries (steppedState e s.begun) := hf
  have hdep := event_departs f s
  have hsteady : Steady (.time :: (computed ++ [.config, .firing])) s.begun (f { s with ev := noWork }) := by
    rw [hf']
    exact ((steppedState_steady e s.begun).mono (by decide)).trans ((fireEntries_steady _).mono (by decide))
  have htold : Told s.begun (f { s with ev := noWork }) := by
    rw [hf']
    exact (told_steppedState e s.begun).trans (told_fireEntries _)
  have hkept := Steady.event hsteady htold
  rw [hf'] at hdep
  obtain ⟨hshare, hbucket, hnow, hcfg, hfiring, hvalid⟩ := steppedState_quiet e s.begun
  obtain ⟨hfired, htime, hlatch⟩ := fired_of (ls := [.timeStepped]) (ps := [.time, .latches]) (s := s)
    (u := steppedState e s.begun)
    (((ev_steady s noWork).mono (by simp)).trans (steppedState_steady e s.begun)) hcfg (hvalid.trans hv) hshare
    (fun b => (hbucket b).trans (State.bucket_ev s noWork b))
    (fun k hk => (steppedState_latch e k s.begun).trans (if_neg (by simpa using hk))) (by simp) (by simp) hnow hfiring
    hlaw (by simp) hdep (fun a ha _ => by
      rcases ha with rfl | rfl
      · exact hkept .notice (by decide)
      · exact hkept .locals (by decide))
  refine ⟨htime, ?_, ?_, hfired⟩
  · unfold FiredBeside at hfired
    simp only at hfired
    split at hfired
    · rw [hfired.1]
    · rw [hfired.1]
  · rw [hlatch _ (by simp) rfl, steppedState_latch, if_pos rfl]; rfl

/-- The state after the discipline of an edge (R110, R111). -/
def disciplinedState (e : Int) (s : State) : State :=
  let t : TimeUnit := { s.time with servo := disciplinedServo s.cfg.timing e s.nowNs s.time.servo }
  if t.servo.state = .locked ∧ s.time.servo.state ≠ .locked then timeRaised .timeLocked t s
  else squelch { s with time := t }

/-- An event that disciplines the servo: its record, TIME_LOCKED where it locks, and the outputs squelched (R110, R111,
R116). -/
theorem disciplineEvent {f : State → State} {e : Int} {s : State} (hf : f s.begun = disciplinedState e s.begun) :
    (event f s).time = { s.time with
        servo := disciplinedServo s.cfg.timing e s.nowNs s.time.servo, pulses := (event f s).time.pulses }
      ∧ Squelched s (event f s)
      ∧ (∀ k : Cond, k.ofDeparture = false → (event f s).latch k
          = if k = .timeLocked ∧ (disciplinedServo s.cfg.timing e s.nowNs s.time.servo).state = .locked
              ∧ s.time.servo.state ≠ .locked then (s.latch k).occur s.nowNs none else s.latch k)
      ∧ Kept [.time, .latches] s (event f s) := by
  by_cases hl : (disciplinedServo s.cfg.timing e s.nowNs s.time.servo).state = .locked ∧ s.time.servo.state ≠ .locked
  · obtain ⟨htime, hsq, hlatch, hkept⟩ := timeRaised_event (s := s) (hf.trans (if_pos hl)) rfl rfl
    refine ⟨htime, hsq, fun k hk => ?_, hkept⟩
    rw [hlatch k hk]
    simp only [hl, and_true, ne_eq, not_false_eq_true]
    split
    · next hk' => rw [hk']
    · rfl
  · have hop : f s.begun = squelch { s.begun with
        time := { s.time with servo := disciplinedServo s.cfg.timing e s.nowNs s.time.servo } } := hf.trans (if_neg hl)
    obtain ⟨htime, hlatch, hkept⟩ := time_event (s := s) hop rfl
    refine ⟨by rw [htime], ?_, fun k hk => ?_, fun a ha => hkept a fun hm => ha (by simp_all)⟩
    · exact squelched_of (s := s) (u := { s.begun with
        time := { s.time with servo := disciplinedServo s.cfg.timing e s.nowNs s.time.servo } }) rfl htime
        (by rw [show (event f s).cfg = s.cfg from hkept .config (by decide)])
    · rw [hlatch k hk, if_neg (fun h => hl h.2)]

/-- The state moves of R111. -/
theorem stateAfterEdge_eq (c : TimingConfig) (v : Servo) :
    stateAfterEdge c v
      = if v.state = .locked then if c.unlockCount ≤ v.unlockCtr then .acquiring else .locked
        else if c.lockCount ≤ v.lockCtr then .locked else .acquiring := by
  unfold stateAfterEdge
  cases v.state <;> rfl

/-- A rejected edge, whole (R107). -/
theorem rejectEvent {f : State → State} {s : State} (hf : f s.begun = rejectEdge s.begun) :
    (event f s).time = { s.time with servo := { s.time.servo with rejected := s.time.servo.rejected + 1 } }
      ∧ (event f s).latch .ppsRejected = (s.latch .ppsRejected).occur s.nowNs none
      ∧ LatchesKept [.ppsRejected] s (event f s) ∧ Kept [.time, .latches] s (event f s) := by
  have hf' : f { s with ev := noWork } = rejectEdge s.begun := hf
  obtain ⟨x, ev, hshape, hlatch, hsteady, htold⟩ := rejectEdge_shape s.begun
  have hdep := event_departs f s
  have hkept : Kept [.time, .latches] s (event f s) :=
    Steady.event (by rw [hf']; exact hsteady) (by rw [hf']; exact htold)
  rw [hf'] at hdep
  have hkeep : ∀ k : Cond, k.ofDeparture = false → _ := hdep.1 .latches rfl
  refine ⟨?_, ?_, fun k hk hd => ?_, hkept⟩
  · exact (hdep.1 .time rfl : _ = _).trans (by rw [hshape])
  · rw [hkeep _ rfl, hlatch, if_pos rfl]; rfl
  · rw [hkeep k hd, hlatch, if_neg (by simpa using hk)]; rfl

/-- Settles O43, by whether the edge is taken, lies in the window, and steps site time. -/
theorem pulseEdgesDriveTheServo : Obligations.PulseEdgesDriveTheServo := by
  intro lowNs s v c d e inWindow
  have he : phaseErrorOf s.time.site.nanos s.cfg.timing.comp = e := rfl
  have hwin : edgeAccepted s.begun.time.servo.reference s.begun.nowNs = true ↔ inWindow := edgeAccepted_iff _ _
  have hsteps : edgeSteps s.time.servo.state e s.cfg.timing.stepLimit = true ↔
      v.state = .freeRun ∨ c.stepLimit < e.natAbs := by
    simp only [edgeSteps, Bool.or_eq_true, decide_eq_true_eq]
    exact Iff.rfl
  refine ⟨fun hno => ?_, fun hrun hlow hout => ⟨_, execPpsEdge_taken hrun hlow, ?_⟩,
    fun hrun hlow hin hstep hlaw => ⟨_, execPpsEdge_taken hrun hlow, ?_⟩,
    fun hrun hlow hin hfree hsmall => ⟨_, execPpsEdge_taken hrun hlow, ?_⟩⟩
  · show execPpsEdge lowNs s = _
    rw [execPpsEdge, if_neg]
    simp only [Bool.and_eq_true, decide_eq_true_eq, ppsLowNs]
    rintro ⟨hrun, hlow⟩
    exact hno.elim (absurd hrun) (fun h => absurd (of_decide_eq_true hlow) (Nat.not_le.2 h))
  · exact rejectEvent (if_neg fun h => hout (hwin.1 h))
  · have hop : takeEdge s.begun = if e < 0 then fireEntries (steppedState e s.begun) else steppedState e s.begun :=
      (takeEdge_accepted (hwin.2 hin)).trans (acceptEdge_step (s := s.begun) e he (hsteps.2 hstep))
    by_cases hfire : e < 0 ∧ s.time.valid = true
    · rw [if_pos hfire.1] at hop
      obtain ⟨htime, hpulses, hlatch, hfired⟩ := stepEvent_fires hop hfire.2 hlaw
      obtain ⟨hservo, hfrac, hnanos, hunits, helapsed, hvalid⟩ := steppedState_time e s _ htime
      refine ⟨hservo, hfrac, hnanos, hunits, helapsed, hvalid, ?_, hlatch, by rwa [if_pos hfire]⟩
      obtain ⟨_, _, _, hcfg, _, _, _, hraised, _⟩ :=
        raise_quiet .timeStepped none { s.begun with time := stepTime e s.nowNs s.time }
      exact squelched_of (s := s) (u := raise .timeStepped none { s.begun with time := stepTime e s.nowNs s.time })
        (by rw [hraised]; rfl) htime (by rw [hpulses, hcfg])
    · have hplain : takeEdge s.begun = steppedState e s.begun := by
        rw [hop]
        split
        · next hneg =>
          have hinv : s.time.valid = false := by simpa [hneg] using hfire
          exact fireEntries_invalid ((steppedState_quiet e s.begun).2.2.2.2.2.trans hinv)
        · rfl
      obtain ⟨htime, hcfg, hlatch, hlatches, hkept⟩ := stepEvent_plain hplain
      obtain ⟨hservo, hfrac, hnanos, hunits, helapsed, hvalid⟩ := steppedState_time e s _ htime
      refine ⟨hservo, hfrac, hnanos, hunits, helapsed, hvalid, ?_, hlatch, by rw [if_neg hfire]; exact ⟨hlatches, hkept⟩⟩
      exact timeRaised_squelched (c := .timeStepped) (t := stepTime e s.nowNs s.time) (s := s.begun) rfl htime hcfg
  · have hno : edgeSteps s.time.servo.state e s.cfg.timing.stepLimit = false := by
      rw [← Bool.not_eq_true, hsteps]
      exact fun h => h.elim hfree fun h => absurd hsmall (Nat.not_le.2 h)
    obtain ⟨htime, hsq, hlatch, hkept⟩ := disciplineEvent (s := s) (e := e) (f := takeEdge)
      ((takeEdge_accepted (hwin.2 hin)).trans (acceptEdge_discipline (s := s.begun) e he hno))
    have hservo := congrArg TimeUnit.servo htime
    refine ⟨hservo.trans ?_, by rw [htime], by rw [htime], by rw [htime], hsq, ?_, fun k hk hd => ?_, hkept⟩
    · simp only [disciplinedServo, Servo.disciplined, edgeTaken, stateAfterEdge_eq, clampF, decide_eq_true_eq,
        Nat.cast_pow, Nat.cast_ofNat]
      rfl
    · rw [hlatch _ rfl, hservo]
      simp only [true_and]
      rfl
    · rw [hlatch k hd, if_neg fun h => hk (by simp [h.1])]

end Sys2Proof.Machine
end

section
/-!
PROOF. The firing of the schedule, the wrap of the seconds, and the clock of the empty queue (R101, R102, R116, R132 to
R135).
-/

namespace Sys2Proof.Machine

/-! ## What the clock finds due -/

@[simp] theorem mem_dueIf (b : Bool) (i c : Instr) : c ∈ dueIf b i ↔ b = true ∧ c = i := by
  unfold dueIf
  split
  · next h => simp [h]
  · next h => simp [h]

theorem mem_dueTransmissions {s : State} {c : Instr} (h : c ∈ dueTransmissions s) :
    (∃ l, c = .backhaulTransmissionEnd l) ∨ ∃ p, c = .accessTransmissionEnd p := by
  unfold dueTransmissions at h
  obtain ⟨p, _, rfl⟩ := List.mem_map.1 h
  cases p with
  | bh l => exact .inl ⟨l, rfl⟩
  | ap i => exact .inr ⟨_, rfl⟩
  | sp => exact .inr ⟨_, rfl⟩

theorem not_mem_dueTransmissions {s : State} {c : Instr} (h1 : ∀ l, c ≠ .backhaulTransmissionEnd l)
    (h2 : ∀ p, c ≠ .accessTransmissionEnd p) : c ∉ dueTransmissions s := fun h =>
  (mem_dueTransmissions h).elim (fun ⟨l, hl⟩ => h1 l hl) fun ⟨p, hp⟩ => h2 p hp

/-- The firing is among the due events when an entry is due (R132). -/
theorem scheduleFire_mem_dueEvents (s : State) (n : Nat) : Instr.scheduleFire ∈ dueEvents s n ↔ fireDue s = true := by
  have hx : Instr.scheduleFire ∉ dueTransmissions s := not_mem_dueTransmissions (by simp) (by simp)
  simp [dueEvents, dueCredits, dueOfLink, dueOfTime, dueOfStore, hx]

/-- What only an advance of site time reaches is not among the due events. -/
theorem advance_not_mem_dueEvents (s : State) (n : Nat) :
    (∀ k, Instr.pulseOutputRise k ∉ dueEvents s n) ∧ Instr.siteSecondsWrap ∉ dueEvents s n := by
  refine ⟨fun k => ?_, ?_⟩
  · have hx : Instr.pulseOutputRise k ∉ dueTransmissions s := not_mem_dueTransmissions (by simp) (by simp)
    simp [dueEvents, dueCredits, dueOfLink, dueOfTime, dueOfStore, hx]
  · have hx : Instr.siteSecondsWrap ∉ dueTransmissions s := not_mem_dueTransmissions (by simp) (by simp)
    simp [dueEvents, dueCredits, dueOfLink, dueOfTime, dueOfStore, hx]

/-! ## What an advance of site time reaches -/

/-- An entry's firing and the rise points that an advance reaches (R116, R132). -/
theorem mem_reachedBySite (s : State) (steps : Nat) :
    (Instr.scheduleFire ∈ reachedBySite s steps ↔ fireDue s = true)
      ∧ (∀ k, Instr.pulseOutputRise k ∈ reachedBySite s steps ↔
          passes ((s.time.site.nanos + 2 * 1000000000 - steps) % 1000000000) steps (risePoint (tget s.cfg.pulses k)) = true)
      ∧ Instr.siteSecondsWrap ∉ reachedBySite s steps := by
  refine ⟨?_, fun k => ?_, ?_⟩ <;> unfold reachedBySite <;> split <;> simp_all

/-- The wrap is reached when the seconds count has passed 2^48 - 1 (R102). -/
theorem mem_wrapReached {s : State} {c : Instr} :
    c ∈ wrapReached s ↔ c = .siteSecondsWrap ∧ 2 ^ 48 ≤ s.time.site.seconds := by
  unfold wrapReached secondsWrap
  split
  · next h => exact ⟨fun hc => ⟨List.mem_singleton.1 hc, h⟩, fun hc => List.mem_singleton.2 hc.1⟩
  · next h => exact ⟨fun hc => absurd hc List.not_mem_nil, fun hc => absurd hc.2 h⟩

/-- What joins the queue when site time has advanced: the wrap, and the events reached among those that are due. -/
theorem joinReached_shape (reached : List Instr) (s : State) :
    ∃ n events, joinReached reached s = { s with pending := s.pending ++ wrapReached s ++ events, freeCount := n }
      ∧ (∀ c, c ∈ reached → c ∈ events)
      ∧ ∀ c, c ∈ events → c ∈ reached ∨ ∃ m, c ∈ dueEvents s m := by
  unfold joinReached
  simp only [takeFree]
  generalize hdue : (dueEvents s s.freeCount).filter (fun c => !reached.contains c) = due
  generalize hm : mergeReached (reached.length + due.length) reached due { s with freeCount := s.freeCount + 1 } = m
  have hstate := mergeReached_state (reached.length + due.length) reached due { s with freeCount := s.freeCount + 1 }
  have hall := fun c => mem_mergeReached (c := c) (reached.length + due.length) reached due
    { s with freeCount := s.freeCount + 1 } le_rfl
  have hsub := fun c => mem_of_mem_mergeReached (c := c) (reached.length + due.length) reached due
    { s with freeCount := s.freeCount + 1 }
  rw [hm] at hstate hall hsub
  refine ⟨m.2.freeCount, m.1, ?_, hall, fun c hc => (hsub c hc).imp id fun h => ⟨s.freeCount, ?_⟩⟩
  · rw [hstate]
  · rw [← hdue] at h
    exact List.mem_of_mem_filter h

/-- An advance of a site time conserves its units of 2^-32 ns (R102). -/
theorem advance_units {drift : Int} {x : SiteTime} (hd : -(2 ^ 32) ≤ drift) :
    (((x.advance drift).seconds : Int) * 1000000000 + (x.advance drift).nanos) * 2 ^ 32 + (x.advance drift).frac
        = ((x.seconds : Int) * 1000000000 + x.nanos) * 2 ^ 32 + x.frac + (2 ^ 32 + drift)
      ∧ (x.advance drift).nanos < 1000000000 ∧ (x.advance drift).frac < 2 ^ 32
      ∧ (x.advance drift).nanos = (x.nanos + advanceSteps drift x) % 1000000000 := by
  simp only [SiteTime.advance, advanceSteps]
  refine ⟨?_, by omega, by omega, trivial⟩
  omega

/-- An advance by less than two nanoseconds (R102). -/
theorem advanceSteps_le {drift : Int} {x : SiteTime} (hd : drift < 2 ^ 32) (hf : x.frac < 2 ^ 32) :
    advanceSteps drift x ≤ 2 := by
  unfold advanceSteps
  omega

/-- The points passed on the way to a site time are those of the nanoseconds that it went through (R116). -/
theorem passes_iff {old new steps point : Nat} (hs : steps ≤ 2) (hn : new = (old + steps) % 1000000000) :
    passes ((new + 2 * 1000000000 - steps) % 1000000000) steps point = true
      ↔ ∃ j, 1 ≤ j ∧ j ≤ steps ∧ (old + j) % 1000000000 = point := by
  have hold : (new + 2 * 1000000000 - steps) % 1000000000 = old % 1000000000 := by omega
  rw [hold]
  simp only [passes, List.any_eq_true, List.mem_range, beq_iff_eq]
  constructor
  · rintro ⟨i, hi, hp⟩
    exact ⟨i + 1, by omega, by omega, by omega⟩
  · rintro ⟨j, h1, h2, hp⟩
    exact ⟨j - 1, by omega, by omega⟩

/-! ## One unit of the elapsed counter (R101, R102) -/

/-- A unit that is not the last of its nanosecond. -/
theorem tick_within {s : State} (h : (s.time.elapsed + 1).extractLsb' 0 16 ≠ 0#16) :
    tick s = { s with time := { s.time with elapsed := s.time.elapsed + 1 } } := if_neg h

/-- Site time at the end of a nanosecond (R102). -/
def advancedState (s : State) : State :=
  { s with time := { s.time with
      elapsed := s.time.elapsed + 1, site := s.time.site.advance (driftOf s.time.servo) } }

theorem tick_advances {s : State} (h : (s.time.elapsed + 1).extractLsb' 0 16 = 0#16) :
    tick s = joinReached (reachedBySite (advancedState s) (advanceSteps (driftOf s.time.servo) s.time.site))
      (advancedState s) := if_pos h

theorem tick_elapsed (s : State) : (tick s).time.elapsed = s.time.elapsed + 1 := by
  by_cases h : (s.time.elapsed + 1).extractLsb' 0 16 = 0#16
  · obtain ⟨n, events, hshape, _⟩ := joinReached_shape
      (reachedBySite (advancedState s) (advanceSteps (driftOf s.time.servo) s.time.site)) (advancedState s)
    rw [tick_advances h, hshape]
    rfl
  · rw [tick_within h]

/-- The drift of a servo whose adjustment and slew stay below a whole nanosecond per nanosecond (R102). -/
theorem driftOf_bounds {v : Servo} (h : (v.f + v.slew).natAbs < 1000000000) :
    -(2 ^ 32) ≤ driftOf v ∧ driftOf v < 2 ^ 32 := by
  unfold driftOf
  omega

/-- The firing is due when site time is valid and the first entry is at or before it (R129, R132). -/
theorem fireDue_iff (s : State) :
    fireDue s = true ↔ s.time.valid = true ∧ ∃ e, s.cfg.schedule.head? = some e ∧ e.time ≤ s.time.site.seconds := by
  unfold fireDue
  cases s.cfg.schedule with
  | nil => simp
  | cons e rest => simp

/-- In an ascending table the first entry is due when any is (R129). -/
theorem fireDue_of_due {s : State} (hlaw : scheduleLaw s.cfg.schedule) (hv : s.time.valid = true)
    (he : ∃ e, e ∈ s.cfg.schedule ∧ e.time ≤ s.time.site.seconds) : fireDue s = true := by
  obtain ⟨e, hmem, hle⟩ := he
  rw [fireDue_iff]
  refine ⟨hv, ?_⟩
  unfold scheduleLaw at hlaw
  cases hs : s.cfg.schedule with
  | nil => rw [hs] at hmem; cases hmem
  | cons x rest =>
    rw [hs] at hmem hlaw
    simp only [List.map_cons, List.pairwise_cons, List.mem_map] at hlaw
    refine ⟨x, rfl, ?_⟩
    rcases List.mem_cons.1 hmem with rfl | hr
    · exact hle
    · exact (hlaw.1 _ ⟨e, hr, rfl⟩).le.trans hle

/-- An idle step with nothing due is one unit of time. -/
theorem step_idle {s : State} (hp : s.pending = []) (hd : dueEvents s s.freeCount = []) : step s = .next (tick s) := by
  unfold step
  rw [hp]
  simp only [idle, takeFree, hd]

/-- An idle step with events due puts one of them in the queue. -/
theorem step_due {s : State} (hp : s.pending = []) (hd : dueEvents s s.freeCount ≠ []) :
    ∃ c, c ∈ dueEvents s s.freeCount ∧ step s = .next { s with pending := [c], freeCount := s.freeCount + 1 } := by
  unfold step
  rw [hp]
  simp only [idle, takeFree]
  cases hdue : dueEvents s s.freeCount with
  | nil => exact absurd hdue hd
  | cons c cs =>
    refine ⟨_, ?_, rfl⟩
    have hlt : Config.dueChoice s.freeCount % (cs.length + 1) < (c :: cs).length := Nat.mod_lt _ (by simp)
    rw [List.getD_eq_getElem?_getD, List.getElem?_eq_getElem hlt]
    exact List.getElem_mem hlt

/-- Settles O46: the firing and the wrap as events, and the idle step by what is due. -/
theorem scheduledEntriesFireAndSecondsWrap : Obligations.ScheduledEntriesFireAndSecondsWrap := by
  refine ⟨fun s => ⟨fun hlaw hv he => ?_, fun hno => ?_, ?_⟩, fun s hp hd => ?_, fun s hp hd => step_due hp hd⟩
  · have hdue := fireDue_of_due hlaw hv he
    have hkept := Steady.event (fireEntries_steady s.begun) (told_fireEntries s.begun)
    obtain ⟨hfired, htime, _⟩ := fired_of (ls := []) (ps := []) (s := s) (u := s.begun) (ev_steady s noWork) rfl hv rfl
      (State.bucket_ev s noWork) (fun _ _ => rfl) (by simp) (by simp) rfl rfl hlaw (by simp)
      (event_departs fireEntries s) (fun a ha _ => by
        rcases ha with rfl | rfl
        · exact hkept .notice (by decide)
        · exact hkept .locals (by decide))
    exact ⟨event fireEntries s, if_pos hdue, htime, hfired⟩
  · refine if_neg fun hdue => ?_
    obtain ⟨hv, e, he, hle⟩ := (fireDue_iff s).1 hdue
    rcases hno with hinv | hahead
    · rw [hv] at hinv; cases hinv
    · exact absurd (hahead e (List.mem_of_mem_head? he)) (by omega)
  · obtain ⟨htime, _, hkept⟩ := time_event (s := s) (f := wrapSeconds)
      (t := { s.time with site := { s.time.site with seconds :=
        if 2 ^ 48 ≤ s.time.site.seconds then s.time.site.seconds - 2 ^ 48 else s.time.site.seconds } }) rfl rfl
    exact ⟨_, rfl, hkept, htime⟩
  · refine ⟨_, step_idle hp hd, tick_elapsed s, tick_within, fun hwhole hslow hfrac => ?_⟩
    obtain ⟨hlo, hhi⟩ := driftOf_bounds hslow
    obtain ⟨hunits, hnanos, hfrac', hmod⟩ := advance_units (x := s.time.site) hlo
    have hsteps := advanceSteps_le (x := s.time.site) hhi hfrac
    obtain ⟨n, events, hshape, hall, hsub⟩ := joinReached_shape
      (reachedBySite (advancedState s) (advanceSteps (driftOf s.time.servo) s.time.site)) (advancedState s)
    obtain ⟨hfire, hrise, hwrap⟩ := mem_reachedBySite (advancedState s) (advanceSteps (driftOf s.time.servo) s.time.site)
    rw [← tick_advances hwhole] at hshape
    have hpending : (tick s).pending = wrapReached (advancedState s) ++ events := by
      rw [hshape]
      show s.pending ++ _ ++ _ = _
      rw [hp]
      rfl
    have htime : (tick s).time = (advancedState s).time := by rw [hshape]
    rw [htime]
    refine ⟨by rw [hshape]; rfl, hunits, hnanos, hfrac', ?_, fun k => ?_, ?_⟩
    · rw [hpending, List.mem_append, mem_wrapReached]
      simp only [reduceCtorEq, false_and, false_or]
      rw [show s.time.valid = (advancedState s).time.valid from rfl,
        show s.cfg.schedule = (advancedState s).cfg.schedule from rfl, ← fireDue_iff]
      exact ⟨fun h => (hsub _ h).elim hfire.1 fun ⟨m, hm⟩ => (scheduleFire_mem_dueEvents _ m).1 hm,
        fun h => hall _ (hfire.2 h)⟩
    · rw [hpending, List.mem_append, mem_wrapReached]
      simp only [reduceCtorEq, false_and, false_or]
      rw [show (Instr.pulseOutputRise k ∈ events) ↔ Instr.pulseOutputRise k ∈ reachedBySite (advancedState s)
          (advanceSteps (driftOf s.time.servo) s.time.site) from
        ⟨fun h => (hsub _ h).elim id fun ⟨m, hm⟩ => absurd hm ((advance_not_mem_dueEvents _ m).1 k), hall _⟩, hrise]
      have hwholeSteps : advanceSteps (driftOf s.time.servo) s.time.site = ((s.time.site.frac : Int)
          + (2 ^ 32 + (s.time.servo.f + s.time.servo.slew) * 2 ^ 32 / 1000000000)).toNat / 2 ^ 32 := by
        unfold advanceSteps driftOf
        rw [Int.add_assoc]
      show _ ↔ ∃ j, 1 ≤ j ∧ j ≤ _ ∧ _
      rw [← hwholeSteps]
      exact passes_iff hsteps hmod
    · rw [hpending, List.mem_append, mem_wrapReached]
      exact ⟨fun h => h.elim (fun h => h.2) fun h => ((hsub _ h).elim (fun h => absurd h hwrap)
        fun ⟨m, hm⟩ => absurd hm (advance_not_mem_dueEvents _ m).2), fun h => .inl ⟨rfl, h⟩⟩

end Sys2Proof.Machine
end

section
/-!
PROOF. Store commands (R168 to R173), and the commands that clear latches or the reset cause (R164, R176).
-/

namespace Sys2Proof.Machine

/-! ## Store commands (R169) -/

/-- A store command on an idle store that is accepted (R169). -/
theorem storeCommand_accepted {body : List Field} {f : State → Status × State} {s s1 : State}
    (hidle : s.store.op = none)
    (hf : f { s with store := { s.store with times := timesWritten body s.store.times } } = (.accepted, s1)) :
    storeCommand body f s = ({ status := .accepted, body := storeItems s1, after := .nothing }, s1) := by
  have hf' : f (updStore (fun x => { x with times := timesWritten body x.times }) s) = (.accepted, s1) := hf
  simp [storeCommand, hidle, hf']

theorem storeCommand_okay {body : List Field} {f : State → Status × State} {s s1 : State}
    (hidle : s.store.op = none)
    (hf : f { s with store := { s.store with times := timesWritten body s.store.times } } = (.ok, s1)) :
    storeCommand body f s = okay (fun _ => []) s1 := by
  have hf' : f (updStore (fun x => { x with times := timesWritten body x.times }) s) = (.ok, s1) := hf
  simp [storeCommand, hidle, hf']

/-- An accepted request that writes the store alone, and keeps the address that the device answers from. -/
theorem request_writesStore {h : Header} {kind code : Nat} {sel : Selector} {body : List Field} {op : Operation}
    {s : State} {st : Status} {items : List Item} {x : Store} (ha : Accepts h s) (hk : sel.kind.toNat ≤ 3)
    (hx : x.runAddr = s.store.runAddr)
    (hop : op sel body { s with ev := noWork }
      = ({ status := st, body := items, after := .nothing }, { s with ev := noWork, store := x })) :
    (rowRequest h kind code sel body op s).store = x ∧ Kept [.locals, .store] s (rowRequest h kind code sel body op s)
      ∧ Answered h kind code sel st s (rowRequest h kind code sel body op s) := by
  obtain ⟨hdep, hans, hkept⟩ := Steady.requestWith (kind := kind) (code := code) ha hk hop
    (told_quiet rfl rfl rfl rfl rfl) (store_steady { s with ev := noWork } x) (hst := hx)
  exact ⟨hdep.1 .store rfl, hkept, items, hans⟩

/-- A slot whose operation runs reports INVALID (R168). -/
theorem slotReport_running {x : Store} {o : StoreOp} {k : Fin 4} (ho : x.op = some o) (hk : jobSlot o.job = some k) :
    slotReport x k = .invalid := by
  simp [slotReport, ho, hk]

theorem eraseSlotCommand_named {body : List Field} {k : Fin 4} (hc : commandSlot body = some k) (s : State) :
    eraseSlotCommand body s = storeCommand body (fun s => (.accepted, beginErase k s)) s := by
  simp only [eraseSlotCommand, hc]

theorem saveSlotCommand_named {body : List Field} {k : Fin 4} (hc : commandSlot body = some k) (s : State) :
    saveSlotCommand body s = storeCommand body
      (fun s => if slotReport s.store k = .erased then (.accepted, beginSave k s) else (.notErased, s)) s := by
  simp only [saveSlotCommand, hc]

theorem invalidateCommand_named {body : List Field} {k : Fin 4} (hc : commandSlot body = some k) (s : State) :
    invalidateCommand body s = storeCommand body (fun s =>
      if (tget s.store.slots k).marker = markerInvalid then (.ok, s) else (.ok, beginInvalidate k s)) s := by
  simp only [invalidateCommand, hc]

theorem writeInfoCommand_named {body : List Field} {addr : Mac} {label : List Byte}
    (hw : writtenInfo body = some (addr, label)) (s : State) :
    writeInfoCommand body s = storeCommand body (fun s =>
      if pageReport s.store = .erased then (.accepted, beginWriteInfo addr label s) else (.notErased, s)) s := by
  simp only [writeInfoCommand, hw]

theorem eraseInfoCommand_named {body : List Field} (hshape : (storeShape [1]).ok body = true)
    (htimes : timesOk body = true) (s : State) :
    eraseInfoCommand body s = storeCommand body (fun s =>
      if confirmed body 1 then (.accepted, beginEraseInfo s) else (.notPermitted, s)) s := by
  simp only [eraseInfoCommand, hshape, htimes, Bool.and_self, if_true]

/-- Settles O19, command by command: each begins its operation, with the carried times, and the store alone changes. -/
theorem storeCommandsBeginTheirOperations : Obligations.StoreCommandsBeginTheirOperations := by
  refine ⟨?_, fun h sel body s addr label ha hk hw hidle hpage => ?_,
    fun h sel body s ha hk hshape htimes hconf hidle => ?_⟩
  · intro h sel body s k ha hk hc hidle times
    refine ⟨?_, fun her => ?_, fun hm => ?_⟩
    · have hop := (eraseSlotCommand_named hc s.begun).trans (storeCommand_accepted (s := s.begun) hidle rfl)
      obtain ⟨hstore, hkept, hans⟩ := request_writesStore (op := fun _ => eraseSlotCommand) (kind := 4) (code := 0x108)
        (s := s) ha hk (by rfl) hop
      exact ⟨_, rfl, hstore, hkept, hans⟩
    · have hop := (saveSlotCommand_named hc s.begun).trans (storeCommand_accepted (s := s.begun) hidle (if_pos her))
      obtain ⟨hstore, hkept, hans⟩ := request_writesStore (op := fun _ => saveSlotCommand) (kind := 4) (code := 0x109)
        (s := s) ha hk (by rfl) hop
      exact ⟨_, rfl, hstore, hkept, hans⟩
    · have hop := (invalidateCommand_named hc s.begun).trans (storeCommand_okay (s := s.begun) hidle (if_neg hm))
      obtain ⟨hstore, hkept, hans⟩ := request_writesStore (op := fun _ => invalidateCommand) (kind := 4) (code := 0x10B)
        (s := s) ha hk (by rfl) hop
      refine ⟨_, rfl, hstore, ?_, hkept, hans⟩
      rw [show State.store _ = _ from hstore]
      exact slotReport_running rfl rfl
  · have hop := (writeInfoCommand_named hw s.begun).trans (storeCommand_accepted (s := s.begun) hidle (if_pos hpage))
    obtain ⟨hstore, hkept, hans⟩ := request_writesStore (op := fun _ => writeInfoCommand) (kind := 4) (code := 0x10C)
      (s := s) ha hk (by rfl) hop
    exact ⟨_, rfl, hstore, hkept, hans⟩
  · have hop := (eraseInfoCommand_named hshape htimes s.begun).trans (storeCommand_accepted (s := s.begun) hidle (if_pos (decide_eq_true hconf)))
    obtain ⟨hstore, hkept, hans⟩ := request_writesStore (op := fun _ => eraseInfoCommand) (kind := 4) (code := 0x10D)
      (s := s) ha hk (by rfl) hop
    exact ⟨_, rfl, hstore, hkept, hans⟩

/-! ## Operations that clear a latch -/

/-- An accepted request whose operation moves no frame and calls nothing: it changes nothing but what the operation has
changed, and its answer joins the local queue of its port. A latch that the operation clears is no latching. -/
theorem request_plain {h : Header} {kind code : Nat} {sel : Selector} {body : List Field} {op : Operation}
    {s s1 : State} {st : Status} {items : List Item} (ha : Accepts h s) (hk : sel.kind.toNat ≤ 3)
    (hop : op sel body { s with ev := noWork } = ({ status := st, body := items, after := .nothing }, s1))
    (hev : s1.ev = noWork) (hq : s1.queues = s.queues) (hp : s1.ports = s.ports)
    (hr : s1.store.runAddr = s.store.runAddr) :
    Departs s1 (rowRequest h kind code sel body op s)
      ∧ (rowRequest h kind code sel body op s).mgmt = s1.mgmt
      ∧ AnsweredWith h kind code sel st items s (rowRequest h kind code sel body op s) := by
  have hlocalQ : ∀ p, s1.localQ p = s.localQ p := fun p => by unfold State.localQ; rw [hq]
  have hport : ∀ p, s1.port p = s.port p := fun p => by unfold State.port; rw [hp]
  let r := responseTo h { kind, code, sel, body := some body } { status := st, body := items, after := .nothing } s1
  have hrow : rowRequest h kind code sel body op s = settle (offerFrame h.port (.response r) s1) :=
    rowRequest_accepted ha hk rfl hop
  have hroom : localRoom s1 h.port = (s.port h.port).linkUp := by
    simp [localRoom, placesTaken_congr (hlocalQ h.port) (by rw [hport]), hport, ha.2.2]
  have hoff : ∀ p, (offerFrame h.port (.response r) s1).localQ p
      = s1.localQ p ++ (if p = h.port ∧ (s.port p).linkUp = true then [LocalFrame.response r] else []) := by
    intro p
    unfold offerFrame offerLocal
    rw [hroom]
    by_cases hup : (s.port h.port).linkUp = true
    · rw [if_pos hup]
      by_cases hpe : p = h.port
      · subst hpe; simp [hup, State.localQ, State.setLocalQ, kick]
      · simp [hpe, State.localQ, State.setLocalQ, kick, PerPort.get_set]
    · rw [if_neg hup]
      have : ¬(p = h.port ∧ (s.port p).linkUp = true) := fun ⟨a, b⟩ => hup (a ▸ b)
      simp [this]
  have hmg : (offerFrame h.port (.response r) s1).mgmt = s1.mgmt := by
    unfold offerFrame offerLocal; split <;> rfl
  obtain ⟨ports, locals, sched, freeCount, hlocal⟩ :=
    request_local (kind := kind) (code := code) ha hk rfl hop (localOnly_noWork hev) (by rw [hev]; rfl)
  have hmgmt : (rowRequest h kind code sel body op s).mgmt = s1.mgmt := by rw [hlocal]
  have hsame : ({ s1 with ev := noWork } : State) = s1 := by rw [← hev]
  -- Nothing latches after the operation, so no notice joins a local queue.
  have hquiet : ¬newlyLatched s1 (rowRequest h kind code sel body op s) := by
    rintro ⟨c, h1, h2⟩
    unfold State.latch at h1 h2
    rw [hmgmt, h1] at h2
    cases h2
  obtain ⟨_, hlocals⟩ := told_event (s := s1) (s1 := s1) (by rw [hsame]; exact Told.refl s1)
    (fun p => List.suffix_refl _) (fun p f hf => hf)
    (offered_local (fun _ _ => True) h.port (.response r) s1 (fun _ => trivial)) hmg hoff
  have hans : LocalsAre (newlyLatched s (rowRequest h kind code sel body op s))
      (fun p => if p = h.port ∧ (s.port p).linkUp = true then [LocalFrame.response r] else []) s
      (rowRequest h kind code sel body op s) := by
    intro p
    rw [hrow] at hquiet ⊢
    obtain ⟨ns, h1, h2, h3, h4⟩ := hlocals p
    have hns : ns = [] := by_contra fun hne => hquiet (h2 hne)
    subst hns
    refine ⟨[], by simp, by simp, by rw [← hlocalQ]; exact h3, fun f hf => ?_⟩
    rw [← hlocalQ]
    exact (h4 f hf).imp (fun ⟨x, hx, hi⟩ => ⟨x, by rw [← hport]; exact hx, hi⟩) id
  refine ⟨?_, hmgmt, r, rfl, hr, rfl, rfl, rfl, rfl, rfl, rfl, rfl, hans, fun hup => ?_⟩
  · rw [hrow]
    exact (offerLocal_departs _ _ _).trans (settle_departs _)
  · rw [hrow]
    refine (settle_departs _).answered ?_
    rw [hoff, if_pos ⟨rfl, hup⟩]
    simp

/-- The frame of such a request. -/
theorem request_plain_kept {h : Header} {kind code : Nat} {sel : Selector} {body : List Field} {op : Operation}
    {s s1 : State} {w : List Part} (hs : Steady w s.begun s1)
    (hdep : Departs s1 (rowRequest h kind code sel body op s))
    (hnotice : (rowRequest h kind code sel body op s).mgmt.notice = s.mgmt.notice)
    (hup : Part.linkUp ∉ w := by decide) : Kept (.locals :: w) s (rowRequest h kind code sel body op s) := by
  have hkept := (((ev_steady s noWork).mono (by simp)).trans hs).departs hdep (fun hl => absurd hl hup)
  intro a hw
  by_cases hn : a = .notice
  · rw [hn]; exact fun _ => hnotice
  · exact hkept a (by simpa [hn] using hw)

/-! ## CLEAR_CONDITIONS and CLEAR_RESET_CAUSE (R164, R176) -/

/-- The latches after those of a list are cleared (R164). -/
theorem foldl_clearCond (cs : List Cond) (s : State) :
    ∃ x, cs.foldl clearCond s = { s with mgmt := { s.mgmt with latches := x } }
      ∧ ∀ c, (cs.foldl clearCond s).latch c = if c ∈ cs then clearLatch else s.latch c := by
  induction cs generalizing s with
  | nil => exact ⟨s.mgmt.latches, rfl, fun c => by simp⟩
  | cons k cs ih =>
    obtain ⟨x, hx, hlatch⟩ := ih (clearCond s k)
    rw [List.foldl_cons]
    refine ⟨x, hx, fun c => ?_⟩
    have hk : (clearCond s k).latch c = if c = k then clearLatch else s.latch c := by
      show tget (tset s.mgmt.latches k.idx clearLatch) c.idx = _
      rw [tget_tset]
      by_cases hck : c = k
      · rw [if_pos (congrArg _ hck), if_pos hck]
      · rw [if_neg (fun h => hck (Cond.idx_inj h)), if_neg hck]
        rfl
    rw [hlatch, hk]
    by_cases hck : c = k
    · simp [hck]
    · simp [hck]

theorem clearCommand_named {body : List Field} {cs : List Cond} (hok : clearShape.ok body = true)
    (hc : clearedBy body = some cs) (s : State) :
    clearCommand body s = okay (fun _ => [nf 1 (latchedAmong cs s)]) (cs.foldl clearCond s) := by
  simp only [clearCommand, hc, hok, if_true]

theorem latchedAmong_eq (cs : List Cond) (s : State) :
    latchedAmong cs s = (allConds.filter fun c => decide (c ∈ cs) && (s.latch c).latched).length := by
  simp only [latchedAmong, List.contains_eq_mem]

/-- Latches cleared move no frame. -/
theorem latches_steady (s : State) (x : Vector Latch 46) :
    Steady [.latches] s { s with mgmt := { s.mgmt with latches := x } } := by
  refine ⟨fun a ha hx => ?_, rfl, fun _ => rfl, rfl⟩
  cases a <;> first
    | rfl | exact absurd hx (by decide) | exact absurd (by decide) ha | exact fun _ => rfl | exact fun _ _ => rfl
    | exact fun _ _ _ => rfl | exact fun _ => ⟨rfl, rfl⟩ | exact fun _ => ⟨rfl, rfl, rfl⟩

/-- Settles O18: the latches named are cleared, and the reset cause record is emptied. -/
theorem clearsClearWhatTheyName : Obligations.ClearsClearWhatTheyName := by
  refine ⟨fun h sel body s cs ha hk hok hc => ⟨_, rfl, ?_⟩, fun h sel s ha hk => ⟨_, rfl, ?_⟩⟩
  · obtain ⟨x, hx, hlatch⟩ := foldl_clearCond cs s.begun
    have hop := clearCommand_named hok hc s.begun
    rw [okay, hx] at hop
    obtain ⟨hdep, hmgmt, hans⟩ := request_plain (op := fun _ => clearCommand) (kind := 4) (code := 0x106) ha hk hop rfl
      rfl rfl rfl
    refine ⟨fun c => ?_, ?_, ?_⟩
    · show tget (rowRequest h 4 0x106 sel body (fun _ => clearCommand) s).mgmt.latches c.idx = _
      rw [hmgmt]
      show ({ s.begun with mgmt := { s.mgmt with latches := x } } : State).latch c = _
      rw [← hx, hlatch]
      rfl
    · exact request_plain_kept (latches_steady s.begun x) hdep (by rw [hmgmt])
    · rw [← latchedAmong_eq]
      exact hans
  · obtain ⟨hdep, hans, hkept⟩ := Steady.requestWith (op := fun _ => clearCauseCommand) (kind := 4) (code := 0x107)
      (body := []) (s1 := { s.begun with startup := { s.startup with causes := 0 } }) ha hk rfl
      (told_quiet rfl rfl rfl rfl rfl) (startup_steady s.begun _)
    exact ⟨hdep.1 .startup rfl, hkept, hans⟩

end Sys2Proof.Machine
end

section
/-!
PROOF. A notice that an event builds (R165, R166): what it says, to which ports its copies go, and the writes of STEP and
NOTICE_CONFIG, which may let a pending notice fall due (R139, R163, R165).
-/

namespace Sys2Proof.Machine

/-! ## What a notice says (R166) -/

/-- Every condition stands in the order of R162's table. -/
theorem mem_allConds (c : Cond) : c ∈ allConds := by
  unfold allConds
  simp only [List.mem_flatten, List.mem_map, List.mem_range, exists_exists_and_eq_and]
  refine ⟨c.kind.val, c.kind.isLt, ?_⟩
  cases c with
  | queueOverflow i => simp [Cond.kind, condsOfKind]
  | agedDiscard i => simp [Cond.kind, condsOfKind]
  | linkDown l => cases l <;> simp [Cond.kind, condsOfKind]
  | linkFaded l => cases l <;> simp [Cond.kind, condsOfKind]
  | linkAdmitted l => cases l <;> simp [Cond.kind, condsOfKind]
  | linkBarred l => cases l <;> simp [Cond.kind, condsOfKind]
  | stale l => cases l <;> simp [Cond.kind, condsOfKind]
  | profileUnknown l => cases l <;> simp [Cond.kind, condsOfKind]
  | qualifyDone l => cases l <;> simp [Cond.kind, condsOfKind]
  | retestFailed l => cases l <;> simp [Cond.kind, condsOfKind]
  | _ => simp [Cond.kind, condsOfKind]

/-- A record stands in the reportable list when it is that of a latched condition of a level from 1 to 3 (R166). -/
theorem mem_reportable (s : State) (y : LatchRecord) :
    y ∈ reportable s ↔ ∃ c, y = s.latchRecord c ∧ (s.latch c).latched = true ∧ 1 ≤ s.level c ∧ s.level c ≤ 3 := by
  simp only [reportable, List.mem_append, List.mem_map, List.mem_filter, Bool.and_eq_true, decide_eq_true_eq,
    mem_allConds, true_and]
  constructor
  · rintro ((⟨c, ⟨h1, h2⟩, rfl⟩ | ⟨c, ⟨h1, h2⟩, rfl⟩) | ⟨c, ⟨h1, h2⟩, rfl⟩) <;>
      exact ⟨c, rfl, h1, by omega, by omega⟩
  · rintro ⟨c, rfl, h1, h2, h3⟩
    rcases (by omega : s.level c = 3 ∨ s.level c = 2 ∨ s.level c = 1) with h | h | h
    · exact .inl (.inl ⟨c, ⟨h1, h⟩, rfl⟩)
    · exact .inl (.inr ⟨c, ⟨h1, h⟩, rfl⟩)
    · exact .inr ⟨c, ⟨h1, h⟩, rfl⟩

/-- The record of a condition in the reportable list (R166). -/
theorem latchRecord_mem_reportable (s : State) (c : Cond) :
    ({ cond := c, level := s.level c, latch := s.latch c } : LatchRecord) ∈ reportable s
      ↔ (s.latch c).latched = true ∧ 1 ≤ s.level c ∧ s.level c ≤ 3 := by
  rw [mem_reportable]
  constructor
  · rintro ⟨k, hk, h⟩
    obtain rfl : c = k := congrArg LatchRecord.cond hk
    exact h
  · exact fun h => ⟨c, rfl, h⟩

/-- The reportable list goes from level 3 down to level 1 (R166). -/
theorem reportable_sorted (s : State) : ((reportable s).map fun y => y.level).Pairwise (· ≥ ·) := by
  have hlevel : ∀ n, ∀ x ∈ ((allConds.filter fun c => (s.latch c).latched && decide (s.level c = n)).map
      s.latchRecord).map fun y => y.level, x = n := by
    intro n x hx
    simp only [List.map_map, List.mem_map, List.mem_filter, Bool.and_eq_true, decide_eq_true_eq] at hx
    obtain ⟨c, ⟨_, _, hc⟩, rfl⟩ := hx
    exact hc
  have hsame : ∀ n, ((((allConds.filter fun c => (s.latch c).latched && decide (s.level c = n)).map
      s.latchRecord).map fun y => y.level).Pairwise (· ≥ ·)) := fun n =>
    List.pairwise_of_forall_mem_list fun a ha b hb => by rw [hlevel n a ha, hlevel n b hb]
  simp only [reportable, List.map_append, List.pairwise_append]
  refine ⟨⟨hsame 3, hsame 2, fun a ha b hb => ?_⟩, hsame 1, fun a ha b hb => ?_⟩
  · rw [hlevel 3 a ha, hlevel 2 b hb]; decide
  · rw [hlevel 1 b hb]
    rcases List.mem_append.1 ha with ha | ha
    · rw [hlevel 3 a ha]; decide
    · rw [hlevel 2 a ha]; decide

/-- Some latch is reportable when the list is not empty (R166). -/
theorem reportable_isEmpty (s : State) : (reportable s).isEmpty = false ↔ Reportable s := by
  rw [List.isEmpty_eq_false_iff_exists_mem]
  constructor
  · rintro ⟨y, hy⟩
    obtain ⟨c, _, h⟩ := (mem_reportable s y).1 hy
    exact ⟨c, h⟩
  · rintro ⟨c, h⟩
    exact ⟨_, (latchRecord_mem_reportable s c).2 h⟩

/-! ## Where its copies go (R166) -/

/-- A notice destination that has no room for a copy. -/
def refusesCopy (s : State) (p : Port) : Bool := (s.cfg.ports.get p).noticeDest && !localRoom s p

theorem Port.mem_list (p : Port) : p ∈ Port.list := by
  cases p with
  | ap i => fin_cases i <;> decide
  | sp => decide
  | bh l => cases l <;> decide

theorem Port.nodup_list : Port.list.Nodup := by decide

/-- An offer to one port leaves every other port's local queue and room (R17). -/
theorem offerLocal_beside {p q : Port} {f : LocalFrame} {s : State} (h : q ≠ p) :
    (offerLocal p f s).2.localQ q = s.localQ q ∧ localRoom (offerLocal p f s).2 q = localRoom s q := by
  have hq : (offerLocal p f s).2.localQ q = s.localQ q := by
    unfold offerLocal
    split
    · show (s.queues.locals.set p _).get q = _
      rw [PerPort.get_set, if_neg h]
      rfl
    · rfl
  have hp : (offerLocal p f s).2.ports = s.ports := by unfold offerLocal; split <;> rfl
  refine ⟨hq, ?_⟩
  have hport : (offerLocal p f s).2.port q = s.port q := by unfold State.port; rw [hp]
  unfold localRoom State.placesTaken State.sendingPlace
  rw [hq, hport]

/-- What the offer of a notice does at one port (R166). -/
def offerCopy (n : Notice) (s : State) (p : Port) : State :=
  if (s.cfg.ports.get p).noticeDest then
    match offerLocal p (.notice n) s with
    | (true, s') => s'
    | (false, s') => s'.setNotice { s'.mgmt.notice with refused := s'.mgmt.notice.refused + 1 }
  else s

theorem offerCopies_eq (n : Notice) (s : State) : offerCopies n s = Port.list.foldl (offerCopy n) s := rfl

/-- One copy offered: it joins, or its refusal is counted (R166). -/
theorem offerCopy_shape (p : Port) (n : Notice) (s : State) :
    (offerCopy n s p).cfg = s.cfg
      ∧ (∀ q, q ≠ p → (offerCopy n s p).localQ q = s.localQ q ∧ localRoom (offerCopy n s p) q = localRoom s q)
      ∧ ((s.cfg.ports.get p).noticeDest = true → localRoom s p = true →
          LocalFrame.notice n ∈ (offerCopy n s p).localQ p)
      ∧ (offerCopy n s p).mgmt.notice.refused
          = s.mgmt.notice.refused + (if refusesCopy s p = true then 1 else 0) := by
  by_cases hd : (s.cfg.ports.get p).noticeDest = true
  · by_cases hr : localRoom s p = true
    · have hu : offerCopy n s p = (offerLocal p (.notice n) s).2 := by
        simp only [offerCopy, if_pos hd, offerLocal, if_pos hr]
      have hs : (offerLocal p (.notice n) s).2 = kick p (s.setLocalQ p (s.localQ p ++ [.notice n])) := by
        unfold offerLocal; rw [if_pos hr]
      refine ⟨by rw [hu, hs]; rfl, fun q hq => by rw [hu]; exact offerLocal_beside hq, fun _ _ => ?_, ?_⟩
      · rw [hu, hs]
        show _ ∈ (s.queues.locals.set p _).get p
        simp
      · rw [hu, hs]
        simp [refusesCopy, hr]
    · have hu : offerCopy n s p = s.setNotice { s.mgmt.notice with refused := s.mgmt.notice.refused + 1 } := by
        simp only [offerCopy, if_pos hd, offerLocal, if_neg hr]
      refine ⟨by rw [hu]; rfl, fun q _ => by rw [hu]; exact ⟨rfl, rfl⟩, fun _ h => absurd h hr, ?_⟩
      rw [hu]
      simp [refusesCopy, hr, hd, State.setNotice]
  · have hu : offerCopy n s p = s := if_neg hd
    exact ⟨by rw [hu], fun q _ => by rw [hu]; exact ⟨rfl, rfl⟩, fun h => absurd h hd, by simp [hu, refusesCopy, hd]⟩

/-- The copies offered at some of the ports: no other local queue changes, each destination among them with room has one,
and every other refusal is counted (R166). -/
theorem foldl_offerCopy (n : Notice) {ps : List Port} (hnd : ps.Nodup) (s : State) :
    (∀ q, q ∉ ps → (ps.foldl (offerCopy n) s).localQ q = s.localQ q)
      ∧ (∀ p ∈ ps, (s.cfg.ports.get p).noticeDest = true → localRoom s p = true →
          LocalFrame.notice n ∈ (ps.foldl (offerCopy n) s).localQ p)
      ∧ (ps.foldl (offerCopy n) s).mgmt.notice.refused
          = s.mgmt.notice.refused + BitVec.ofNat 32 (ps.filter (refusesCopy s)).length := by
  induction ps generalizing s with
  | nil => exact ⟨fun _ _ => rfl, fun p hp => absurd hp List.not_mem_nil, by simp⟩
  | cons p ps ih =>
    rw [List.nodup_cons] at hnd
    obtain ⟨hcfg, hother, hthis, href⟩ := offerCopy_shape p n s
    rw [List.foldl_cons]
    obtain ⟨k1, k2, k3⟩ := ih hnd.2 (offerCopy n s p)
    have hne : ∀ q ∈ ps, q ≠ p := fun q hq he => hnd.1 (he ▸ hq)
    refine ⟨fun q hq => ?_, fun q hq hd hr => ?_, ?_⟩
    · rw [List.mem_cons, not_or] at hq
      rw [k1 q hq.2, (hother q hq.1).1]
    · rcases List.mem_cons.1 hq with rfl | hq
      · rw [k1 q hnd.1]
        exact hthis hd hr
      · exact k2 q hq (by rw [hcfg]; exact hd) (by rw [(hother q (hne q hq)).2]; exact hr)
    · have hsame : ps.filter (refusesCopy (offerCopy n s p)) = ps.filter (refusesCopy s) :=
        List.filter_congr fun q hq => by unfold refusesCopy; rw [hcfg, (hother q (hne q hq)).2]
      rw [k3, href, hsame, List.filter_cons]
      split
      · rw [List.length_cons, BitVec.ofNat_add]
        ac_rfl
      · simp

/-- The copies of a notice: each destination with room has one, and every other refusal is counted (R166). -/
theorem offerCopies_shape (n : Notice) (s : State) :
    (∀ p, (s.cfg.ports.get p).noticeDest = true → localRoom s p = true → LocalFrame.notice n ∈ (offerCopies n s).localQ p)
      ∧ (offerCopies n s).mgmt.notice.refused
          = s.mgmt.notice.refused + BitVec.ofNat 32 (Port.list.filter (refusesCopy s)).length := by
  rw [offerCopies_eq]
  obtain ⟨_, h2, h3⟩ := foldl_offerCopy n Port.nodup_list s
  exact ⟨fun p => h2 p (Port.mem_list p), h3⟩

/-- A round with a notice built offers it first (R156). -/
theorem settleRounds_offer (n : Nat) {s : State} (h : s.ev.outbox.isEmpty = false) :
    settleRounds (n + 1) s = settleRounds n (offerNotices s) := by
  simp only [settleRounds, h, Bool.not_false, if_true]

/-- An event that calls only ports with a local frame to send, and that built one notice: the start of local frames, the
copies where there is room, and the count of the others (R165, R166). -/
theorem settle_notice {s : State} {n : Notice} (h : LocalOnly s) (ho : s.ev.outbox = [n]) :
    (∃ ports locals sched freeCount, settle s = { s with
        ports, sched, freeCount, ev := noWork, queues := { s.queues with locals }
        mgmt := { s.mgmt with notice := { s.mgmt.notice with
          refused := s.mgmt.notice.refused + BitVec.ofNat 32 (Port.list.filter (refusesCopy s)).length } } })
      ∧ ∀ p, (s.cfg.ports.get p).noticeDest = true → localRoom s p = true →
          LocalFrame.notice n ∈ (settle s).localQ p ∨ sends (settle s) p (.store (.notice n)) := by
  have hoffer : offerNotices s = offerCopies n { s with ev := { s.ev with outbox := [] } } := by
    unfold offerNotices; rw [ho, List.foldl_cons, List.foldl_nil]
  obtain ⟨hcopies, hrefused⟩ := offerCopies_shape n { s with ev := { s.ev with outbox := [] } }
  rw [← hoffer] at hcopies hrefused
  obtain ⟨hlocal, r, hstarts⟩ := offerNotices_local h
  have hround : settleRounds 64 s = settleRounds 63 (offerNotices s) := settleRounds_offer 63 (by rw [ho]; rfl)
  have hbox : (offerNotices s).ev.outbox = [] := by
    obtain ⟨_, _, _, _, _, he, hb⟩ := hstarts
    rw [he]; exact hb
  have hserved := settleRounds_local 63 hlocal hbox
  rw [← hround] at hserved
  have hboth := LocalStarts.trans hstarts hserved
  rw [hrefused] at hboth
  refine ⟨?_, fun p hd hr => ?_⟩
  · obtain ⟨ports, locals, sched, ev, freeCount, he, _⟩ := hboth
    refine ⟨ports, locals, sched, freeCount, ?_⟩
    unfold settle
    rw [he]
    rfl
  · have hleft := (settleRounds_departs 63 (offerNotices s)).answered (hcopies p hd hr)
    rw [← hround] at hleft
    exact hleft

/-- What a notice built as the last act of an event's own step says and does (R165, R166). -/
theorem noticeBuilt_settle {answers : Port → Nat} {s v u : State} (h : LocalOnly u) (ho : u.ev.outbox = [noticeNow v])
    (hcfg : u.cfg = v.cfg) (hstore : u.store = v.store) (htime : u.time = v.time) (hlinks : u.links = v.links)
    (hshare : u.share = v.share) (hlatches : u.mgmt.latches = v.mgmt.latches) (hnow : v.nowNs = s.nowNs)
    (hnotice : u.mgmt.notice = { last := some s.nowNs, pending := false, due := none, built := s.mgmt.notice.built + 1
                                 refused := s.mgmt.notice.refused })
    (hroom : ∀ p, localRoom u p = (decide (s.placesTaken p + answers p < 16) && (s.port p).linkUp)) :
    NoticeBuilt answers s (settle u) := by
  obtain ⟨⟨ports, locals, sched, freeCount, ht⟩, hcopies⟩ := settle_notice h ho
  rw [ht] at hcopies ⊢
  refine ⟨noticeNow v, ?_, ?_, ?_, ?_, hnow, ?_, fun l => ?_, fun c => ?_, reportable_sorted v, fun p hd hup hp => ?_, ?_⟩
  · show v.cfg.notice.address = u.cfg.notice.address
    rw [hcfg]
  · show v.store.runAddr = u.store.runAddr
    rw [hstore]
  · show v.store.runLabel = u.store.runLabel
    rw [hstore]
  · show (if v.time.valid = true then _ else _) = (if u.time.valid = true then _ else _)
    rw [htime]
  · show v.share.table.u = u.share.table.u
    rw [hshare]
  · simp only [State.link, hlinks]
    cases l <;> exact ⟨rfl, rfl, rfl, rfl⟩
  · have hsame : ∀ k : Cond, u.latch k = v.latch k ∧ u.level k = v.level k := fun k =>
      ⟨by unfold State.latch; rw [hlatches], by unfold State.level; rw [hcfg]⟩
    have hrec := latchRecord_mem_reportable v c
    rw [← (hsame c).1, ← (hsame c).2] at hrec
    exact hrec
  · exact hcopies p hd (by rw [hroom, hup, decide_eq_true hp]; rfl)
  · have hrefuse : refusesCopy u = fun p => (u.cfg.ports.get p).noticeDest
        && !(decide (s.placesTaken p + answers p < 16) && (s.port p).linkUp) :=
      funext fun p => by unfold refusesCopy; rw [hroom]
    simp only [hnotice, hrefuse]

/-! ## A pending notice falls due, and a new latching is judged (R165) -/

/-- A notice falls due: it is built with a reportable latch, and cleared without one (R165). -/
theorem noticeFallsDue_cases (v : State) :
    (Reportable v ∧ noticeFallsDue v = buildNotice (v.setNotice (noticeCleared v.mgmt.notice)))
      ∨ ((∀ c : Cond, (v.latch c).latched = true → 1 ≤ v.level c → ¬v.level c ≤ 3)
          ∧ noticeFallsDue v = v.setNotice (noticeCleared v.mgmt.notice)) := by
  have hrep : ((reportable (v.setNotice (noticeCleared v.mgmt.notice))).isEmpty = false) ↔ Reportable v :=
    reportable_isEmpty _
  unfold noticeFallsDue
  by_cases hr : Reportable v
  · exact .inl ⟨hr, if_neg (Bool.eq_false_iff.1 (hrep.2 hr))⟩
  · refine .inr ⟨fun c hc h1 h3 => hr ⟨c, hc, h1, h3⟩, if_pos ?_⟩
    exact Bool.eq_true_of_not_eq_false fun hf => hr (hrep.1 hf)

/-- The end of an event whose own step let the notice fall due, and then offered no more than its response. -/
theorem fallsDue_settle {answers : Port → Nat} {s v u : State} (h : LocalOnly u)
    (hu : u.cfg = v.cfg ∧ u.store = v.store ∧ u.time = v.time ∧ u.links = v.links ∧ u.share = v.share)
    (hmgmt : u.mgmt = (noticeFallsDue v).mgmt) (ho : u.ev.outbox = (noticeFallsDue v).ev.outbox) (hv : v.ev.outbox = [])
    (hnow : v.nowNs = s.nowNs) (hnotice : v.mgmt.notice.built = s.mgmt.notice.built
      ∧ v.mgmt.notice.refused = s.mgmt.notice.refused ∧ v.mgmt.notice.last = s.mgmt.notice.last)
    (hroom : ∀ p, localRoom u p = (decide (s.placesTaken p + answers p < 16) && (s.port p).linkUp)) :
    FallsDue answers s (settle u) ∧ (settle u).mgmt.latches = v.mgmt.latches ∧ (settle u).cfg = v.cfg := by
  obtain ⟨hcfg, hstore, htime, hlinks, hshare⟩ := hu
  obtain ⟨hb, hr, hl⟩ := hnotice
  have hlatches : u.mgmt.latches = v.mgmt.latches := by
    rw [hmgmt]
    rcases noticeFallsDue_cases v with ⟨_, he⟩ | ⟨_, he⟩ <;> rw [he] <;> rfl
  have hsame : ∀ {t : State}, t.mgmt.latches = v.mgmt.latches → t.cfg = v.cfg →
      ∀ c : Cond, t.latch c = v.latch c ∧ t.level c = v.level c := fun ht hc c =>
    ⟨by unfold State.latch; rw [ht], by unfold State.level; rw [hc]⟩
  rcases noticeFallsDue_cases v with ⟨⟨c, hc, h1, h3⟩, he⟩ | ⟨hnone, he⟩
  · rw [he] at hmgmt ho
    have hbox : u.ev.outbox = [noticeNow (v.setNotice (noticeCleared v.mgmt.notice))] := by
      rw [ho]
      show v.ev.outbox ++ [_] = _
      rw [hv]; rfl
    have hbuilt := noticeBuilt_settle (answers := answers) (s := s) h hbox hcfg hstore htime hlinks hshare hlatches hnow
      (by rw [hmgmt]
          show NoticeState.mk (some v.nowNs) false none (v.mgmt.notice.built + 1) v.mgmt.notice.refused = _
          rw [hnow, hb, hr]) hroom
    obtain ⟨⟨ports, locals, sched, freeCount, ht⟩, _⟩ := settle_notice h hbox
    have hlat : (settle u).mgmt.latches = v.mgmt.latches := by rw [ht]; exact hlatches
    have hconf : (settle u).cfg = v.cfg := by rw [ht]; exact hcfg
    refine ⟨⟨fun _ => hbuilt, fun hall => ?_⟩, hlat, hconf⟩
    have h0 := hall c (by rw [(hsame hlat hconf c).1]; exact hc)
    rw [(hsame hlat hconf c).2] at h0
    omega
  · rw [he] at hmgmt ho
    obtain ⟨ports, locals, sched, freeCount, ht⟩ := settle_local h (ho.trans hv)
    have hlat : (settle u).mgmt.latches = v.mgmt.latches := by rw [ht]; exact hlatches
    have hconf : (settle u).cfg = v.cfg := by rw [ht]; exact hcfg
    refine ⟨⟨fun ⟨c, hc, h1, h3⟩ => ?_, fun _ => ?_⟩, hlat, hconf⟩
    · rw [(hsame hlat hconf c).1] at hc
      rw [(hsame hlat hconf c).2] at h1 h3
      exact absurd h3 (hnone c hc h1)
    · rw [ht]
      show u.mgmt.notice = _
      rw [hmgmt]
      show NoticeState.mk v.mgmt.notice.last false none v.mgmt.notice.built v.mgmt.notice.refused = _
      rw [hb, hr, hl]
      rfl

/-- A notice that falls due writes the notice state alone. -/
theorem noticeFallsDue_steady (v : State) : Steady [] v (noticeFallsDue v) := by
  rcases noticeFallsDue_cases v with ⟨_, he⟩ | ⟨_, he⟩ <;> rw [he]
  · exact ((notice_steady v _).trans (ev_steady _ _)).trans (notice_steady _ _)
  · exact notice_steady v _

/-- The local queues after an event whose own step offered an answer and built notices of this moment (R17, R166). -/
theorem localsAre_settle {answer : Port → List LocalFrame} {s u : State} (hnow : u.nowNs = s.nowNs)
    (hq : ∀ p, u.localQ p = s.localQ p ++ answer p) (hp : ∀ p, (u.port p).tx = (s.port p).tx)
    (ho : ∀ n, n ∈ u.ev.outbox → n.elapsed = s.nowNs) : LocalsAre True answer s (settle u) := by
  intro p
  obtain ⟨ns, h1, _, h3, h4⟩ := (told_settleRounds 64 u).frames p
  refine ⟨ns, fun n hn => ?_, fun _ => trivial, ?_, fun f hf => ?_⟩
  · exact (h1 n hn).elim (ho n) fun he => he.trans hnow
  · rw [← hq]; exact h3
  · rw [← hq]
    exact (h4 f hf).imp (fun ⟨x, hx, hi⟩ => ⟨x, by rw [← hp]; exact hx, hi⟩) id

/-- The notices that a notice falling due builds are of this moment. -/
theorem noticeFallsDue_outbox (v : State) (ho : v.ev.outbox = []) (n : Notice) (hn : n ∈ (noticeFallsDue v).ev.outbox) :
    n.elapsed = v.nowNs := by
  rcases noticeFallsDue_cases v with ⟨_, he⟩ | ⟨_, he⟩ <;> rw [he] at hn
  · change n ∈ v.ev.outbox ++ [noticeNow _] at hn
    rw [ho, List.nil_append, List.mem_singleton] at hn
    rw [hn]
    rfl
  · change n ∈ v.ev.outbox at hn
    rw [ho] at hn
    exact absurd hn List.not_mem_nil

/-- A notice falling due calls no arbiter and leaves all but the notice state and the notices built. -/
theorem noticeFallsDue_shape (v : State) :
    ∃ n o, noticeFallsDue v = { v with mgmt := { v.mgmt with notice := n }, ev := { v.ev with outbox := o } } := by
  rcases noticeFallsDue_cases v with ⟨_, he⟩ | ⟨_, he⟩ <;> rw [he]
  · exact ⟨_, _, rfl⟩
  · exact ⟨_, v.ev.outbox, rfl⟩

/-- R165: the command of a pending notice that falls due. -/
theorem noticeDue_fallsDue {s : State} {x : Ns} (hp : s.mgmt.notice.pending = true) (hx : s.mgmt.notice.due = some x)
    (hr : reachedNs s.nowNs x = true) :
    ∃ t, exec .noticeDue s = .next t ∧ Kept [.notice, .locals] s t
      ∧ t.mgmt.latches = s.mgmt.latches ∧ LocalsAre True (fun _ => []) s t ∧ FallsDue (fun _ => 0) s t := by
  have hdue : noticeIsDue s = true := by simp only [noticeIsDue, hx, hp, hr]; rfl
  obtain ⟨n, o, he⟩ := noticeFallsDue_shape s.begun
  have hlocal : LocalOnly (noticeFallsDue s.begun) := by
    rw [he]
    exact localOnly_noWork (s := s.begun) rfl
  have hbox := noticeFallsDue_outbox s.begun rfl
  refine ⟨_, show execNoticeDue s = _ from if_pos hdue, ?_⟩
  show _ ∧ _ ∧ LocalsAre True _ s (settle (noticeFallsDue s.begun)) ∧ _
  obtain ⟨hfalls, hlat, _⟩ := fallsDue_settle (answers := fun _ => 0) (s := s) (v := s.begun) hlocal
    (by rw [he]; exact ⟨rfl, rfl, rfl, rfl, rfl⟩) rfl rfl rfl rfl ⟨rfl, rfl, rfl⟩ (fun p => by rw [he]; rfl)
  refine ⟨?_, hlat, localsAre_settle (by rw [he]; rfl) (fun p => by rw [he]; simp [State.localQ])
    (fun p => by rw [he]; rfl) hbox, hfalls⟩
  have hkept := (((ev_steady s noWork)).trans (noticeFallsDue_steady s.begun)).departs (settle_departs _) (by decide)
  exact hkept

end Sys2Proof.Machine
end

section
/-!
PROOF. The writes of STEP and NOTICE_CONFIG (R139, R163, R165), and what a new latching does (R162, R165).
-/

namespace Sys2Proof.Machine

/-! ## A response offered in an event whose operation moved no frame -/

/-- The response joins its port's local queue, where that port's link is up, and takes a place there (R17, R158). -/
theorem offerFrame_response {p : Port} {r : Response} {s u : State} (hplace : s.placesTaken p < 16) (hq : u.queues = s.queues)
    (hp : u.ports = s.ports) :
    let answers : Port → Nat := fun q => if q = p ∧ (s.port q).linkUp = true then 1 else 0
    let v := offerFrame p (.response r) u
    (∀ q, v.localQ q = s.localQ q ++ (if q = p ∧ (s.port q).linkUp = true then [LocalFrame.response r] else []))
      ∧ (∀ q, localRoom v q = (decide (s.placesTaken q + answers q < 16) && (s.port q).linkUp))
      ∧ (∃ locals ev, v = { u with queues := { u.queues with locals }, ev } ∧ ev.outbox = u.ev.outbox) := by
  intro answers v
  have hlocalQ : ∀ q, u.localQ q = s.localQ q := fun q => by unfold State.localQ; rw [hq]
  have hport : ∀ q, u.port q = s.port q := fun q => by unfold State.port; rw [hp]
  have hroom : localRoom u p = (s.port p).linkUp := by
    simp [localRoom, placesTaken_congr (hlocalQ p) (by rw [hport]), hport, hplace]
  have hshape : ∃ locals ev, v = { u with queues := { u.queues with locals }, ev } ∧ ev.outbox = u.ev.outbox := by
    simp only [v, offerFrame, offerLocal]
    split
    · exact ⟨_, _, rfl, rfl⟩
    · exact ⟨_, _, rfl, rfl⟩
  have hoff : ∀ q, v.localQ q
      = s.localQ q ++ (if q = p ∧ (s.port q).linkUp = true then [LocalFrame.response r] else []) := by
    intro q
    rw [← hlocalQ]
    simp only [v, offerFrame, offerLocal, hroom]
    by_cases hup : (s.port p).linkUp = true
    · rw [if_pos hup]
      by_cases hpe : q = p
      · subst hpe; simp [hup, State.localQ, State.setLocalQ, kick]
      · simp [hpe, State.localQ, State.setLocalQ, kick, PerPort.get_set]
    · rw [if_neg hup]
      have : ¬(q = p ∧ (s.port q).linkUp = true) := fun ⟨a, b⟩ => hup (a ▸ b)
      simp [this]
  refine ⟨hoff, fun q => ?_, hshape⟩
  have hvport : v.port q = s.port q := by
    obtain ⟨_, _, he, _⟩ := hshape
    rw [he]; exact hport q
  have hplaces : v.placesTaken q = s.placesTaken q + answers q := by
    simp only [State.placesTaken, State.sendingPlace, hoff, hvport, List.length_append, answers]
    split
    · simp; omega
    · simp
  rw [localRoom, hplaces, hvport]

/-! ## The writes of STEP and NOTICE_CONFIG (R139, R163) -/

/-- The state in which the retaken due time of a pending notice is judged (R165). -/
def retaken (c : Classes) (s : State) : State :=
  ({ s with cfg := c } : State).setNotice { s.mgmt.notice with due := noticeDueAt { s with cfg := c } }

/-- What a NOTICE_CONFIG write leaves (R163, R165). -/
theorem noticeClassWrite_named {body : List Field} {s : State}
    (hok : noticeWriteOk body = true) (hs : saveRuns s = false) :
    let c := { s.cfg with notice := noticeWritten body s.cfg.notice }
    noticeClassWrite body s = okay noticeItems
      (if (bytes? body 25).isSome = true ∧ s.mgmt.notice.pending = true then
        if intervalPassed (retaken c s) = true then noticeFallsDue (retaken c s) else retaken c s
       else { s with cfg := c }) := by
  intro c
  have happly : applyNotice body s = if (bytes? body 25).isSome = true ∧ s.mgmt.notice.pending = true then
        if intervalPassed (retaken c s) = true then noticeFallsDue (retaken c s) else retaken c s
      else { s with cfg := c } := by
    unfold applyNotice
    by_cases hb : (bytes? body 25).isSome = true
    · rw [if_pos hb]
      by_cases hp : s.mgmt.notice.pending = true
      · rw [if_pos ⟨hb, hp⟩]
        exact if_pos hp
      · rw [if_neg fun h : _ ∧ _ => hp h.2]
        exact if_neg hp
    · rw [if_neg hb, if_neg fun h : _ ∧ _ => hb h.1]
      rfl
  rw [← happly]
  exact checked_passes hok hs _

/-- A NOTICE_CONFIG write with which the pending notice falls due (R165). -/
theorem noticeWrite_fallsDue {h : Header} {sel : Selector} {body : List Field} {op : Operation} {s : State} {c : Classes}
    (ha : Accepts h s) (hk : sel.kind.toNat ≤ 3)
    (hop : op sel body s.begun = okay noticeItems (noticeFallsDue (retaken c s.begun))) :
    let t := rowRequest h 2 15 sel body op s
    t.cfg = c ∧ t.mgmt.latches = s.mgmt.latches ∧ Kept [.locals, .config, .notice] s t
      ∧ FallsDue (fun p => if p = h.port ∧ (s.port p).linkUp = true then 1 else 0) s t
      ∧ ∃ items, RespondedWith True h 2 15 sel .ok items s t := by
  intro t
  obtain ⟨n, o, he⟩ := noticeFallsDue_shape (retaken c s.begun)
  have hrow : t = settle _ := rowRequest_accepted (kind := 2) (code := 15) ha hk rfl hop
  generalize hr : responseTo h _ _ _ = r at hrow
  obtain ⟨hoff, hroom, locals, ev, hshape, hbox⟩ :=
    offerFrame_response (r := r) (u := noticeFallsDue (retaken c s.begun)) ha.2.2 (by rw [he]; rfl) (by rw [he]; rfl)
  have hlocal : LocalOnly (offerFrame h.port (.response r) (noticeFallsDue (retaken c s.begun))) := by
    refine (offerLocal_local _ _ ?_).1
    rw [he]
    exact localOnly_noWork (s := s.begun) rfl
  obtain ⟨hfalls, hlat, hcfg⟩ := fallsDue_settle (s := s) (v := retaken c s.begun) hlocal
    (by rw [hshape, he]; exact ⟨rfl, rfl, rfl, rfl, rfl⟩) (by rw [hshape]) (by rw [hshape]; exact hbox) rfl rfl
    ⟨rfl, rfl, rfl⟩ hroom
  have hdep : Departs (noticeFallsDue (retaken c s.begun)) t := by
    rw [hrow]
    exact (offerLocal_departs _ _ _).trans (settle_departs _)
  have hsteady : Steady [.config] s (noticeFallsDue (retaken c s.begun)) :=
    ((((ev_steady s noWork).mono (by simp)).trans (cfg_steady _ c)).trans ((notice_steady _ _).mono (by simp))).trans
      ((noticeFallsDue_steady _).mono (by simp))
  rw [hrow]
  refine ⟨hcfg, hlat, ?_, hfalls, r.body, r, ?_⟩
  · rw [← hrow]
    intro a hn
    exact hsteady.departs hdep (by decide) a (by simp only [List.mem_cons, List.not_mem_nil, or_false, not_or] at hn ⊢
                                                 exact ⟨hn.2.2, hn.1, hn.2.1⟩)
  · have hstore : (noticeFallsDue (retaken c s.begun)).store = s.store := by rw [he]; rfl
    have hlocals := localsAre_settle (s := s) (u := offerFrame h.port (.response r) (noticeFallsDue (retaken c s.begun)))
      (by rw [hshape, he]; rfl) hoff (fun p => by rw [hshape, he]; rfl)
      (fun x hx => noticeFallsDue_outbox (retaken c s.begun) rfl x (by rw [hshape, hbox] at hx; exact hx))
    subst hr
    refine ⟨rfl, ?_, rfl, rfl, rfl, rfl, rfl, rfl, rfl, hlocals, fun hup => ?_⟩
    · show (noticeFallsDue (retaken c s.begun)).store.runAddr = _
      rw [hstore]
    · refine (settle_departs _).answered ?_
      rw [hoff, if_pos ⟨rfl, hup⟩]
      simp

/-- A NOTICE_CONFIG write that retakes the due time of a notice which stays pending (R165). -/
theorem noticeWrite_retaken {h : Header} {sel : Selector} {body : List Field} {op : Operation} {s : State} {c : Classes}
    (ha : Accepts h s) (hk : sel.kind.toNat ≤ 3) (hop : op sel body s.begun = okay noticeItems (retaken c s.begun)) :
    let t := rowRequest h 2 15 sel body op s
    t.cfg = c ∧ t.mgmt = (retaken c s.begun).mgmt ∧ Kept [.locals, .config, .notice] s t ∧ Answered h 2 15 sel .ok s t := by
  intro t
  obtain ⟨hdep, hmgmt, hans⟩ := request_plain (s1 := retaken c s.begun) (kind := 2) (code := 15) ha hk hop rfl rfl rfl rfl
  have hsteady : Steady [.config] s (retaken c s.begun) :=
    (((ev_steady s noWork).mono (by simp)).trans (cfg_steady _ c)).trans ((notice_steady _ _).mono (by simp))
  refine ⟨hdep.1 .config rfl, hmgmt, fun a hn => ?_, _, hans⟩
  exact hsteady.departs hdep (by decide) a (by simp only [List.mem_cons, List.not_mem_nil, or_false, not_or] at hn ⊢
                                               exact ⟨hn.2.2, hn.1, hn.2.1⟩)

/-- The interval has passed since a notice. -/
theorem intervalPassed_retaken {c : Classes} {s : State} {x : Ns} (hx : s.mgmt.notice.last = some x) :
    intervalPassed (retaken c s.begun) = true ↔ c.notice.interval * 1000000 ≤ (s.nowNs - x).toNat := by
  show (match s.mgmt.notice.last with | none => true | some t => _) = true ↔ _
  rw [hx]
  exact decide_eq_true_iff

/-- Settles O2: a write of the running classes alone, and where the interval moves a pending notice, its due time judged
anew. -/
theorem stepAndNoticeWritesReplaceTheirRecords : Obligations.StepAndNoticeWritesReplaceTheirRecords := by
  refine ⟨fun h sel body s i ha hi hok hs => ⟨_, rfl, ?_⟩, fun h sel body s ha hk hok hs => ⟨_, rfl, ?_⟩⟩
  · obtain ⟨hcfg, hmgmt, hkept, hans⟩ := request_writes (op := stepClassWrite) (kind := 2) (code := 8) ha (selIndex_kind hi)
      (stepClassWrite_named (s := s.begun) hi hok hs)
    exact ⟨hcfg, hmgmt, hkept, _, hans⟩
  · have hop := noticeClassWrite_named (s := s.begun) hok hs
    simp only at hop
    by_cases hdue : (bytes? body 25).isSome = true ∧ s.mgmt.notice.pending = true
    · rw [if_pos (show _ ∧ s.begun.mgmt.notice.pending = true from hdue)] at hop
      have hno : ¬((bytes? body 25).isSome = false ∨ s.mgmt.notice.pending = false) := by simp [hdue]
      split at hop
      · next hpass =>
        obtain ⟨hcfg, hlat, hkept, hfalls, hresp⟩ := noticeWrite_fallsDue (sel := sel) (op := fun _ => noticeClassWrite) ha hk hop
        refine ⟨hcfg, hlat, hkept, fun hx => absurd hx hno, fun x _ _ hx => ?_⟩
        rw [if_pos (by rw [hcfg]; exact (intervalPassed_retaken hx).1 hpass)]
        exact ⟨hfalls, hresp⟩
      · next hpass =>
        obtain ⟨hcfg, hmgmt, hkept, hans⟩ := noticeWrite_retaken (sel := sel) (op := fun _ => noticeClassWrite) ha hk hop
        refine ⟨hcfg, by rw [hmgmt]; rfl, hkept, fun hx => absurd hx hno, fun x _ _ hx => ?_⟩
        rw [if_neg (by rw [hcfg]; exact fun hle => hpass ((intervalPassed_retaken hx).2 hle))]
        refine ⟨?_, hans⟩
        rw [hmgmt, hcfg]
        have hnext : noticeDueAt ({ s with cfg := { s.cfg with notice := noticeWritten body s.cfg.notice } } : State)
            = some (x + BitVec.ofNat 64 ((noticeWritten body s.cfg.notice).interval * 1000000)) := by
          show s.mgmt.notice.last.map _ = _
          rw [hx]
          rfl
        exact congrArg (fun due => { s.mgmt.notice with due }) hnext
    · rw [if_neg (show ¬(_ ∧ s.begun.mgmt.notice.pending = true) from hdue)] at hop
      obtain ⟨hcfg, hmgmt, hkept, hans⟩ := request_writes (sel := sel) (op := fun _ => noticeClassWrite)
        (kind := 2) (code := 15) ha hk hop
      refine ⟨hcfg, by rw [hmgmt], hkept.mono (by simp), fun _ => ⟨by rw [hmgmt], _, hans⟩, fun x hb hp _ => ?_⟩
      exact absurd ⟨hb, hp⟩ hdue

/-! ## What a new latching does (R162, R165) -/

/-- A latched latch, or a condition of level 0, changes neither the notice state nor what the event has built. -/
theorem raise_silent {c : Cond} {s : State} (d : Option Nat) (h : (s.latch c).latched = true ∨ s.level c = 0) :
    raise c d s
      = { s with mgmt := { s.mgmt with latches := tset s.mgmt.latches c.idx ((s.latch c).occur s.nowNs d) } } := by
  refine if_neg ?_
  rcases h with h | h <;> simp [h]

/-- The state in which a new latching is judged: its latch is set, and nothing else (R162). -/
def latchSet (c : Cond) (d : Option Nat) (s : State) : State :=
  { s with mgmt := { s.mgmt with latches := tset s.mgmt.latches c.idx ((s.latch c).occur s.nowNs d) } }

/-- A new latching of a level above 0 is judged (R165). -/
theorem raise_judges {c : Cond} {s : State} (d : Option Nat) (h : (s.latch c).latched = false) (hl : 1 ≤ s.level c) :
    raise c d s = judgeLatching (s.level c) (latchSet c d s) := by
  refine if_pos ?_
  simp [h, hl]

/-- The interval has passed since the last notice, or there was none. -/
theorem intervalPassed_iff (s : State) : intervalPassed s = true ↔
    ∀ x, s.mgmt.notice.last = some x → s.cfg.notice.interval * 1000000 ≤ (s.nowNs - x).toNat := by
  unfold intervalPassed
  cases s.mgmt.notice.last with
  | none => simp
  | some x =>
    refine decide_eq_true_iff.trans ⟨fun h y hy => ?_, fun h => h x rfl⟩
    cases hy
    exact h

/-- In RUNNING and FAULT a new latching builds a notice at once, sets the pending flag, or leaves it set (R165). -/
theorem judgeLatching_running {n : Nat} {s : State} (h : s.startup.state = .running ∨ s.startup.state = .fault) :
    judgeLatching n s =
      if n = 3 ∨ (∀ x, s.mgmt.notice.last = some x → s.cfg.notice.interval * 1000000 ≤ (s.nowNs - x).toNat) then
        buildNotice s
      else s.setNotice (if s.mgmt.notice.pending = true then s.mgmt.notice else { s.mgmt.notice with
        pending := true
        due := s.mgmt.notice.last.map fun x => x + BitVec.ofNat 64 (s.cfg.notice.interval * 1000000) }) := by
  have hj : judgeLatching n s = if n = 3 || intervalPassed s then buildNotice s
      else if s.mgmt.notice.pending then s
      else s.setNotice { s.mgmt.notice with pending := true, due := noticeDueAt s } := by
    unfold judgeLatching
    rcases h with h | h <;> rw [h]
  rw [hj]
  simp only [Bool.or_eq_true, decide_eq_true_eq, intervalPassed_iff]
  split
  · rfl
  · split
    · rfl
    · rfl

/-- In CHECKING and LOADING a new latching sets the pending flag (R165). -/
theorem judgeLatching_starting {n : Nat} {s : State} (h : s.startup.state = .checking ∨ s.startup.state = .loading) :
    judgeLatching n s = s.setNotice { s.mgmt.notice with pending := true } := by
  unfold judgeLatching
  rcases h with h | h <;> rw [h]

theorem localOnly_uncalled {s : State} (h : s.ev.kick = noWork.kick) : LocalOnly s := fun p hp => by
  rw [h] at hp
  exact localOnly_noWork (s := { s with ev := noWork }) rfl p hp

/-- A new latching as the last act of an event's own step in RUNNING (R165). -/
theorem latchingJudged_settle {c : Cond} {d : Option Nat} {s v : State} (hev : v.ev = noWork)
    (hrun : v.startup.state = .running) (hcfg : v.cfg = s.cfg) (hmgmt : v.mgmt = s.mgmt) (hnow : v.nowNs = s.nowNs)
    (hq : v.queues = s.queues) (hp : v.ports = s.ports) (hnew : (s.latch c).latched = false) (hl : 1 ≤ s.level c) :
    LatchingJudged c (fun _ => 0) s (settle (raise c d v)) := by
  have hlatch : v.latch c = s.latch c := by unfold State.latch; rw [hmgmt]
  have hlevel : v.level c = s.level c := by unfold State.level; rw [hcfg]
  rw [raise_judges d (by rw [hlatch]; exact hnew) (by rw [hlevel]; exact hl), hlevel,
    judgeLatching_running (s := latchSet c d v) (.inl hrun)]
  have hmn : (latchSet c d v).mgmt.notice = s.mgmt.notice  := by
    show v.mgmt.notice = _
    rw [hmgmt]
  have hcn : (latchSet c d v).cfg = s.cfg := hcfg
  have hnn : (latchSet c d v).nowNs = s.nowNs := hnow
  rw [hmn, hcn, hnn]
  unfold LatchingJudged
  split
  · refine noticeBuilt_settle (v := latchSet c d v) (localOnly_uncalled (by show v.ev.kick = _; rw [hev])) ?_ rfl rfl rfl rfl rfl rfl
      hnow ?_ fun p => ?_
    · show v.ev.outbox ++ [_] = _
      rw [hev]; rfl
    · show NoticeState.mk (some v.nowNs) false none (v.mgmt.notice.built + 1) v.mgmt.notice.refused = _
      rw [hnow, hmgmt]
    · show localRoom v p = _
      unfold localRoom State.placesTaken State.sendingPlace State.localQ State.port
      rw [hq, hp, Nat.add_zero]
  · obtain ⟨_, _, _, _, ht⟩ := settle_local (s := (latchSet c d v).setNotice _) (localOnly_uncalled (by show v.ev.kick = _; rw [hev]))
      (by show v.ev.outbox = _; rw [hev]; rfl)
    rw [ht]
    split
    · rfl
    · rfl

/-- Settles O49, by the command of a pending notice and by the judging of one latching. -/
theorem pendingNoticesFallDue : Obligations.PendingNoticesFallDue := by
  refine ⟨fun s x hp hx => ⟨fun hr => ?_, noticeDue_fallsDue hp hx⟩, fun lowNs s r hrun hlow hr hout =>
    ⟨_, execPpsEdge_taken hrun hlow, ?_⟩, fun c d s => ?_⟩
  · refine if_neg (c := noticeIsDue s = true) ?_
    simp [noticeIsDue, hx, hr]
  · have hop : takeEdge s.begun = rejectEdge s.begun := by
      refine if_neg fun h => hout ?_
      have hin := (edgeAccepted_iff _ _).1 h
      rw [show s.begun.time.servo.reference = some r from hr] at hin
      exact hin r rfl
    show if _ then LatchingJudged _ _ s (settle (takeEdge s.begun)) else (settle (takeEdge s.begun)).mgmt.notice = _
    rw [hop]
    split
    · next h => exact latchingJudged_settle rfl hrun rfl rfl rfl rfl rfl h.1 h.2
    · next h =>
      have hsilent := raise_silent (c := .ppsRejected) none
        (s := updServo (fun v => { v with rejected := v.rejected + 1 }) s.begun) (by
          rw [not_and_or] at h
          exact h.imp (fun h => Bool.eq_true_of_not_eq_false h) fun h => Nat.lt_one_iff.1 (Nat.lt_of_not_le h))
      rw [rejectEdge, hsilent]
      obtain ⟨_, _, _, _, ht⟩ := settle_local (s := latchSet .ppsRejected none
        (updServo (fun v => { v with rejected := v.rejected + 1 }) s.begun)) (localOnly_uncalled rfl) rfl
      show (settle (latchSet .ppsRejected none _)).mgmt.notice = _
      rw [ht]
      rfl
  · refine ⟨raise_latch_same c d s, fun k hk => raise_latch_other c k d s hk, fun h => ?_, fun hnew hl => ⟨fun hrun => ?_,
      fun hstart => ?_⟩⟩
    · simp only [raise_silent d h, and_self]
    · have hraise : raise c d s =
          if s.level c = 3 ∨ (∀ x, s.mgmt.notice.last = some x → s.cfg.notice.interval * 1000000 ≤ (s.nowNs - x).toNat) then
            buildNotice (latchSet c d s)
          else (latchSet c d s).setNotice _ :=
        (raise_judges d hnew hl).trans (judgeLatching_running (s := latchSet c d s) hrun)
      simp only [hraise]
      split
      · exact ⟨rfl, _, rfl, rfl⟩
      · exact ⟨rfl, rfl⟩
    · simp only [raise_judges d hnew hl, judgeLatching_starting (s := latchSet c d s) hstart]
      exact ⟨rfl, rfl⟩

end Sys2Proof.Machine
end

section
/-!
PROOF. Requests: a refused request changes nothing (R161), every row is a request at the gate of the start-up state (R6,
R157), and a received request frame is its row (R159, R160).
-/

namespace Sys2Proof.Machine

/-! ## A refused request changes no state (R161) -/

/-- An outcome with any status but OK and ACCEPTED leaves the state that it found. -/
def RefusalKeeps (x : Reply × State) (s : State) : Prop := x.1.status ≠ .ok → x.1.status ≠ .accepted → x.2 = s

theorem refusalKeeps_same (r : Reply) (s : State) : RefusalKeeps (r, s) s := fun _ _ => rfl

theorem refusalKeeps_refuse (st : Status) (s : State) : RefusalKeeps (refuse st s) s := refusalKeeps_same _ s

theorem refusalKeeps_okay (items : State → List Item) (t s : State) : RefusalKeeps (okay items t) s :=
  fun h => absurd rfl h

theorem RefusalKeeps.ite {c : Prop} [Decidable c] {x y : Reply × State} {s : State} (hx : RefusalKeeps x s)
    (hy : RefusalKeeps y s) : RefusalKeeps (if c then x else y) s := by split <;> assumption

theorem RefusalKeeps.checked {f : State → Reply × State} {s : State} (valid : Bool) (h : RefusalKeeps (f s) s) :
    RefusalKeeps (checked valid f s) s :=
  .ite (refusalKeeps_refuse _ s) (.ite (refusalKeeps_refuse _ s) h)

/-- What a store command leaves when it is refused (R169). -/
theorem refusalKeeps_storeCommand (body : List Field) (f : State → Status × State) (s : State) :
    RefusalKeeps (storeCommand body f s) s := by
  refine .ite (refusalKeeps_refuse _ s) ?_
  obtain ⟨st, s1⟩ := f (updStore (fun x => { x with times := timesWritten body x.times }) s)
  cases st with
  | accepted => exact fun _ h => absurd rfl h
  | ok => exact refusalKeeps_okay _ _ s
  | _ => exact refusalKeeps_refuse _ s

/-! ### READ -/

/-- A READ of a class is a read of items, a refusal, or a READ of the Flow Table or the schedule (R159). -/
theorem readClass_cases (P : (State → Reply × State) → Prop) (hread : ∀ items, P (read items)) (hrefuse : P (refuse .invalidValue))
    (hflow : ∀ n, P (readFlow n)) (hschedule : ∀ n, P (readSchedule n)) (code : Nat) (sel : Selector) :
    P (readClass code sel) := by
  have hnamed : ∀ {α : Type} (name : Option α) (f : α → State → Reply × State), (∀ x, P (f x)) → P (readNamed name f) := by
    intro α name f hf
    cases name with
    | none => exact hrefuse
    | some x => exact hf x
  unfold readClass
  split
  case h_2 => exact hnamed _ _ hflow
  case h_11 => exact hnamed _ _ hschedule
  case h_4 =>
    split
    · exact hread _
    · exact hnamed _ _ fun _ => hread _
  case h_19 => exact hrefuse
  all_goals first
    | exact hread _
    | exact hnamed _ _ fun _ => hread _

theorem readRequest_cases (P : (State → Reply × State) → Prop) (hread : ∀ items, P (read items)) (hrefuse : P (refuse .invalidValue))
    (hflow : ∀ n, P (readFlow n)) (hschedule : ∀ n, P (readSchedule n)) (code : Nat) (sel : Selector) (body : List Field) :
    P (readRequest code sel body) := by
  unfold readRequest
  split
  · exact readClass_cases P hread hrefuse hflow hschedule code sel
  · exact hrefuse

/-- A READ changes nothing (R159). -/
theorem readRequest_state (code : Nat) (sel : Selector) (body : List Field) (s : State) :
    (readRequest code sel body s).2 = s := by
  refine readRequest_cases (fun f => (f s).2 = s) (fun _ => rfl) rfl (fun n => ?_) (fun n => ?_) code sel body
  · unfold readFlow
    split <;> rfl
  · unfold readSchedule
    split <;> rfl

/-- A READ has nothing to do after its response. -/
theorem readRequest_after (code : Nat) (sel : Selector) (body : List Field) (s : State) :
    (readRequest code sel body s).1 = { status := (readRequest code sel body s).1.status
                                        body := (readRequest code sel body s).1.body, after := .nothing } := by
  have hafter : (readRequest code sel body s).1.after = .nothing := by
    refine readRequest_cases (fun f => (f s).1.after = .nothing) (fun _ => rfl) rfl (fun n => ?_) (fun n => ?_) code sel body
    · unfold readFlow
      split <;> rfl
    · unfold readSchedule
      split <;> rfl
  generalize (readRequest code sel body s).1 = x at hafter
  obtain ⟨st, items, after⟩ := x
  exact congrArg _ hafter

/-- What a READ answers does not depend on the work of the event. -/
theorem readClass_begun (code : Nat) (sel : Selector) (s : State) :
    (readClass code sel s.begun).1 = (readClass code sel s).1 := by
  have hnamed : ∀ {α : Type} (name : Option α) (f : α → State → Reply × State), (∀ x, (f x s.begun).1 = (f x s).1) →
      (readNamed name f s.begun).1 = (readNamed name f s).1 := by
    intro α name f hf
    cases name with
    | none => rfl
    | some x => exact hf x
  unfold readClass
  split
  case h_2 =>
    refine hnamed _ _ fun x => ?_
    have hfound : namedFlow x s.begun = namedFlow x s := by cases x <;> rfl
    unfold readFlow
    rw [hfound]
    split <;> rfl
  case h_11 =>
    refine hnamed _ _ fun x => ?_
    show (readSchedule x s.begun).1 = (readSchedule x s).1
    unfold readSchedule
    split <;> (rename_i h; rw [show (namedEntry x s.cfg.schedule).bind _ = _ from h]) <;> rfl
  case h_4 =>
    split
    · rfl
    · exact hnamed _ _ fun _ => rfl
  all_goals first
    | rfl
    | exact hnamed _ _ fun _ => rfl

theorem readRequest_begun (code : Nat) (sel : Selector) (body : List Field) (s : State) :
    (readRequest code sel body s.begun).1 = (readRequest code sel body s).1 := by
  unfold readRequest
  split
  · exact readClass_begun code sel s
  · rfl

/-! ### WRITE and DELETE -/

theorem refusalKeeps_placeFlow (x : FlowSpec) (s : State) : RefusalKeeps (placeFlow x s) s := by
  unfold placeFlow
  split
  · split
    · exact refusalKeeps_refuse _ s
    · exact refusalKeeps_okay _ _ s
  · exact .ite (refusalKeeps_refuse _ s) (refusalKeeps_okay _ _ s)

theorem refusalKeeps_deleteFlow (n : FlowName) (s : State) : RefusalKeeps (deleteFlow n s) s := by
  unfold deleteFlow
  split
  · exact refusalKeeps_refuse _ s
  · exact .ite (refusalKeeps_refuse _ s) (refusalKeeps_okay _ _ s)

theorem refusalKeeps_placeScheduled (e : ScheduleEntry) (s : State) : RefusalKeeps (placeScheduled e s) s :=
  .ite (refusalKeeps_refuse _ s) (.ite (refusalKeeps_refuse _ s) (.ite (refusalKeeps_refuse _ s) (refusalKeeps_okay _ _ s)))

theorem refusalKeeps_deleteScheduled (n : EntryName) (s : State) : RefusalKeeps (deleteScheduled n s) s := by
  unfold deleteScheduled
  split
  · exact refusalKeeps_refuse _ s
  · split
    · exact refusalKeeps_refuse _ s
    · exact refusalKeeps_okay _ _ s

theorem refusalKeeps_shareClassWrite (sel : Selector) (body : List Field) (s : State) :
    RefusalKeeps (shareClassWrite sel body s) s := by
  refine .ite (.checked _ (refusalKeeps_okay _ _ s)) ?_
  split
  · exact refusalKeeps_refuse _ s
  · exact .checked _ (.ite (refusalKeeps_okay _ _ s) (refusalKeeps_refuse _ s))

theorem refusalKeeps_writeRequest (code : Nat) (sel : Selector) (body : List Field) (s : State) :
    RefusalKeeps (writeRequest code sel body s) s := by
  unfold writeRequest
  split
  · unfold portClassWrite
    split
    · exact refusalKeeps_refuse _ s
    · exact .checked _ (.ite (refusalKeeps_okay _ _ s) (refusalKeeps_refuse _ s))
  · unfold flowClassWrite
    split
    · exact refusalKeeps_refuse _ s
    · exact .checked _ (refusalKeeps_placeFlow _ s)
  · unfold tenantClassWrite
    split
    · exact refusalKeeps_refuse _ s
    · exact .checked _ (.ite (refusalKeeps_refuse _ s) (refusalKeeps_okay _ _ s))
  · exact refusalKeeps_shareClassWrite sel body s
  · unfold linkClassWrite
    split
    · exact refusalKeeps_refuse _ s
    · exact .checked _ (refusalKeeps_okay _ _ s)
  · unfold profileClassWrite
    split
    · exact refusalKeeps_refuse _ s
    · exact .checked _ (refusalKeeps_okay _ _ s)
  · unfold stepClassWrite
    split
    · exact refusalKeeps_refuse _ s
    · exact .checked _ (refusalKeeps_okay _ _ s)
  · unfold scheduleClassWrite
    split
    · exact refusalKeeps_refuse _ s
    · exact .checked _ (refusalKeeps_placeScheduled _ s)
  · exact .checked _ (refusalKeeps_okay _ _ s)
  · unfold pulseClassWrite
    split
    · exact refusalKeeps_refuse _ s
    · exact .checked _ (refusalKeeps_okay _ _ s)
  · exact .checked _ (refusalKeeps_okay _ _ s)
  · exact refusalKeeps_refuse _ s

theorem refusalKeeps_deleteRequest (code : Nat) (sel : Selector) (body : List Field) (s : State) :
    RefusalKeeps (deleteRequest code sel body s) s := by
  unfold deleteRequest
  split
  · unfold flowClassDelete
    split
    · exact refusalKeeps_refuse _ s
    · exact .checked _ (refusalKeeps_deleteFlow _ s)
  · unfold scheduleClassDelete
    split
    · exact refusalKeeps_refuse _ s
    · exact .checked _ (refusalKeeps_deleteScheduled _ s)
  · exact refusalKeeps_refuse _ s

/-! ### COMMAND -/

/-- A command on a link keeps the state when it is refused (R55 to R57). -/
theorem refusalKeeps_onLink (f : Link → State → Status × State) (body : List Field) (s : State)
    (hf : ∀ l, (f l s).1 ≠ .ok → (f l s).2 = s) :
    RefusalKeeps (match commandLink body with
      | none => refuse .invalidValue s
      | some l => answer (f l s)) s := by
  split
  · exact refusalKeeps_refuse _ s
  · exact fun h _ => hf _ h

theorem retestLink_refused (l : Link) (s : State) (h : (retestLink l s).1 ≠ .ok) : (retestLink l s).2 = s := by
  unfold retestLink at h ⊢
  split <;> split at h <;> first | rfl | (split <;> simp_all)

theorem admitBarred_refused (l : Link) (s : State) (h : (admitBarred l s).1 ≠ .ok) : (admitBarred l s).2 = s := by
  unfold admitBarred at h ⊢
  split
  · next hc => rw [if_pos hc] at h; exact absurd rfl h
  · rfl

theorem stopLink_refused (l : Link) (s : State) (h : (stopLink l s).1 ≠ .ok) : (stopLink l s).2 = s := by
  unfold stopLink at h ⊢
  split
  · next hc =>
    rw [if_pos hc] at h
    split <;> simp_all
  · rfl

/-- A store command refused for its form, or run. -/
theorem refusalKeeps_onSlot (f : Fin 4 → State → Status × State) (body : List Field) (s : State) :
    RefusalKeeps (match commandSlot body with
      | none => refuse .invalidValue s
      | some k => storeCommand body (f k) s) s := by
  split
  · exact refusalKeeps_refuse _ s
  · exact refusalKeeps_storeCommand _ _ s

theorem refusalKeeps_restartReply (a : After) (body : List Field) (s : State) : RefusalKeeps (restartReply a body s) s :=
  .ite (refusalKeeps_same _ s) (refusalKeeps_refuse _ s)

theorem refusalKeeps_restartCommand (body : List Field) (s : State) : RefusalKeeps (restartCommand body s) s := by
  refine .ite ?_ (refusalKeeps_refuse _ s)
  split
  · exact refusalKeeps_restartReply _ _ s
  · exact refusalKeeps_restartReply _ _ s
  · exact refusalKeeps_refuse _ s

theorem refusalKeeps_commandRequest (code : Nat) (body : List Field) (s : State) :
    RefusalKeeps (commandRequest code body s) s := by
  unfold commandRequest
  split
  · unfold activateCommand
    split
    · exact refusalKeeps_refuse _ s
    · exact .checked _ (.ite (refusalKeeps_okay _ _ s) (refusalKeeps_okay _ _ s))
  · unfold setTimeCommand
    split
    · exact .ite (refusalKeeps_okay _ _ s) (refusalKeeps_refuse _ s)
    · exact refusalKeeps_refuse _ s
  · exact refusalKeeps_onLink retestLink body s fun l => retestLink_refused l s
  · exact refusalKeeps_onLink admitBarred body s fun l => admitBarred_refused l s
  · exact refusalKeeps_onLink stopLink body s fun l => stopLink_refused l s
  · unfold clearCommand
    split
    · exact .ite (refusalKeeps_okay _ _ s) (refusalKeeps_refuse _ s)
    · exact refusalKeeps_refuse _ s
  · exact .ite (refusalKeeps_okay _ _ s) (refusalKeeps_refuse _ s)
  · exact refusalKeeps_onSlot _ body s
  · exact refusalKeeps_onSlot _ body s
  · exact refusalKeeps_onSlot _ body s
  · exact refusalKeeps_onSlot _ body s
  · unfold writeInfoCommand
    split
    · exact refusalKeeps_refuse _ s
    · exact refusalKeeps_storeCommand _ _ s
  · exact .ite (refusalKeeps_storeCommand _ _ s) (refusalKeeps_refuse _ s)
  · exact refusalKeeps_restartCommand body s
  · exact refusalKeeps_refuse _ s

/-- Settles O23, by the kind of the request. -/
theorem refusedRequestsChangeNothing : Obligations.RefusedRequestsChangeNothing := by
  intro kind code sel body s
  show RefusalKeeps (requestByKind kind code sel body s) s
  unfold requestByKind
  split
  · exact fun _ _ => readRequest_state code sel body s
  · exact refusalKeeps_writeRequest code sel body s
  · exact refusalKeeps_deleteRequest code sel body s
  · exact refusalKeeps_commandRequest code body s
  · exact refusalKeeps_refuse _ s

/-! ## What a port counts (R3) -/

/-- One counter stepped. -/
theorem count_counted (p : Port) (c : PortCounter) (n : Nat) (s : State) : Counted [(p, c, n)] s (count p c n s) := by
  intro q k _
  by_cases hq : q = p
  · subst hq
    simp only [count, State.port_setPort, tget_tset, List.filter_cons, List.filter_nil, true_and]
    by_cases hk : k = c
    · subst hk; simp
    · rw [if_neg (fun h => hk (PortCounter.idx_inj h)), if_neg (by simpa using fun h => hk h.symm)]
      simp
  · rw [count, State.port_setPort_ne _ _ _ _ hq, List.filter_cons, if_neg (by simpa using fun h => absurd h.symm hq)]
    simp

theorem Counted.refl (s : State) : Counted [] s s := fun q c _ => by simp

theorem Counted.trans {a b : List (Port × PortCounter × Nat)} {s t u : State} (h : Counted a s t) (k : Counted b t u) :
    Counted (a ++ b) s u := by
  intro q c hc
  rw [k q c hc, h q c hc, List.filter_append, List.map_append, List.sum_append, BitVec.ofNat_add, BitVec.add_assoc]

/-- Nothing else was counted where the counters are kept. -/
theorem Counted.kept {a : List (Port × PortCounter × Nat)} {s t u : State} (h : Counted a s t)
    (k : Part.counters.kept t u) : Counted a s u := fun q c hc => (k q c hc).trans (h q c hc)

theorem Counted.departs {a : List (Port × PortCounter × Nat)} {s t u : State} (h : Counted a s t) (k : Departs t u) :
    Counted a s u := h.kept (k.1 .counters rfl)

/-! ## The gate of a request (R6, R157, R175) -/

/-- A row that is a management request is one at the gate, with the kind, the code and the selector that it names. -/
theorem exec_request {c : Instr} {h : Header} (hc : requestHeader c = some h) (s : State) :
    ∃ kind code sel body op, requestNames c = some (kind, code, sel)
      ∧ exec c s = .next (rowRequest h kind code sel body op s)
      ∧ (isRestart c = false → faultAllows { kind, code, sel, body := some body } = false) := by
  cases c <;> cases hc <;> exact ⟨_, _, _, _, _, rfl, rfl, fun h => by first | rfl | cases h⟩

/-- A request discarded on a port without management permitted (R157). -/
theorem refused_event (h : Header) (r : Request) (op : Operation) (s : State) (hrun : s.startup.state = .running)
    (hm : (s.cfg.ports.get h.port).mgmt = false) :
    let t := event (gateRequest h true r op) s
    Counted [(h.port, .mgmtRefusals, 1)] s t
      ∧ t.latch .mgmtRefused = (s.latch .mgmtRefused).occur s.nowNs (some (codeOf h.port))
      ∧ LatchesKept [.mgmtRefused] s t ∧ Kept [.counters, .latches] s t := by
  intro t
  have hop : gateRequest h true r op s.begun
      = raise .mgmtRefused (some (codeOf h.port)) (count h.port .mgmtRefusals 1 s.begun) := by
    simp [gateRequest, hrun, acceptRequest, hm, refuseRequest]
  have hdep : Departs (gateRequest h true r op s.begun) t := event_departs _ _
  have hcount : Counted [(h.port, .mgmtRefusals, 1)] s (gateRequest h true r op s.begun) := by
    rw [hop]
    exact ((count_counted h.port .mgmtRefusals 1 s.begun)).kept ((raise_steady _ _ _).kept .counters (by decide) rfl)
  have hlatches : ∀ k : Cond, k.ofDeparture = false → t.latch k = _ := hdep.1 .latches rfl
  refine ⟨hcount.departs hdep, ?_, fun k hk hd => ?_, Steady.event ?_ ?_⟩
  · rw [hlatches _ rfl, hop, raise_latch_same]; rfl
  · rw [hlatches k hd, hop, raise_latch_other _ _ _ _ (by simpa using hk)]; rfl
  · show Steady _ s.begun (gateRequest h true r op s.begun)
    rw [hop]
    exact ((count_steady _ _ _ _).mono (by simp)).trans ((raise_steady _ _ _).mono (by simp))
  · show Told s.begun (gateRequest h true r op s.begun)
    rw [hop]
    exact (told_count _ _ _ _).trans (told_raise _ _ _)

/-- An event whose own step is one count. -/
theorem count_event {f : State → State} {s : State} (p : Port) (c : PortCounter) (n : Nat)
    (hop : f s.begun = count p c n s.begun) : Counted [(p, c, n)] s (event f s) ∧ Kept [.counters] s (event f s) := by
  have hdep : Departs (f s.begun) (event f s) := event_departs _ _
  have hcount : Counted [(p, c, n)] s (f s.begun) := by rw [hop]; exact count_counted p c n s.begun
  refine ⟨hcount.departs hdep, Steady.event ?_ ?_⟩
  · show Steady _ s.begun (f s.begun)
    rw [hop]; exact count_steady _ _ _ _
  · show Told s.begun (f s.begun)
    rw [hop]; exact told_count _ _ _ _

/-- A request answered FAULT (R175). -/
theorem faulted_event {h : Header} {kind code : Nat} {sel : Selector} {body : List Field} {op : Operation} {s : State}
    (hfault : s.startup.state = .fault) (hp : h.port = .sp) (hm : (s.cfg.ports.get h.port).mgmt = true)
    (hplace : s.placesTaken h.port < 16) (hallow : faultAllows { kind, code, sel, body := some body } = false) :
    let t := rowRequest h kind code sel body op s
    t.mgmt = s.mgmt ∧ Kept [.locals] s t ∧ AnsweredWith h kind code sel .fault [] s t := by
  intro t
  let r := responseTo h { kind, code, sel, body := some body } { status := .fault, body := [], after := .nothing } s.begun
  have hrow : t = settle (offerFrame h.port (.response r) s.begun) := by
    have hplace' : ¬16 ≤ s.begun.placesTaken h.port := by
      show ¬16 ≤ s.placesTaken h.port
      omega
    have hgate : gateRequest h true { kind, code, sel, body := some body } op s.begun
        = execute h { kind, code, sel, body := some body } op s.begun := by
      simp only [gateRequest, hfault, hp, if_true, acceptRequest]
      rw [← hp]
      simp [hm, hplace']
    show settle (gateRequest h true _ op s.begun) = _
    rw [hgate]
    simp [execute, executed, hfault, hallow, refuse, finishRestart, r]
  obtain ⟨hoff, _, locals, ev, hshape, hbox⟩ := offerFrame_response (r := r) (u := s.begun) hplace rfl rfl
  obtain ⟨_, _, _, _, hlocal⟩ := settle_local (s := offerFrame h.port (.response r) s.begun)
    (offerLocal_local _ _ (localOnly_noWork rfl)).1 (by rw [hshape]; exact hbox)
  have hmgmt : t.mgmt = s.mgmt := by rw [hrow, hlocal, hshape]
  have hdep : Departs s.begun t := by
    rw [hrow]; exact (offerLocal_departs _ _ _).trans (settle_departs _)
  refine ⟨hmgmt, fun a ha => ?_, r, rfl, rfl, rfl, rfl, rfl, rfl, rfl, rfl, rfl, fun p => ?_, fun hup => ?_⟩
  · by_cases hn : a = .notice
    · subst hn; exact fun _ => by rw [hmgmt]
    · exact (ev_steady s noWork).departs hdep (by decide) a (by simpa [hn] using ha)
  · obtain ⟨ns, h1, h2, h3, h4⟩ := (told_settleRounds 64 (offerFrame h.port (.response r) s.begun)).frames p
    have hnone : ns = [] := by
      by_contra hne
      rcases h2 hne with ⟨c, hc1, hc2⟩ | hbox'
      · have hsame : (settle (offerFrame h.port (.response r) s.begun)).latch c
            = (offerFrame h.port (.response r) s.begun).latch c := by
          unfold State.latch
          rw [← hrow, hmgmt, hshape]
        have hc3 : ((settle (offerFrame h.port (.response r) s.begun)).latch c).latched = true := hc2
        rw [hsame, hc1] at hc3
        cases hc3
      · exact hbox' (by rw [hshape]; exact hbox)
    rw [hnone, hoff] at h3 h4
    refine ⟨[], by simp, by simp, by rw [hrow]; exact h3, fun f hf => ?_⟩
    rw [hrow] at hf
    exact (h4 f hf).imp (fun ⟨x, hx, hi⟩ => ⟨x, by rw [hshape] at hx; exact hx, hi⟩) id
  · rw [hrow]
    refine (settle_departs _).answered ?_
    rw [hoff, if_pos ⟨rfl, hup⟩]
    simp

/-- Settles O24, by the row as a request at the gate and the start-up state. -/
theorem requestsOutsideRunningAndRefused : Obligations.RequestsOutsideRunningAndRefused := by
  refine ⟨fun c h s hc => ?_, fun c h s hc hfault => ?_⟩ <;>
    obtain ⟨kind, code, sel, body, op, hnames, hexec, hallow⟩ := exec_request hc s
  · refine ⟨fun hrun hm => ⟨_, hexec, ?_⟩, fun hrun hm hfull => ⟨_, hexec, ?_⟩, fun hstart => ⟨_, hexec, ?_⟩⟩
    · exact refused_event h _ op s hrun hm
    · refine count_event h.port .mgmtRefusals 1 ?_
      have hfull' : 16 ≤ s.begun.placesTaken h.port := hfull
      simp [gateRequest, hrun, acceptRequest, hm, hfull', refuseRequest]
    · refine count_event h.port .notRunning 1 ?_
      rcases hstart with hstart | hstart <;> simp [gateRequest, hstart]
  · refine ⟨fun hp hr hm hplace => ⟨_, kind, code, sel, hnames, hexec, ?_⟩, fun hp => ⟨_, hexec, ?_⟩⟩
    · exact faulted_event hfault hp hm hplace (hallow hr)
    · refine count_event h.port .notRunning 1 ?_
      simp [gateRequest, hfault, hp]

/-! ## A frame received (R5, R6) -/

/-- A reception that has ended: the frame is counted with its bytes (R5). -/
def recorded (p : Port) (bytes : List Byte) (s : State) : State :=
  count p .bytesReceived bytes.length (count p .framesReceived 1 (s.setPort p { s.port p with rx := none }))

theorem recorded_steady (p : Port) (bytes : List Byte) (s : State) :
    Steady [.reception, .counters] s (recorded p bytes s) :=
  (((setRx_steady p none s).mono (by simp)).trans ((count_steady _ _ _ _).mono (by simp))).trans
    ((count_steady _ _ _ _).mono (by simp))

theorem told_recorded (p : Port) (bytes : List Byte) (s : State) : Told s (recorded p bytes s) :=
  Told.trans (Told.trans (told_still (t := s.setPort p { s.port p with rx := none }) rfl rfl rfl (fun _ => rfl)
      (setRx_steady p none s).tx)
    (told_count p .framesReceived 1 (s.setPort p { s.port p with rx := none }))) (told_count p .bytesReceived bytes.length _)

theorem recorded_counted (p : Port) (bytes : List Byte) (s : State) :
    Counted [(p, .framesReceived, 1), (p, .bytesReceived, bytes.length)] s (recorded p bytes s) := by
  have hrx : Counted [] s (s.setPort p { s.port p with rx := none }) :=
    (Counted.refl s).kept ((setRx_steady p none s).kept .counters (by decide) rfl)
  exact (hrx.trans (count_counted p .framesReceived 1 _)).trans (count_counted p .bytesReceived bytes.length _)

theorem recorded_over (p : Port) (bytes : List Byte) (s : State) : ReceptionOver p s (recorded p bytes s) := by
  intro q
  have h2 := (count_steady p .bytesReceived bytes.length
    (count p .framesReceived 1 (s.setPort p { s.port p with rx := none }))).kept .reception (by decide) rfl q
  have h1 := (count_steady p .framesReceived 1 (s.setPort p { s.port p with rx := none })).kept .reception (by decide) rfl q
  rw [recorded, h2, h1]
  show ((s.ports.set p _).get q).rx = _
  rw [PerPort.get_set]
  split <;> rfl

theorem recorded_shape (p : Port) (bytes : List Byte) (s : State) :
    recorded p bytes s = { s with ports := (recorded p bytes s).ports } := rfl

/-- A frame that passes the three checks in RUNNING comes to the first stage (R5 to R7). -/
theorem receptionEnds_reaches {p : Port} {stamp : Instant} {bytes : List Byte} {s : State} (h : Reaches p bytes s) :
    receptionEnds p stamp bytes s = firstStage p stamp bytes (recorded p bytes s) := by
  obtain ⟨hlen, hfcs, htag, hrun⟩ := h
  have hlen' : lengthOk p bytes (recorded p bytes s) = true := hlen
  have hrun' : (recorded p bytes s).startup.state = .running := hrun
  have hgate : gateFrame p stamp bytes (recorded p bytes s) = firstStage p stamp bytes (recorded p bytes s) := by
    simp [gateFrame, hrun']
  rw [← hgate, receptionEnds, if_neg (by rw [hrun]; decide)]
  show checkFrame p stamp bytes (recorded p bytes s) = _
  simp [checkFrame, hlen', hfcs, htag]

/-- The event of a frame whose reception was under way. -/
theorem frameReceived_event {p : Port} {bytes : List Byte} {s : State} {stamp : Instant} (hrx : (s.port p).rx = some stamp) :
    exec (.frameReceived p bytes) s = .next (event (receptionEnds p stamp bytes) s) := by
  show execFrameReceived p bytes s = _
  unfold execFrameReceived
  rw [hrx]

/-- A request frame for the device, with its header whole, is a request at the gate on the state that its reception has
left (R7, R157). -/
theorem requestFrame_event {p : Port} {bytes : List Byte} {s : State} {stamp : Instant} {body : List Field}
    (hrx : (s.port p).rx = some stamp) (hreach : Reaches p bytes s) (hreq : isRequest bytes = true)
    (hdst : dstOf bytes = s.store.runAddr) (hhead : headerComplete bytes = true)
    (hbody : (parseRequest (payload bytes)).body = some body) :
    let r := parseRequest (payload bytes)
    exec (.frameReceived p bytes) s
      = .next (rowRequest (headerOf p bytes) r.kind r.code r.sel body (requestByKind r.kind r.code) (recorded p bytes s)) := by
  intro r
  rw [frameReceived_event hrx]
  congr 1
  have hrun : (recorded p bytes s.begun).startup.state = .running := hreach.2.2.2
  have hr : r = { kind := r.kind, code := r.code, sel := r.sel, body := some body } := by
    rw [← hbody]
  have hop : receptionEnds p stamp bytes s.begun
      = gateRequest (headerOf p bytes) true { kind := r.kind, code := r.code, sel := r.sel, body := some body }
          (requestByKind r.kind r.code) (recorded p bytes s.begun) := by
    have hfirst : firstStage p stamp bytes (recorded p bytes s.begun) = requestFrame p bytes (recorded p bytes s.begun) :=
      if_pos hreq
    have hframe : requestFrame p bytes (recorded p bytes s.begun)
        = acceptRequest (headerOf p bytes) (headerComplete bytes) r (requestByKind r.kind r.code) (recorded p bytes s.begun) :=
      if_pos hdst
    rw [receptionEnds_reaches (s := s.begun) hreach, hfirst, hframe, ← hr, hhead]
    simp only [gateRequest, hrun]
  show settle (receptionEnds p stamp bytes s.begun) = settle (gateRequest _ _ _ _ (recorded p bytes s.begun))
  rw [hop]

/-- A request at the gate depends on its operation only through what it does with the selector and the body. -/
theorem rowRequest_congr {h : Header} {kind code : Nat} {sel : Selector} {body : List Field} {op op' : Operation}
    (ho : op sel body = op' sel body) (s : State) :
    rowRequest h kind code sel body op s = rowRequest h kind code sel body op' s := by
  have hperform : perform { kind, code, sel, body := some body } op = perform { kind, code, sel, body := some body } op' := by
    funext u
    simp only [perform, ho]
  unfold rowRequest gateRequest acceptRequest execute executed
  rw [hperform]

/-- A row does with the body what the dispatch of a request frame does (R159, R160, 12.5). -/
theorem exec_rowOf {h : Header} {kind code : Nat} {sel : Selector} {body : List Field} {c : Instr}
    (hc : rowOf h kind code sel body = some c) (s : State) :
    exec c s = .next (rowRequest h kind code sel body (requestByKind kind code) s) := by
  unfold rowOf at hc
  split at hc
  case h_4 =>
    cases hc
    by_cases hp : namesParams sel = true
    · rw [if_pos hp]
      obtain rfl : sel = paramSelector := of_decide_eq_true hp
      refine congrArg Host.Outcome.next (rowRequest_congr ?_ s)
      funext u
      show paramClassWrite body u = shareClassWrite paramSelector body u
      rw [shareClassWrite, if_pos hp]
    · rw [if_neg hp]
      rfl
  case h_27 =>
    split at hc
    · split at hc
      · next hf => cases hc; rw [hf]; rfl
      · split at hc
        · next hf => cases hc; rw [hf]; rfl
        · cases hc
    · cases hc
  all_goals cases hc <;> rfl

/-- Settles O25: the frame's own count, and then the request at the gate, which is its row, or a READ that answers. -/
theorem requestFrameIsItsRow : Obligations.RequestFrameIsItsRow := by
  refine ⟨fun p bytes s stamp body c hrx hreach hreq hdst hhead hbody hrow => ?_,
    fun p bytes s stamp body hrx hreach hreq hdst hhead hbody hread hsel hm hplace => ?_⟩ <;>
    have hexec := requestFrame_event hrx hreach hreq hdst hhead hbody
  · exact ⟨recorded p bytes s, ⟨_, hexec, exec_rowOf hrow _⟩, recorded_shape p bytes s, recorded_over p bytes s,
      (recorded_steady p bytes s).kept .linkUp (by decide) rfl, (recorded_steady p bytes s).tx, recorded_counted p bytes s⟩
  · intro r
    have hacc : Accepts (headerOf p bytes) (recorded p bytes s) := by
      refine ⟨hreach.2.2.2, hm, ?_⟩
      have hsame : (recorded p bytes s).placesTaken p = s.placesTaken p :=
        placesTaken_congr rfl ((recorded_steady p bytes s).tx p)
      exact hsame ▸ hplace
    have hop : requestByKind r.kind r.code r.sel body (recorded p bytes s).begun
        = ((readRequest r.code r.sel body (recorded p bytes s)).1, (recorded p bytes s).begun) := by
      rw [hread]
      exact Prod.ext (readRequest_begun _ _ _ _) (readRequest_state _ _ _ _)
    obtain ⟨_, hmgmt, hans⟩ := request_plain (s1 := (recorded p bytes s).begun) (kind := r.kind) (code := r.code) hacc hsel
      (hop.trans (by rw [readRequest_after])) rfl rfl rfl rfl
    obtain ⟨hkept, _⟩ := request_answers (kind := r.kind) (code := r.code) hacc hsel (hop.trans (by rw [readRequest_after]))
    refine ⟨recorded p bytes s, _, hexec, recorded_shape p bytes s, recorded_over p bytes s,
      (recorded_steady p bytes s).kept .linkUp (by decide) rfl, (recorded_steady p bytes s).tx, recorded_counted p bytes s,
      ?_, hmgmt, hkept⟩
    rw [show r.kind = 1 from hread] at hans ⊢
    exact hans

end Sys2Proof.Machine
end

section
/-!
PROOF. Frames received: the discards (R5 to R10), the queues that a frame joins (R9, R10, R13), and the returns (R149).
-/

namespace Sys2Proof.Machine

/-! ## What an operation writes, whether it moves frames or not -/

/-- Only the written parts changed; nothing is said of the traffic and the reports. -/
def Writes (w : List Part) (s t : State) : Prop := ∀ a : Part, a ∉ w → a.moves = false → a.kept s t

theorem Steady.writes {w : List Part} {s t : State} (h : Steady w s t) : Writes w s t := h.kept

theorem Writes.trans {w : List Part} {s t u : State} (h : Writes w s t) (k : Writes w t u) : Writes w s u :=
  fun a ha hx => Part.kept_trans hx (h a ha hx) (k a ha hx)

theorem Writes.mono {w v : List Part} {s t : State} (h : Writes w s t) (hv : ∀ a ∈ w, a ∈ v) : Writes v s t :=
  fun a ha hx => h a (fun hw => ha (hv a hw)) hx

/-- The queues and the free cells are the traffic. -/
theorem traffic_writes (s : State) (q : QueueSet) (free : List Nat) (ev : EventWork) :
    Writes [.traffic] s { s with queues := q, pool := { s.pool with free }, ev } := by
  intro a ha hx
  cases a <;> first
    | rfl | exact absurd hx (by decide) | exact absurd (by decide) ha
    | exact fun _ => rfl | exact fun _ _ => rfl | exact fun _ _ _ => rfl | exact fun _ => ⟨rfl, rfl⟩
    | exact fun _ => ⟨rfl, rfl, rfl⟩

/-- One tenant's counts replaced (R14, R60). -/
theorem setTenant_steady (i : Tenant) (u : TenantUnit) (s : State) (ha : u.allocation = (s.tenant i).allocation) :
    Steady [.demand, .tallies] s (s.setTenant i u) := by
  refine ⟨fun a hw hx => ?_, rfl, fun _ => rfl, rfl⟩
  cases a <;> first
    | rfl | exact absurd hx (by decide) | exact absurd (by decide) hw
    | exact fun _ => rfl | exact fun _ _ => rfl | exact fun _ _ _ => rfl | exact fun _ => ⟨rfl, rfl⟩
    | (intro k
       show (tget (tset s.tenants i u) k).allocation = _
       rw [tget_tset]
       split
       · next hk => rw [hk]; exact ha
       · rfl)

/-! ## The event of a frame -/

/-- A frame that its operation takes from its reception to u: what follows are departures. -/
theorem frame_event {w : List Part} {steps : List (Port × PortCounter × Nat)} {p : Port} {bytes : List Byte} {s u : State}
    {stamp : Instant} (hrx : (s.port p).rx = some stamp) (hop : receptionEnds p stamp bytes s.begun = u)
    (hw : Writes w (recorded p bytes s.begun) u) (ht : Told (recorded p bytes s.begun) u)
    (hl : u.queues.locals = s.queues.locals) (hx : ∀ q, (u.port q).tx = (s.port q).tx)
    (hc : Counted steps (recorded p bytes s.begun) u) (htraffic : .traffic ∈ w ∨ TrafficKept s u)
    (hrec : Part.reception ∉ w := by decide) (hup : Part.linkUp ∉ w := by decide) :
    ∃ t, exec (.frameReceived p bytes) s = .next t ∧ ReceptionOver p s t
      ∧ Counted ([(p, .framesReceived, 1), (p, .bytesReceived, bytes.length)] ++ steps) s t
      ∧ Departs u t ∧ Kept (.reception :: .counters :: w) s t := by
  subst hop
  have hdep : Departs (receptionEnds p stamp bytes s.begun) (event (receptionEnds p stamp bytes) s) := event_departs _ _
  have hall : Writes (.reception :: .counters :: w) s (receptionEnds p stamp bytes s.begun) :=
    (((ev_steady s noWork).writes.mono (by simp)).trans ((recorded_steady p bytes s.begun).writes.mono (by simp))).trans
      (hw.mono (by simp +contextual))
  refine ⟨_, frameReceived_event hrx, fun q => ?_, ?_, hdep, ?_⟩
  · rw [hdep.1 .reception rfl q, hw .reception hrec rfl q]
    exact recorded_over p bytes s.begun q
  · have hsum : Counted ([(p, .framesReceived, 1), (p, .bytesReceived, bytes.length)] ++ steps) s.begun
        (receptionEnds p stamp bytes s.begun) := (recorded_counted p bytes s.begun).trans hc
    exact hsum.departs hdep
  · have htold : Told s.begun (receptionEnds p stamp bytes s.begun) := (told_recorded p bytes s.begun).trans ht
    refine Kept.event (fun a ha => ?_) htold (fun q => ?_) fun q g ⟨x, hx', hi⟩ => ⟨x, by rw [hx] at hx'; exact hx', hi⟩
    · rcases Part.traffic_or ha with rfl | hmoves
      · have hnot : Part.traffic ∉ w := fun h => ha (by simp [h])
        refine (htraffic.resolve_left hnot).trans (fun q => ?_) hdep
        exact Part.kept_trans (a := .linkUp) rfl ((recorded_steady p bytes s.begun).kept .linkUp (by decide) rfl)
          (hw .linkUp hup rfl) q
      · refine Part.kept_trans hmoves (hall a (fun h => ha (by simp only [List.mem_cons] at h ⊢; tauto)) hmoves)
          (hdep.1 a hmoves)
    · show (receptionEnds p stamp bytes s.begun).queues.locals.get q <:+ s.queues.locals.get q
      rw [hl]

/-- The event of a frame that moves no other. -/
theorem frame_event_steady {w : List Part} {steps : List (Port × PortCounter × Nat)} {p : Port} {bytes : List Byte}
    {s u : State} {stamp : Instant} (hrx : (s.port p).rx = some stamp) (hop : receptionEnds p stamp bytes s.begun = u)
    (hw : Steady w (recorded p bytes s.begun) u) (ht : Told (recorded p bytes s.begun) u)
    (hc : Counted steps (recorded p bytes s.begun) u)
    (hrec : Part.reception ∉ w := by decide) (hup : Part.linkUp ∉ w := by decide) :
    ∃ t, exec (.frameReceived p bytes) s = .next t ∧ ReceptionOver p s t
      ∧ Counted ([(p, .framesReceived, 1), (p, .bytesReceived, bytes.length)] ++ steps) s t
      ∧ Departs u t ∧ Kept (.reception :: .counters :: w) s t := by
  have htx : ∀ q, (u.port q).tx = (s.port q).tx := fun q => (hw.tx q).trans ((recorded_steady p bytes s.begun).tx q)
  exact frame_event hrx hop hw.writes ht (by rw [hw.queues]; rfl) htx hc
    (.inr (TrafficKept.of_eq (by rw [hw.queues]; rfl) htx (by rw [hw.free]; rfl))) hrec hup

/-! ## The frames that a check, the start-up state or the first stage discards (R5 to R7, R10) -/

/-- The one discard of such a frame. -/
theorem receptionEnds_discard {p : Port} {stamp : Instant} {bytes : List Byte} {s : State} {c : PortCounter}
    (h : discardCounter p bytes s = some c) : receptionEnds p stamp bytes s = count p c 1 (recorded p bytes s) := by
  unfold discardCounter at h
  have hlen : lengthOk p bytes (recorded p bytes s) = lengthOk p bytes s := rfl
  have hstate : (recorded p bytes s).startup.state = s.startup.state := rfl
  have hdst : (recorded p bytes s).store.runAddr = s.store.runAddr := rfl
  split at h
  · cases h
  · next hreset =>
    rw [receptionEnds, if_neg hreset]
    show checkFrame p stamp bytes (recorded p bytes s) = _
    unfold checkFrame
    split at h
    · next h1 => cases h; rw [if_pos (by rw [hlen, h1]; rfl)]
    · next h1 =>
      rw [if_neg (by rw [hlen]; simpa using h1)]
      split at h
      · next h2 => cases h; rw [if_pos (by rw [h2]; rfl)]
      · next h2 =>
        rw [if_neg (by simpa using h2)]
        split at h
        · next h3 => cases h; rw [if_pos (by rw [h3]; rfl)]
        · next h3 =>
          rw [if_neg (by simpa using h3)]
          unfold gateFrame
          split at h
          · cases h
          · next hs => cases h; rw [hstate, hs]
          · next hs => cases h; rw [hstate, hs]
          · next hs =>
            rw [hstate, hs]
            simp only
            split at h
            · next h4 =>
              split at h
              · cases h
              · next h5 => cases h; rw [if_pos h4]; exact if_neg h5
            · next h4 => cases h; exact if_neg h4
          · next hs =>
            rw [hstate, hs]
            simp only
            unfold firstStage
            split at h
            · next h4 =>
              split at h
              · cases h
              · next h5 => cases h; rw [if_pos h4]; exact if_neg h5
            · next h4 =>
              rw [if_neg h4]
              split at h
              · next h5 =>
                rw [if_pos h5]
                split at h
                · cases h
                · next h6 => cases h; cases p with
                  | bh l => exact absurd rfl h6
                  | _ => rfl
              · next h5 =>
                rw [if_neg h5]
                split at h
                · next h6 =>
                  cases h
                  obtain ⟨hback, hnone⟩ := h6
                  have hfind : findKey (frameKey p bytes) (recorded p bytes s).flows = none := Option.isNone_iff_eq_none.1 hnone
                  cases p with
                  | bh l => simp only [classify, lookup, hfind, downstream]
                  | _ => cases hback
                · cases h

/-! ## The second stage (R8 to R10) -/

/-- A frame that reaches the second stage. -/
theorem receptionEnds_classified {p : Port} {stamp : Instant} {bytes : List Byte} {s : State} (h : Classified p bytes s) :
    receptionEnds p stamp bytes s = classify p stamp bytes (recorded p bytes s) := by
  obtain ⟨hreach, hreq, hnote⟩ := h
  rw [receptionEnds_reaches hreach]
  unfold firstStage
  rw [if_neg (by simp [hreq]), if_neg (by simp [hnote])]

/-- The state after the lookup (R8, R28). -/
def looked (p : Port) (bytes : List Byte) (s : State) : State :=
  { recorded p bytes s with flows := hitFlows p bytes s }

theorem lookup_recorded (p : Port) (bytes : List Byte) (s : State) :
    lookup (frameKey p bytes) (recorded p bytes s) = (findKey (frameKey p bytes) s.flows, looked p bytes s) := by
  unfold lookup looked hitFlows
  show (match findKey (frameKey p bytes) s.flows with | none => _ | some (slot, e) => _) = _
  cases findKey (frameKey p bytes) s.flows with
  | none => rfl
  | some x => rfl

theorem looked_steady (p : Port) (bytes : List Byte) (s : State) : Steady [.flows] (recorded p bytes s) (looked p bytes s) :=
  flows_steady _ _

theorem told_looked (p : Port) (bytes : List Byte) (s : State) : Told (recorded p bytes s) (looked p bytes s) :=
  told_still rfl rfl rfl (fun _ => rfl) fun _ => rfl

theorem looked_counted (p : Port) (bytes : List Byte) (s : State) : Counted [] (recorded p bytes s) (looked p bytes s) :=
  (Counted.refl _).kept ((looked_steady p bytes s).kept .counters (by decide) rfl)

/-- The Flow Table of an event that writes no more of it than the lookup. -/
theorem flows_looked {p : Port} {bytes : List Byte} {s u t : State} (hf : u.flows = hitFlows p bytes s) (hd : Departs u t) :
    t.flows.map withoutLastLink = (hitFlows p bytes s).map withoutLastLink :=
  (hd.1 .flows rfl : _ = _).trans (by rw [hf])

theorem classify_upstream {p : Port} {stamp : Instant} {bytes : List Byte} {s : State} (hp : roleOf p ≠ .backhaul) :
    classify p stamp bytes (recorded p bytes s)
      = upstream p stamp bytes (findKey (frameKey p bytes) s.flows) (looked p bytes s) := by
  unfold classify
  rw [lookup_recorded]
  cases p with
  | bh l => exact absurd rfl hp
  | _ => rfl

theorem classify_downstream {l : Link} {stamp : Instant} {bytes : List Byte} {s : State} :
    classify (.bh l) stamp bytes (recorded (.bh l) bytes s)
      = downstream l stamp bytes (findKey (frameKey (.bh l) bytes) s.flows) (looked (.bh l) bytes s) := by
  unfold classify
  rw [lookup_recorded]

/-- A frame discarded after its lookup. -/
theorem looked_discard {p q : Port} {c : PortCounter} {bytes : List Byte} {s : State} {stamp : Instant}
    (hrx : (s.port p).rx = some stamp)
    (hop : receptionEnds p stamp bytes s.begun = count q c 1 (looked p bytes s.begun)) :
    ∃ t, exec (.frameReceived p bytes) s = .next t ∧ ReceptionOver p s t
      ∧ t.flows.map withoutLastLink = (hitFlows p bytes s).map withoutLastLink
      ∧ Counted [(p, .framesReceived, 1), (p, .bytesReceived, bytes.length), (q, c, 1)] s t
      ∧ Kept [.reception, .counters, .flows] s t := by
  obtain ⟨t, hexec, hover, hcount, hdep, hkept⟩ := frame_event_steady (w := [.flows, .counters]) hrx hop
    (((looked_steady p bytes s.begun).mono (by simp)).trans ((count_steady q c 1 _).mono (by simp)))
    ((told_looked p bytes s.begun).trans (told_count q c 1 _)) ((looked_counted p bytes s.begun).trans (count_counted q c 1 _))
  exact ⟨t, hexec, hover, flows_looked (s := s) rfl hdep, hcount, hkept.mono (by simp)⟩

/-- Settles O27, by the place of the discard: before the lookup, or by the entry that it finds. -/
theorem discardedFramesAreCounted : Obligations.DiscardedFramesAreCounted := by
  refine ⟨fun p bytes s stamp c hrx hc => ?_, fun p bytes s stamp slot e c hrx hcls hfind hcase => ?_⟩
  · obtain ⟨t, hexec, hover, hcount, _, hkept⟩ := frame_event_steady (w := [.counters]) hrx
      (receptionEnds_discard (s := s.begun) hc) (count_steady p c 1 _) (told_count p c 1 _) (count_counted p c 1 _)
    exact ⟨t, hexec, hover, hcount, hkept.mono (by simp)⟩
  · refine looked_discard hrx ?_
    rw [receptionEnds_classified (s := s.begun) hcls]
    by_cases hback : roleOf p = .backhaul
    · cases p with
      | bh l =>
        rw [classify_downstream, show findKey _ s.begun.flows = _ from hfind]
        rcases hcase with ⟨ha, rfl⟩ | ⟨_, ha, htest, rfl⟩ | ⟨hno, _⟩
        · simp only [downstream, ha]
        · simp only [downstream, ha, htest]; rfl
        · exact absurd rfl hno
      | _ => cases hback
    · rw [classify_upstream hback, show findKey _ s.begun.flows = _ from hfind]
      rcases hcase with ⟨ha, rfl⟩ | ⟨hno, _⟩ | ⟨_, ha, rfl, i, hi, hact⟩
      · simp only [upstream, ha]
      · exact absurd hno hback
      · simp only [upstream, ha, hi, toTiming]
        exact if_neg (by show ¬(s.tenantCfg i).active = true; simp [hact])

/-! ## The queues that a frame joins (R9, R10, R13) -/

/-- The event of a frame that joins a queue with cells of its own. -/
theorem frame_joins {w : List Part} {steps : List (Port × PortCounter × Nat)} {p : Port} {bytes : List Byte} {s v : State}
    {stamp : Instant} {q : QueueSet} {e : EventWork} (hrx : (s.port p).rx = some stamp)
    (hop : receptionEnds p stamp bytes s.begun
      = { v with queues := q, pool := { v.pool with free := s.pool.free.drop (cellsFor bytes.length) }, ev := e })
    (hv : Steady w (recorded p bytes s.begun) v) (ht : Told (recorded p bytes s.begun) v)
    (hc : Counted steps (recorded p bytes s.begun) v) (hq : q.locals = s.queues.locals) (he : e.outbox = v.ev.outbox)
    (hrec : Part.reception ∉ w := by decide) (hup : Part.linkUp ∉ w := by decide) :
    ∃ t, exec (.frameReceived p bytes) s = .next t ∧ ReceptionOver p s t
      ∧ Counted ([(p, .framesReceived, 1), (p, .bytesReceived, bytes.length)] ++ steps) s t
      ∧ Writes [] v t ∧ TrafficKept { s with queues := q, pool := poolAfter s bytes } t
      ∧ Kept (.reception :: .counters :: .traffic :: w) s t := by
  have hsame : Writes [.traffic] v
      { v with queues := q, pool := { v.pool with free := s.pool.free.drop (cellsFor bytes.length) }, ev := e } :=
    traffic_writes v q _ e
  have hlocals : v.queues.locals = q.locals := by rw [hv.queues, hq]; rfl
  have htold : Told v
      { v with queues := q, pool := { v.pool with free := s.pool.free.drop (cellsFor bytes.length) }, ev := e } :=
    told_still rfl he rfl (fun p => by show q.locals.get p = v.queues.locals.get p; rw [hlocals]) fun _ => rfl
  have htx : ∀ k, (v.port k).tx = (s.port k).tx := fun k => (hv.tx k).trans ((recorded_steady p bytes s.begun).tx k)
  obtain ⟨t, hexec, hover, hcount, hdep, hkept⟩ := frame_event (w := .traffic :: w) (steps := steps) hrx hop
    ((hv.writes.mono (by simp +contextual)).trans (hsame.mono (by simp))) (ht.trans htold) hq htx
    (hc.kept (hsame .counters (by decide) rfl)) (.inl (by simp)) (by simpa using hrec) (by simpa using hup)
  refine ⟨t, hexec, hover, hcount, fun a _ hm => ?_, ?_, hkept⟩
  · exact Part.kept_trans hm (hsame a (by rintro h; rw [List.mem_singleton.1 h] at hm; cases hm) hm) (hdep.1 a hm)
  · have hlink : Part.linkUp.kept s.begun v :=
      Part.kept_trans rfl ((recorded_steady p bytes s.begun).kept .linkUp (by decide) rfl) (hv.kept .linkUp hup rfl)
    exact TrafficKept.trans (t := { v with
        queues := q, pool := { v.pool with free := s.pool.free.drop (cellsFor bytes.length) }, ev := e })
      (TrafficKept.of_eq rfl htx rfl) hlink hdep

/-- The state in which a tenant's frame is offered: its hit and its demand are recorded (R14, R28). -/
theorem countDemand_steady (i : Tenant) (n : Nat) (s : State) : Steady [.demand] s (countDemand i n s) := by
  refine tenants_steady s _ fun k => ?_
  rw [tget_tset]
  split
  · next hk => rw [hk]; exact ⟨rfl, rfl, rfl, rfl⟩
  · exact ⟨rfl, rfl, rfl, rfl⟩

/-- What R9 does with an upstream frame that is no timing frame. -/
theorem upstream_tenant {p : Port} {stamp : Instant} {bytes : List Byte} {s : State} {i : Tenant} {pref : Pref}
    (hp : roleOf p ≠ .backhaul) (hcls : Classified p bytes s) (ht : tenantOf p bytes s = some (i, pref)) :
    receptionEnds p stamp bytes s = toTenant p i pref bytes (looked p bytes s) := by
  rw [receptionEnds_classified hcls, classify_upstream hp]
  unfold tenantOf at ht
  generalize findKey (frameKey p bytes) s.flows = found at ht
  unfold upstream
  cases found with
  | none => cases ht; rfl
  | some x =>
    obtain ⟨slot, e⟩ := x
    simp only at ht ⊢
    split at ht
    · next j ha hj =>
      cases ht
      simp only [ha, hj]
    · cases ht

/-- A tenant's frame accepted (R13): its tenant's count, then the frame at the tail of the queue. -/
theorem offerTenant_fits {i : Tenant} {d : Descriptor} {s : State}
    (h : fits s (s.tenantQ i) (s.tenantCfg i).queueLimit d.length = true) :
    offerTenant i d s =
      { s.setTenant i { s.tenant i with accepted := (s.tenant i).accepted + 1 } with
        queues := { s.queues with tenant := tset s.queues.tenant i (s.tenantQ i ++ [withCells s d]) }
        pool := { s.pool with free := s.pool.free.drop (cellsFor d.length) }
        ev := (kickBackhaul s).ev } := by
  unfold offerTenant
  rw [if_pos h]
  rfl

/-- A tenant's frame dropped (R13). -/
theorem offerTenant_full {i : Tenant} {d : Descriptor} {s : State}
    (h : fits s (s.tenantQ i) (s.tenantCfg i).queueLimit d.length = false) :
    offerTenant i d s
      = raise (.queueOverflow i) none (s.setTenant i { s.tenant i with dropped := (s.tenant i).dropped + 1 }) := by
  unfold offerTenant
  rw [if_neg (by simp [h])]

/-- An accepted frame's tenant counts (R14, R60). -/
theorem tallies_steady (i : Tenant) (u : TenantUnit) (s : State) (ha : u.allocation = (s.tenant i).allocation)
    (hd : u.demandBytes = (s.tenant i).demandBytes ∧ u.demand = (s.tenant i).demand) :
    Steady [.tallies] s (s.setTenant i u) :=
  (setTenant_steady i u s ha).drop fun a hw hv => by
    simp only [List.mem_cons, List.not_mem_nil, or_false] at hw hv
    rcases hw with rfl | rfl
    · intro k
      show (tget (tset s.tenants i u) k).demandBytes = _ ∧ (tget (tset s.tenants i u) k).demand = _
      rw [tget_tset]
      split
      · next hk => rw [hk]; exact hd
      · exact ⟨rfl, rfl⟩
    · exact absurd rfl hv

/-- The demand of an upstream frame, counted before its offer (R14). -/
theorem demand_counted (i k : Tenant) (n : Nat) (s : State) :
    (countDemand i n s).tenant k
      = { s.tenant k with demandBytes := (s.tenant k).demandBytes + (if k = i then n else 0) } := by
  show tget (tset s.tenants i _) k = _
  rw [tget_tset]
  split
  · next hk => subst hk; rfl
  · rfl

/-- Settles O28: an inactive tenant's frame is discarded; an active one's is counted in its demand and is offered to its
queue. -/
theorem upstreamFramesJoinTheirTenantsQueue : Obligations.UpstreamFramesJoinTheirTenantsQueue := by
  intro p bytes s stamp i pref hrx hp hcls htenant
  have hop := upstream_tenant (stamp := stamp) (s := s.begun) hp hcls htenant
  by_cases hactive : (s.tenantCfg i).active = true
  · let D := countDemand i bytes.length (looked p bytes s.begun)
    let d : Descriptor := { plainDescriptor .tenant bytes with tenant := some i, pref := some pref }
    have hop : receptionEnds p stamp bytes s.begun = offerTenant i d D := hop.trans (if_pos hactive)
    have hdem : Steady [.flows, .demand] (recorded p bytes s.begun) D :=
      ((looked_steady p bytes s.begun).mono (by simp)).trans ((countDemand_steady _ _ _).mono (by simp))
    have htold : Told (recorded p bytes s.begun) D :=
      (told_looked p bytes s.begun).trans (told_still rfl rfl rfl (fun _ => rfl) fun _ => rfl)
    have hcount : Counted [] (recorded p bytes s.begun) D :=
      (Counted.refl _).kept (hdem.kept .counters (by decide) rfl)
    have htenants : ∀ k, D.tenant k
        = { s.tenant k with demandBytes := (s.tenant k).demandBytes + (if k = i then bytes.length else 0) } :=
      fun k => demand_counted i k bytes.length (looked p bytes s.begun)
    simp only [if_pos hactive]
    by_cases hfit : occupancy (s.tenantQ i) + (bytes.length + 255) / 256 ≤ (s.tenantCfg i).queueLimit
        ∧ (bytes.length + 255) / 256 ≤ s.pool.free.length
    · simp only [if_pos hfit]
      let v := D.setTenant i { D.tenant i with accepted := (D.tenant i).accepted + 1 }
      have hv : Steady [.tallies] D v := tallies_steady i _ D rfl ⟨rfl, rfl⟩
      obtain ⟨t, hexec, hover, hcounted, hw, htraffic, hkept⟩ := frame_joins (v := v) (w := [.flows, .demand, .tallies]) hrx
        (hop.trans (offerTenant_fits (decide_eq_true hfit)))
        ((hdem.mono (by simp)).trans (hv.mono (by simp))) (htold.trans (told_still rfl rfl rfl (fun _ => rfl) fun _ => rfl))
        (hcount.kept (hv.kept .counters (by decide) rfl)) rfl rfl
      have htallies : ∀ k, v.tenant k
          = { D.tenant k with accepted := (s.tenant k).accepted + (if k = i then 1 else 0) } := by
        intro k
        show tget (tset D.tenants i _) k = _
        rw [tget_tset]
        split
        · next hk => subst hk; rw [htenants]
        · show D.tenant k = _; rw [htenants]; simp
      refine ⟨t, hexec, hover, (hw .flows (by simp) rfl : _ = _), hcounted, fun k => ?_, fun k => ?_, ?_, hkept.mono (by simp)⟩
      · rw [(hw .demand (by simp) rfl k).1, (hw .demand (by simp) rfl k).2, (hw .tallies (by simp) rfl k).2.2, htallies, htenants]
        exact ⟨rfl, rfl, rfl⟩
      · rw [(hw .tallies (by simp) rfl k).1, (hw .tallies (by simp) rfl k).2.1, htallies, htenants]
        exact ⟨rfl, rfl⟩
      · exact ⟨_, ⟨rfl, rfl, rfl⟩, rfl, rfl, rfl, rfl, htraffic⟩
    · simp only [if_neg hfit]
      let v := D.setTenant i { D.tenant i with dropped := (D.tenant i).dropped + 1 }
      have hv : Steady [.tallies] D v := tallies_steady i _ D rfl ⟨rfl, rfl⟩
      have hraise : Steady [.latches] v (raise (.queueOverflow i) none v) := raise_steady _ _ _
      have hD : Steady [.flows, .demand, .tallies, .latches] (recorded p bytes s.begun) D := hdem.mono (by simp)
      obtain ⟨t, hexec, hover, hcounted, hdep, hkept⟩ := frame_event_steady hrx (hop.trans (offerTenant_full (decide_eq_false hfit)))
        ((hD.trans (hv.mono (by simp))).trans (hraise.mono (by simp)))
        ((htold.trans (told_still (t := v) rfl rfl rfl (fun _ => rfl) fun _ => rfl)).trans (told_raise _ _ _))
        ((hcount.kept (hv.kept .counters (by decide) rfl)).kept (hraise.kept .counters (by decide) rfl))
      have hw : Writes [.latches] v t := fun a ha hm => Part.kept_trans hm (hraise.kept a ha hm) (hdep.1 a hm)
      have htallies : ∀ k, v.tenant k
          = { D.tenant k with dropped := (s.tenant k).dropped + (if k = i then 1 else 0) } := by
        intro k
        show tget (tset D.tenants i _) k = _
        rw [tget_tset]
        split
        · next hk => subst hk; rw [htenants]
        · show D.tenant k = _; rw [htenants]; simp
      have hlatches : ∀ c : Cond, c.ofDeparture = false → t.latch c = (raise (.queueOverflow i) none v).latch c :=
        hdep.1 .latches rfl
      refine ⟨t, hexec, hover, (hw .flows (by simp) rfl : _ = _), hcounted, fun k => ?_, fun k => ?_, ?_, fun c hc hx => ?_,
        hkept.mono (by simp)⟩
      · rw [(hw .demand (by simp) rfl k).1, (hw .demand (by simp) rfl k).2, (hw .tallies (by simp) rfl k).2.2, htallies, htenants]
        exact ⟨rfl, rfl, rfl⟩
      · rw [(hw .tallies (by simp) rfl k).1, (hw .tallies (by simp) rfl k).2.1, htallies, htenants]
        exact ⟨rfl, rfl⟩
      · rw [hlatches _ rfl, raise_latch_same]; rfl
      · rw [hlatches c hx, raise_latch_other _ _ _ _ (by simpa using hc)]; rfl
  · have hop : receptionEnds p stamp bytes s.begun = count p .inactiveTenant 1 (looked p bytes s.begun) :=
      hop.trans (if_neg hactive)
    obtain ⟨t, hexec, hover, hflows, hcount, hkept⟩ := looked_discard hrx hop
    exact ⟨t, hexec, hover, hflows, by rw [if_neg hactive]; exact ⟨hcount, hkept⟩⟩

/-- Settles O29: the timing queue takes the frame with what travels with it, or the port counts a drop. -/
theorem upstreamTimingFramesJoinTheTimingQueue : Obligations.UpstreamTimingFramesJoinTheTimingQueue := by
  intro p bytes s stamp slot e i hrx hp hcls hfind haction htenant hactive
  let D := looked p bytes s.begun
  let d : Descriptor := { plainDescriptor .timing bytes with
    tenant := some i, pref := e.spec.pref, slot := some slot, offset := e.spec.offset, ingress := some stamp }
  have hop : receptionEnds p stamp bytes s.begun = offerTiming p d D := by
    rw [receptionEnds_classified (s := s.begun) hcls, classify_upstream hp, show findKey _ s.begun.flows = _ from hfind]
    simp only [upstream, haction, htenant]
    exact if_pos hactive
  by_cases hfit : occupancy s.queues.timing + (bytes.length + 255) / 256 ≤ 64
      ∧ (bytes.length + 255) / 256 ≤ s.pool.free.length
  · obtain ⟨t, hexec, hover, hcounted, hw, htraffic, hkept⟩ := frame_joins (v := D) (w := [.flows])
      (q := { s.queues with timing := s.queues.timing ++ [withCells s d] }) (e := (kickBackhaul D).ev) hrx
      (hop.trans (if_pos (decide_eq_true hfit))) (looked_steady p bytes s.begun) (told_looked p bytes s.begun)
      (looked_counted p bytes s.begun) rfl rfl
    refine ⟨t, hexec, hover, (hw .flows (by simp) rfl : _ = _), ?_⟩
    rw [if_pos hfit]
    exact ⟨hcounted, ⟨_, ⟨rfl, rfl, rfl⟩, rfl, rfl, rfl, rfl, rfl, rfl, rfl, htraffic⟩, hkept.mono (by simp)⟩
  · obtain ⟨t, hexec, hover, hflows, hcount, hkept⟩ :=
      looked_discard hrx (hop.trans (if_neg fun h => hfit (of_decide_eq_true h)))
    refine ⟨t, hexec, hover, hflows, ?_⟩
    rw [if_neg hfit]
    exact ⟨hcount, hkept⟩

/-- What a downstream frame is offered with to its egress port: a TIMING frame has what travels with it. -/
def downDescriptor (l : Link) (stamp : Instant) (bytes : List Byte) (slot : Nat) (e : FlowEntry) (s : State) : Descriptor :=
  if e.spec.action = .forward then plainDescriptor .downstream bytes
  else { plainDescriptor .timing bytes with
    slot := some slot, offset := e.spec.offset, ingress := some stamp, airDelay := some (s.airDelay l) }

theorem downDescriptor_frame (l : Link) (stamp : Instant) (bytes : List Byte) (slot : Nat) (e : FlowEntry) (s : State) :
    (downDescriptor l stamp bytes slot e s).length = bytes.length
      ∧ (downDescriptor l stamp bytes slot e s).frame = bytes := by
  unfold downDescriptor
  split <;> exact ⟨rfl, rfl⟩

/-- Settles O30: the egress port's link, then the room of its queue. -/
theorem downstreamFramesJoinTheirEgressQueue : Obligations.DownstreamFramesJoinTheirEgressQueue := by
  intro l bytes s stamp slot e q hrx hcls hfind haction hegress hq
  let D := looked (.bh l) bytes s.begun
  let d := downDescriptor l stamp bytes slot e s
  obtain ⟨hlen, hframe⟩ := downDescriptor_frame l stamp bytes slot e s
  have hop : receptionEnds (.bh l) stamp bytes s.begun = offerDown q d D := by
    rw [receptionEnds_classified (s := s.begun) hcls, classify_downstream, show findKey _ s.begun.flows = _ from hfind]
    rcases haction with ha | ha
    · simp only [downstream, ha, hegress]
      rw [show d = plainDescriptor .downstream bytes from if_pos ha]
    · simp only [downstream, ha, hegress]
      rw [show d = _ from if_neg (by rw [ha]; decide)]
      rfl
  have hport : (D.port q).linkUp = (s.port q).linkUp :=
    (recorded_steady (.bh l) bytes s.begun).kept .linkUp (by decide) rfl q
  by_cases hup : (s.port q).linkUp = true
  · have hop : receptionEnds (.bh l) stamp bytes s.begun =
        if fits D (s.queues.down.get q) (downLimitOf s q) d.length then
          kick q (takeCells d.length (D.setDown q (s.queues.down.get q ++ [withCells D d])))
        else count q .egressDrops 1 D := hop.trans (if_neg (by rw [hport, hup]; decide))
    have hlimit : downLimitOf s q = (if q = .sp then 512 else (s.cfg.ports.get q).downLimit) := by
      unfold downLimitOf
      cases q <;> rfl
    simp only [if_pos hup]
    by_cases hfit : occupancy (s.queues.down.get q) + (bytes.length + 255) / 256
          ≤ (if q = .sp then 512 else (s.cfg.ports.get q).downLimit)
        ∧ (bytes.length + 255) / 256 ≤ s.pool.free.length
    · simp only [if_pos hfit]
      have hfits : fits D (s.queues.down.get q) (downLimitOf s q) d.length = true := by
        rw [hlen, hlimit]
        exact decide_eq_true hfit
      have hop := hop.trans (if_pos hfits)
      rw [hlen] at hop
      obtain ⟨t, hexec, hover, hcounted, hw, htraffic, hkept⟩ := frame_joins (v := D) (w := [.flows])
        (q := { s.queues with down := s.queues.down.set q (s.queues.down.get q ++ [withCells D d]) }) (e := (kick q D).ev) hrx
        hop (looked_steady (.bh l) bytes s.begun) (told_looked (.bh l) bytes s.begun)
        (looked_counted (.bh l) bytes s.begun) rfl rfl
      refine ⟨t, hexec, hover, (hw .flows (by simp) rfl : _ = _), hcounted, ⟨withCells D d, ⟨hlen, rfl, ?_⟩, hframe,
        fun ha => ?_, fun ha => ?_, htraffic⟩, hkept.mono (by simp)⟩
      · show s.pool.free.take (cellsFor d.length) = _
        rw [hlen]
        rfl
      · show d.cls = _
        rw [show d = _ from if_pos ha]
        rfl
      · show d.cls = _ ∧ d.slot = _ ∧ d.offset = _ ∧ d.ingress = _ ∧ d.airDelay = _
        rw [show d = _ from if_neg (by rw [ha]; decide)]
        exact ⟨rfl, rfl, rfl, rfl, rfl⟩
    · simp only [if_neg hfit]
      obtain ⟨t, hexec, hover, hflows, hcount, hkept⟩ := looked_discard hrx (hop.trans (if_neg fun h => hfit (by
        rw [hlen, hlimit] at h
        exact of_decide_eq_true h)))
      exact ⟨t, hexec, hover, hflows, hcount, hkept⟩
  · obtain ⟨t, hexec, hover, hflows, hcount, hkept⟩ :=
      looked_discard hrx (hop.trans (if_pos (by rw [hport]; simpa using hup)))
    simp only [if_neg hup]
    exact ⟨t, hexec, hover, hflows, hcount, hkept⟩

/-! ## Returns (R149) -/

theorem returnCounts_iff (c : Context) (p : List Byte) : returnCounts c p = true ↔
    (c.state = .settle ∨ c.state = .measure ∨ c.state = .recover) ∧ pbyte p 1 = c.runNo
      ∧ c.current.map (fun i => i.val) = some (pbyte p 2).toNat ∧ inMeasureRange c (bytesToNat (slice 4 4 p)) = true := by
  cases hr : c.range <;> simp [returnCounts, inMeasureRange, Context.underWay, hr, and_assoc]

theorem counted_eq (c : Context) (rt : Nat) : c.counted rt =
    { c with
      returned := c.returned + 1, minRt := some (min (c.minRt.getD rt) rt)
      maxRt := some (max (c.maxRt.getD rt) rt), sumRt := c.sumRt + BitVec.ofNat 64 rt } := by
  unfold Context.counted
  cases c.minRt <;> cases c.maxRt <;> simp

/-- Settles O32: the context changes where the return is one of its run, step and measure range. -/
theorem returnsAreCountedForTheirRun : Obligations.ReturnsAreCountedForTheirRun := by
  intro l bytes s stamp slot e hrx hcls hfind haction htest c p rt
  let D := looked (.bh l) bytes s.begun
  have hop : receptionEnds (.bh l) stamp bytes s.begun = takeReturn l bytes stamp D := by
    rw [receptionEnds_classified (s := s.begun) hcls, classify_downstream, show findKey _ s.begun.flows = _ from hfind]
    simp only [downstream, haction, htest, if_true]
    rfl
  have hsteady : Steady [.qual] D (takeReturn l bytes stamp D) := by
    unfold takeReturn
    simp only
    split
    · exact qual_steady _ _
    · exact Steady.refl _ _
  have htold : Told D (takeReturn l bytes stamp D) := by
    unfold takeReturn
    simp only
    split
    · exact told_still rfl rfl rfl (fun _ => rfl) fun _ => rfl
    · exact Told.refl _
  obtain ⟨t, hexec, hover, hcounted, hdep, hkept⟩ := frame_event_steady (w := [.flows, .qual]) hrx hop
    (((looked_steady (.bh l) bytes s.begun).mono (by simp)).trans (hsteady.mono (by simp)))
    ((told_looked (.bh l) bytes s.begun).trans htold)
    ((looked_counted (.bh l) bytes s.begun).kept (hsteady.kept .counters (by decide) rfl))
  refine ⟨t, hexec, hover, ?_, hcounted, hkept.mono (by simp), ?_⟩
  · exact (hdep.1 .flows rfl : _ = _).trans (hsteady.kept .flows (by decide) rfl)
  · refine (hdep.1 .qual rfl : _ = _).trans ?_
    show (if returnCounts c p = true then D.setCtx l (c.counted rt) else D).qual = _
    rw [apply_ite State.qual]
    refine (if_congr (returnCounts_iff c p) ?_ rfl)
    rw [counted_eq]
    rfl

end Sys2Proof.Machine
end

section
/-!
PROOF. Bytes patched into a frame (R123, R147, R153), and the reflect path (R89, R153).
-/

namespace Sys2Proof.Machine

/-! ## Slices and patches -/

theorem length_slice {off n : Nat} {b : List Byte} (h : off + n ≤ b.length) : (slice off n b).length = n := by
  simp only [slice, List.length_take, List.length_drop]
  omega

theorem length_natToBytes (n v : Nat) : (natToBytes n v).length = n := by
  induction n generalizing v with
  | zero => rfl
  | succ n ih => rw [natToBytes, List.length_append, ih]; rfl

theorem length_patch {off : Nat} {new b : List Byte} (h : off + new.length ≤ b.length) :
    (patch off new b).length = b.length := by
  simp only [patch, List.length_append, List.length_take, List.length_drop]
  omega

/-- The patched bytes themselves. -/
theorem slice_patch {off : Nat} {new b : List Byte} (h : off ≤ b.length) : slice off new.length (patch off new b) = new := by
  have hlen : (b.take off).length = off := by rw [List.length_take]; omega
  rw [slice, patch, List.append_assoc, List.drop_append_of_le_length (by omega), List.drop_of_length_le (by omega),
    List.nil_append, List.take_append_of_le_length (Nat.le_refl _), List.take_length]

/-- The bytes before a patch. -/
theorem take_patch {off n : Nat} {new b : List Byte} (hn : n ≤ off) (h : off ≤ b.length) :
    (patch off new b).take n = b.take n := by
  rw [patch, List.append_assoc, List.take_append_of_le_length (by rw [List.length_take]; omega), List.take_take,
    Nat.min_eq_left hn]

/-- The bytes after a patch. -/
theorem drop_patch {off n : Nat} {new b : List Byte} (hn : off + new.length ≤ n) (h : off ≤ b.length) :
    (patch off new b).drop n = b.drop n := by
  have hlen : (b.take off ++ new).length = off + new.length := by rw [List.length_append, List.length_take]; omega
  rw [patch, List.drop_append, List.drop_of_length_le (by omega), List.nil_append, List.drop_drop, hlen]
  congr 1
  omega

/-- A slice that ends before the bytes where two frames differ. -/
theorem slice_eq_of_take {off n m : Nat} {a b : List Byte} (h : a.take m = b.take m) (hm : off + n ≤ m) :
    slice off n a = slice off n b := by
  have hcut : ∀ x : List Byte, slice off n x = slice off n (x.take m) := by
    intro x
    rw [slice, slice, List.drop_take, List.take_take, Nat.min_eq_left (by omega)]
  rw [hcut a, hcut b, h]

/-- A slice that begins after the bytes where two frames differ. -/
theorem slice_eq_of_drop {off n m : Nat} {a b : List Byte} (h : a.drop m = b.drop m) (hm : m ≤ off) :
    slice off n a = slice off n b := by
  have hcut : ∀ x : List Byte, slice off n x = slice (off - m) n (x.drop m) := by
    intro x
    rw [slice, slice, List.drop_drop]
    congr 2
    omega
  rw [hcut a, hcut b, h]

/-! ## The reflected frame (R153) -/

/-- A frame with its two addresses exchanged. -/
def swapped (b : List Byte) : List Byte := slice 6 6 b ++ slice 0 6 b ++ b.drop 12

theorem swapped_spec {b : List Byte} (h : 12 ≤ b.length) :
    (swapped b).length = b.length ∧ slice 0 6 (swapped b) = slice 6 6 b ∧ slice 6 6 (swapped b) = slice 0 6 b
      ∧ (swapped b).drop 12 = b.drop 12 := by
  have h1 : (slice 6 6 b).length = 6 := length_slice (by omega)
  have h2 : (slice 0 6 b).length = 6 := length_slice (by omega)
  have h12 : (slice 6 6 b ++ slice 0 6 b).length = 12 := by rw [List.length_append, h1, h2]
  unfold swapped
  refine ⟨?_, ?_, ?_, ?_⟩
  · rw [List.length_append, h12, List.length_drop]; omega
  · generalize slice 6 6 b = x at h1 ⊢
    rw [slice, List.drop_zero, List.append_assoc, List.take_append_of_le_length (by omega), List.take_of_length_le (by omega)]
  · generalize slice 6 6 b = x at h1 ⊢
    generalize slice 0 6 b = y at h2 ⊢
    rw [slice, List.append_assoc, List.drop_append_of_le_length (by omega), List.drop_of_length_le (by omega),
      List.nil_append, List.take_append_of_le_length (by omega), List.take_of_length_le (by omega)]
  · rw [List.drop_append_of_le_length (by omega), List.drop_of_length_le (by omega), List.nil_append]

theorem payloadOffset_le (b : List Byte) : 14 ≤ payloadOffset b ∧ payloadOffset b ≤ 18 := by
  unfold payloadOffset
  split <;> omega

/-- A payload that reaches so far lies in the frame (R153). -/
theorem holdsPayload_length {b : List Byte} {n : Nat} (h : holdsPayload b n = true) (hn : 0 < n) :
    payloadOffset b + n + 4 ≤ b.length := by
  have hlen := of_decide_eq_true h
  simp only [payload, List.length_drop, List.length_take] at hlen
  omega

/-- What the reflect path makes of a frame (R153). -/
theorem reflected_spec {stamp : Ns} {b : List Byte} (h : 12 ≤ b.length) :
    (reflected stamp b).length = b.length
      ∧ slice 0 6 (reflected stamp b) = slice 6 6 b ∧ slice 6 6 (reflected stamp b) = slice 0 6 b
      ∧ (if isTestFrame b = true ∧ holdsPayload b 32 = true then
          slice (payloadOffset b + 16) 8 (reflected stamp b) = natToBytes 8 stamp.toNat
          ∧ slice 12 (payloadOffset b + 4) (reflected stamp b) = slice 12 (payloadOffset b + 4) b
          ∧ (reflected stamp b).drop (payloadOffset b + 24) = b.drop (payloadOffset b + 24)
         else (reflected stamp b).drop 12 = b.drop 12) := by
  obtain ⟨hlen, hdst, hsrc, hrest⟩ := swapped_spec h
  have hoff := payloadOffset_le b
  by_cases htest : isTestFrame b = true ∧ holdsPayload b 32 = true
  · have hfits := holdsPayload_length htest.2 (by decide)
    have hr : reflected stamp b = patch (payloadOffset b + 16) (natToBytes 8 stamp.toNat) (swapped b) :=
      if_pos (by simp [htest])
    have hn := length_natToBytes 8 stamp.toNat
    generalize natToBytes 8 stamp.toNat = new at hr hn
    have hin : payloadOffset b + 16 ≤ (swapped b).length := by omega
    have hbefore : (reflected stamp b).take (payloadOffset b + 16) = (swapped b).take (payloadOffset b + 16) := by
      rw [hr]; exact take_patch (Nat.le_refl _) hin
    rw [if_pos htest]
    refine ⟨?_, ?_, ?_, ?_, ?_, ?_⟩
    · rw [hr, length_patch (by omega), hlen]
    · rw [slice_eq_of_take hbefore (by omega), hdst]
    · rw [slice_eq_of_take hbefore (by omega), hsrc]
    · rw [hr, ← hn]; exact slice_patch hin
    · rw [slice_eq_of_take hbefore (by omega)]
      exact slice_eq_of_drop hrest (Nat.le_refl _)
    · rw [hr, drop_patch (by omega) hin]
      have hdrop : ∀ x : List Byte, x.drop (payloadOffset b + 24) = (x.drop 12).drop (payloadOffset b + 12) := fun x => by
        rw [List.drop_drop]; congr 1; omega
      rw [hdrop, hrest, ← hdrop]
  · have hr : reflected stamp b = swapped b := if_neg (by simpa using htest)
    rw [if_neg htest, hr]
    exact ⟨hlen, hdst, hsrc, hrest⟩

/-! ## The reflect bucket (R84, R85, R89) -/

/-- A bucket brought up to date twice at one moment. -/
theorem refresh_refresh (t : Ns) (b : Bucket) : (b.refresh t).refresh t = b.refresh t := by
  have h0 : sinceNs t t = 0 := by simp [sinceNs]
  simp only [Bucket.refresh, h0, Nat.mul_zero, Nat.zero_add, Nat.mod_mod, Bucket.mk.injEq, true_and, and_true]
  have hdiv : ((b.rate * sinceNs t b.last + b.residue) % 1000000 / 1000000 : Nat) = 0 :=
    Nat.div_eq_of_lt (Nat.mod_lt _ (by decide))
  rw [hdiv]
  omega

/-- A link's reflect bucket replaced. -/
def withReflect (l : Link) (b : Bucket) (s : State) : State :=
  { s with sched := { s.sched with reflect := s.sched.reflect.set l b } }

theorem touch_reflect_eq (l : Link) (s : State) :
    touch (.reflect l) s = withReflect l ((s.bucket (.reflect l)).refresh s.nowNs) s := by
  unfold touch kickForBucket
  simp only [ite_self]
  rfl

theorem withReflect_bucket (l : Link) (b : Bucket) (s : State) :
    (withReflect l b s).bucket (.reflect l) = b ∧ (withReflect l b s).bucket (.reflect l.other) = s.bucket (.reflect l.other) := by
  cases l <;> exact ⟨rfl, rfl⟩

/-- A reflect bucket that is up to date and is charged (R85). -/
theorem charge_reflect_eq (l : Link) (n : Nat) (b : Bucket) (s : State) (h : b.refresh s.nowNs = b) :
    charge (.reflect l) n (withReflect l b s) = withReflect l { b with credit := b.credit - (n : Int) * 8 } s := by
  unfold charge
  rw [touch_reflect_eq, (withReflect_bucket l b s).1, show (withReflect l b s).nowNs = s.nowNs from rfl, h]
  simp only [(withReflect_bucket l b _).1, Bucket.charge, Nat.cast_mul, Nat.cast_ofNat]
  cases l <;> rfl

theorem withReflect_steady (l : Link) (b : Bucket) (s : State) (hr : b.rate = (s.bucket (.reflect l)).rate)
    (hd : b.depth = (s.bucket (.reflect l)).depth) : Steady [.reflect] s (withReflect l b s) :=
  (sched_steady' s _ s.ev).drop fun a hw hv => by
    simp only [List.mem_cons, List.not_mem_nil, or_false] at hw hv
    rcases hw with rfl | rfl
    · intro c
      cases c with
      | reflect k =>
        show ((s.sched.reflect.set l b).get k).rate = _ ∧ ((s.sched.reflect.set l b).get k).depth = _
        rw [PerLink.get_set]
        split
        · next hk => rw [hk]; exact ⟨hr, hd⟩
        · exact ⟨rfl, rfl⟩
      | _ => exact ⟨rfl, rfl⟩
    · exact absurd rfl hv

/-- What the reflect path does with a frame whose bucket is up to date (R89): a drop, or a place in the test queue and a
charge. -/
theorem reflectPath_cases (l : Link) (stamp : Instant) (bytes : List Byte) (s : State)
    (hlen : (reflected (wholeNs stamp) bytes).length = bytes.length) :
    let b := (s.bucket (.reflect l)).refresh s.nowNs
    let d : Descriptor := { plainDescriptor .reflected (reflected (wholeNs stamp) bytes) with link := some l }
    reflectPath l stamp bytes s =
      if 0 ≤ b.credit ∧ occupancy (s.queues.test.get l) + (bytes.length + 255) / 256 ≤ 128
          ∧ (bytes.length + 255) / 256 ≤ s.pool.free.length then
        { withReflect l { b with credit := b.credit - (bytes.length : Int) * 8 } s with
          queues := { s.queues with test := s.queues.test.set l (s.queues.test.get l ++ [withCells s d]) }
          pool := { s.pool with free := s.pool.free.drop (cellsFor bytes.length) }, ev := (kick (.bh l) s).ev }
      else count (.bh l) .reflectDrops 1 (withReflect l b s) := by
  intro b d
  have hdlen : d.length = bytes.length := hlen
  have hpath : reflectPath l stamp bytes s =
      if b.credit < 0 then count (.bh l) .reflectDrops 1 (withReflect l b s)
      else match offerTest l d (withReflect l b s) with
        | (true, s2) => charge (.reflect l) bytes.length s2
        | (false, s2) => count (.bh l) .reflectDrops 1 s2 := by
    unfold reflectPath
    rw [touch_reflect_eq]
    show (if ((withReflect l b s).bucket (.reflect l)).credit < 0 then _ else _) = _
    rw [(withReflect_bucket l b s).1] <;> rfl
  rw [hpath]
  by_cases hcredit : 0 ≤ b.credit
  · rw [if_neg (by omega)]
    by_cases hfit : occupancy (s.queues.test.get l) + (bytes.length + 255) / 256 ≤ 128
        ∧ (bytes.length + 255) / 256 ≤ s.pool.free.length
    · have hfits : fits (withReflect l b s) (s.queues.test.get l) 128 d.length = true := by
        rw [hdlen]
        exact decide_eq_true hfit
      have hoffer : offerTest l d (withReflect l b s) = (true, withReflect l b { s with
          queues := { s.queues with test := s.queues.test.set l (s.queues.test.get l ++ [withCells s d]) }
          pool := { s.pool with free := s.pool.free.drop (cellsFor d.length) }, ev := (kick (.bh l) s).ev }) := if_pos hfits
      rw [if_pos ⟨hcredit, hfit⟩, hoffer]
      simp only
      refine (charge_reflect_eq l bytes.length b _ (by exact refresh_refresh s.nowNs _)).trans ?_
      rw [hdlen]
      rfl
    · have hfits : ¬fits (withReflect l b s) (s.queues.test.get l) 128 d.length = true := fun h => hfit (by
        rw [hdlen] at h
        exact of_decide_eq_true h)
      have hoffer : offerTest l d (withReflect l b s) = (false, withReflect l b s) := if_neg hfits
      rw [if_neg fun h => hfit h.2, hoffer]
  · rw [if_pos (by omega), if_neg fun h => hcredit h.1]

/-- Settles O31, by whether the bucket and the test queue take the frame. -/
theorem reflectedFramesAreChargedAndQueued : Obligations.ReflectedFramesAreChargedAndQueued := by
  intro l bytes s stamp slot e hrx hcls hfind haction
  let D := looked (.bh l) bytes s.begun
  let b := (s.bucket (.reflect l)).refresh s.nowNs
  have hlong : 12 ≤ bytes.length := by
    have h := (of_decide_eq_true hcls.1.1).1
    omega
  obtain ⟨hlen, hdst, hsrc, hrest⟩ := reflected_spec (stamp := wholeNs stamp) hlong
  have hop : receptionEnds (.bh l) stamp bytes s.begun = reflectPath l stamp bytes D := by
    rw [receptionEnds_classified (s := s.begun) hcls, classify_downstream, show findKey _ s.begun.flows = _ from hfind]
    simp only [downstream, haction]
    rfl
  have hbucket : D.bucket (.reflect l) = s.bucket (.reflect l) := rfl
  have hop := hop.trans (reflectPath_cases l stamp bytes D hlen)
  have hother : ∀ {t : State} {v : State}, t.sched.reflect = v.sched.reflect → ∀ k, t.bucket (.reflect k) = v.bucket (.reflect k) :=
    fun h k => congrArg (fun x => PerLink.get x k) h
  by_cases htake : 0 ≤ b.credit ∧ occupancy (s.queues.test.get l) + (bytes.length + 255) / 256 ≤ 128
      ∧ (bytes.length + 255) / 256 ≤ s.pool.free.length
  · let v := withReflect l { b with credit := b.credit - (bytes.length : Int) * 8 } D
    have hv : Steady [.reflect] D v := withReflect_steady l _ D rfl rfl
    obtain ⟨t, hexec, hover, hcounted, hw, htraffic, hkept⟩ := frame_joins (v := v) (w := [.flows, .reflect]) hrx
      (hop.trans (if_pos htake)) (((looked_steady (.bh l) bytes s.begun).mono (by simp)).trans (hv.mono (by simp)))
      ((told_looked (.bh l) bytes s.begun).trans (told_still rfl rfl rfl (fun _ => rfl) fun _ => rfl))
      ((looked_counted (.bh l) bytes s.begun).kept (hv.kept .counters (by decide) rfl)) rfl rfl
    have hreflect := hother (hw .reflect (by simp) rfl)
    refine ⟨t, hexec, hover, (hw .flows (by simp) rfl : _ = _), (hreflect _).trans (withReflect_bucket l _ D).2, ?_⟩
    rw [if_pos htake]
    exact ⟨hcounted, ⟨_, ⟨hlen, rfl, by
      show s.pool.free.take (cellsFor (reflected (wholeNs stamp) bytes).length) = _
      rw [hlen]; rfl⟩, rfl, hlen, hdst, hsrc, hrest, htraffic⟩, (hreflect l).trans (withReflect_bucket l _ D).1,
      hkept.mono (by simp)⟩
  · let v := withReflect l b D
    have hv : Steady [.reflect] D v := withReflect_steady l _ D rfl rfl
    have hcount : Steady [.counters] v (count (.bh l) .reflectDrops 1 v) := count_steady _ _ _ _
    obtain ⟨t, hexec, hover, hcounted, hdep, hkept⟩ := frame_event_steady (w := [.flows, .reflect, .counters]) hrx
      (hop.trans (if_neg htake))
      ((((looked_steady (.bh l) bytes s.begun).mono (by simp)).trans (hv.mono (by simp))).trans (hcount.mono (by simp)))
      (((told_looked (.bh l) bytes s.begun).trans (told_still (t := v) rfl rfl rfl (fun _ => rfl) fun _ => rfl)).trans
        (told_count _ _ _ _))
      (((looked_counted (.bh l) bytes s.begun).kept (hv.kept .counters (by decide) rfl)).trans (count_counted _ _ _ _))
    have hreflect := hother ((hdep.1 .reflect rfl : _ = _).trans (hcount.kept .reflect (by decide) rfl))
    refine ⟨t, hexec, hover, flows_looked (s := s) rfl hdep, (hreflect _).trans (withReflect_bucket l _ D).2, ?_⟩
    rw [if_neg htake]
    exact ⟨hcounted, (hreflect l).trans (withReflect_bucket l _ D).1, hkept.mono (by simp)⟩

end Sys2Proof.Machine
end

section
/-!
PROOF. The loss of an access port's link (R4, R19), and the ends of transmissions (R15, R18, R99): the port's record and
its frames, and the next frame within the event.
-/

namespace Sys2Proof.Machine

/-! ## Events that move frames themselves -/

/-- An event whose own step writes the given parts, the traffic among them. -/
theorem event_writes {w : List Part} {f : State → State} {s u : State} (hop : f s.begun = u) (hw : Writes w s u)
    (ht : Told s.begun u) (hl : ∀ q, u.localQ q <:+ s.localQ q)
    (hx : ∀ q g, sends u q (.store g) → sends s q (.store g)) (htraffic : Part.traffic ∈ w := by decide) :
    Kept w s (event f s) ∧ Departs u (event f s) := by
  subst hop
  have hdep : Departs (f s.begun) (event f s) := event_departs _ _
  refine ⟨Kept.event (fun a ha => ?_) ht hl hx, hdep⟩
  have hnot : a ∉ w := fun h => ha (by simp [h])
  rcases Part.traffic_or ha with rfl | hmoves
  · exact absurd htraffic hnot
  · exact Part.kept_trans hmoves (hw a hnot hmoves) (hdep.1 a hmoves)

/-- Traffic that has lost nothing but what the state on the left already lacks, and may have more free cells. -/
theorem TrafficKept.of_more {s t : State} (hq : t.queues = s.queues) (hx : ∀ p, (t.port p).tx = (s.port p).tx)
    (hf : ∀ c, c ∈ s.pool.free → c ∈ t.pool.free) : TrafficKept s t where
  going p x h := (hx p).trans h
  tenant i := by unfold State.tenantQ; rw [hq]
  tenantLeft i d h := .inl (by unfold State.tenantQ at h ⊢; rwa [hq])
  timing := by rw [hq]
  timingLeft d h := .inl (by rwa [hq])
  test l := by rw [hq]
  testLeft l d h := .inl (by rwa [hq])
  down p := by rw [hq]
  downLeft p d h := .inl (by rwa [hq])
  localLeft p f h := .inl (by unfold State.localQ at h ⊢; rwa [hq])
  free := hf
  silent p _ := ⟨hx p, by unfold State.localQ; rw [hq]⟩

/-- A port's record, the queues and the free cells. -/
theorem port_writes (s : State) (ports : PerPort PortUnit) (q : QueueSet) (free : List Nat) (ev : EventWork) :
    Writes [.linkUp, .reception, .counters, .traffic] s
      { s with ports, queues := q, pool := { s.pool with free }, ev } := by
  intro a ha hx
  cases a <;> first
    | rfl | exact absurd hx (by decide) | exact absurd (by decide) ha
    | exact fun _ => rfl | exact fun _ _ => rfl | exact fun _ _ _ => rfl | exact fun _ => ⟨rfl, rfl⟩
    | exact fun _ => ⟨rfl, rfl, rfl⟩

theorem count_other (p q : Port) (c : PortCounter) (n : Nat) (s : State) :
    ((count p c n s).port q).linkUp = (s.port q).linkUp ∧ ((count p c n s).port q).rx = (s.port q).rx
      ∧ ((count p c n s).port q).tx = (s.port q).tx :=
  have h := count_steady p c n s
  ⟨h.kept .linkUp (by decide) rfl q, h.kept .reception (by decide) rfl q, h.tx q⟩

/-- The cells of what was transmitted are freed (R15). -/
theorem freeItem_shape (item : TxItem) (s : State) :
    ∃ free, freeItem item s = { s with pool := { s.pool with free } } ∧ (∀ c, c ∈ s.pool.free → c ∈ free)
      ∧ ∀ d c, item = .pool d → c ∈ d.cells → c ∈ free := by
  cases item with
  | pool d =>
    refine ⟨_, rfl, fun c h => List.mem_append_right _ h, fun e c he h => ?_⟩
    cases he
    exact List.mem_append_left _ h
  | store f => exact ⟨s.pool.free, rfl, fun c h => h, fun e c he => by cases he⟩

/-- The transmitter made idle keeps the rest of the ports. -/
theorem clearTx_ports (p q : Port) (s : State) :
    ((clearTx p s).port q).linkUp = (s.port q).linkUp ∧ ((clearTx p s).port q).rx = (s.port q).rx
      ∧ ((clearTx p s).port q).tx = (if q = p then none else (s.port q).tx)
      ∧ ((clearTx p s).port q).counters = (s.port q).counters := by
  show ((s.ports.set p _).get q).linkUp = _ ∧ ((s.ports.set p _).get q).rx = _ ∧ ((s.ports.set p _).get q).tx = _
    ∧ ((s.ports.set p _).get q).counters = _
  rw [PerPort.get_set]
  split
  · next hq => subst hq; exact ⟨rfl, rfl, rfl, rfl⟩
  · exact ⟨rfl, rfl, rfl, rfl⟩

/-! ## The loss of a port's physical link (R4, R19) -/

theorem counted_zero (p : Port) (c : PortCounter) (s : State) : Counted [(p, c, 0)] s s := by
  intro q k _
  rw [List.filter_cons]
  split <;> simp

/-- The transmission under way, if there is one, is cut off (R4). -/
theorem cutTransmission_spec (p : Port) (s : State) :
    ∃ ports free, cutTransmission p s = { s with ports, pool := { s.pool with free } }
      ∧ (∀ q, (ports.get q).linkUp = (s.port q).linkUp ∧ (ports.get q).rx = (s.port q).rx
          ∧ (ports.get q).tx = if q = p then none else (s.port q).tx)
      ∧ Counted [(p, .linkDownDiscards, if (s.port p).tx.isSome then 1 else 0)] s (cutTransmission p s)
      ∧ (∀ c, c ∈ s.pool.free → c ∈ free) ∧ ∀ d c, sends s p (.pool d) → c ∈ d.cells → c ∈ free := by
  unfold cutTransmission
  cases htx : (s.port p).tx with
  | none =>
    refine ⟨s.ports, s.pool.free, rfl, fun q => ⟨rfl, rfl, ?_⟩, counted_zero _ _ s, fun c h => h, fun d c hd => ?_⟩
    · split
      · next hq => rw [hq]; exact htx
      · rfl
    · obtain ⟨x, hx, _⟩ := hd
      rw [htx] at hx
      cases hx
  | some t =>
    obtain ⟨free, hfree, hmore, hcells⟩ := freeItem_shape t.item s
    simp only [hfree]
    refine ⟨_, free, rfl, fun q => ?_, ?_, hmore, fun d c hd hc => ?_⟩
    · obtain ⟨h1, h2, h3⟩ := count_other p q .linkDownDiscards 1 (clearTx p { s with pool := { s.pool with free } })
      obtain ⟨k1, k2, k3, _⟩ := clearTx_ports p q { s with pool := { s.pool with free } }
      exact ⟨h1.trans k1, h2.trans k2, h3.trans k3⟩
    · refine Counted.trans (a := []) (t := clearTx p { s with pool := { s.pool with free } }) (fun q c _ => ?_)
        (count_counted p .linkDownDiscards 1 _)
      rw [(clearTx_ports p q _).2.2.2]
      simp only [List.filter_nil, List.map_nil, List.sum_nil, BitVec.add_zero]
      rfl
    · obtain ⟨x, hx, hi⟩ := hd
      rw [htx] at hx
      cases hx
      exact hcells d c hi hc

/-- A port whose link has gone: its reception, its transmission and its local queue are lost (R4). -/
def cutPort (p : Port) (s : State) : State :=
  flushLocal p (cutTransmission p (s.setPort p { s.port p with linkUp := false, rx := none }))

/-- What a port cut off leaves, and what it counts. -/
theorem cutPort_spec (p : Port) (s : State) :
    ∃ ports free, cutPort p s
        = { s with ports, queues := { s.queues with locals := s.queues.locals.set p [] }, pool := { s.pool with free } }
      ∧ (∀ q, (ports.get q).linkUp = (if q = p then false else (s.port q).linkUp)
          ∧ (ports.get q).rx = (if q = p then none else (s.port q).rx)
          ∧ (ports.get q).tx = if q = p then none else (s.port q).tx)
      ∧ Counted [(p, .linkDownDiscards, if (s.port p).tx.isSome then 1 else 0),
          (p, .linkDownDiscards, (s.localQ p).length)] s (cutPort p s)
      ∧ (∀ c, c ∈ s.pool.free → c ∈ free)
      ∧ ∀ d c, sends s p (.pool d) → c ∈ d.cells → c ∈ free := by
  let s1 := s.setPort p { s.port p with linkUp := false, rx := none }
  have hs1 : ∀ q, (s1.port q).linkUp = (if q = p then false else (s.port q).linkUp)
      ∧ (s1.port q).rx = (if q = p then none else (s.port q).rx) ∧ (s1.port q).tx = (s.port q).tx := by
    intro q
    show ((s.ports.set p _).get q).linkUp = _ ∧ ((s.ports.set p _).get q).rx = _ ∧ ((s.ports.set p _).get q).tx = _
    rw [PerPort.get_set]
    split
    · next hq => subst hq; exact ⟨rfl, rfl, rfl⟩
    · exact ⟨rfl, rfl, rfl⟩
  have hc1 : Counted [] s s1 := (Counted.refl s).kept (setPort_kept.2.2 rfl)
  obtain ⟨ports, free, hcut, hports, hcount, hmore, hcells⟩ := cutTransmission_spec p s1
  have hshape : cutPort p s = count p .linkDownDiscards (s.localQ p).length
      ((cutTransmission p s1).setLocalQ p []) := by
    show flushLocal p (cutTransmission p s1) = _
    unfold flushLocal
    rw [show (cutTransmission p s1).localQ p = s.localQ p by rw [hcut]; rfl]
  have hlocal : Counted [] (cutTransmission p s1) ((cutTransmission p s1).setLocalQ p []) := (Counted.refl _).kept fun _ _ _ => rfl
  refine ⟨(cutPort p s).ports, free, ?_, fun q => ?_, ?_, hmore, fun d c ⟨x, hx, hi⟩ => hcells d c ⟨x, ?_, hi⟩⟩
  · rw [hshape, hcut]; rfl
  · obtain ⟨h1, h2, h3⟩ := count_other p q .linkDownDiscards (s.localQ p).length ((cutTransmission p s1).setLocalQ p [])
    obtain ⟨k1, k2, k3⟩ := hports q
    have hq : ((cutTransmission p s1).setLocalQ p []).port q = ports.get q := by rw [hcut]; rfl
    rw [hshape]
    refine ⟨h1.trans ?_, h2.trans ?_, h3.trans ?_⟩
    · rw [hq, k1, (hs1 q).1]
    · rw [hq, k2, (hs1 q).2.1]
    · rw [hq, k3, (hs1 q).2.2]
  · rw [hshape]
    rw [(hs1 p).2.2] at hcount
    exact ((hc1.trans hcount).trans hlocal).trans (count_counted _ _ _ _)
  · rw [(hs1 p).2.2]; exact hx

/-- Settles O35: the cut of the port, and the flush of its other queue. -/
theorem accessLinkLossFlushesThePort : Obligations.AccessLinkLossFlushesThePort := by
  intro p s hrole
  refine ⟨fun hdown => ?_, fun hup => ⟨_, if_pos hup, ?_⟩⟩
  · exact if_neg (by simp [hdown])
  have hop : linkGoesDown p s.begun = flushDown p (cutPort p s.begun) := by
    cases p with
    | bh l => exact absurd rfl hrole
    | _ => rfl
  obtain ⟨ports, free, hcut, hports, hcount, hmore, hcells⟩ := cutPort_spec p s.begun
  have hflush : flushDown p (cutPort p s.begun) = count p .linkDownDiscards (s.queues.down.get p).length
      { s.begun with
        ports, queues := { s.queues with locals := s.queues.locals.set p [], down := s.queues.down.set p [] }
        pool := { s.pool with free := ((s.queues.down.get p).map fun d => d.cells).flatten ++ free } } := by
    rw [hcut]; rfl
  rw [hflush] at hop
  let x : State := { s.begun with
    ports, queues := { s.queues with locals := s.queues.locals.set p [], down := s.queues.down.set p [] }
    pool := { s.pool with free := ((s.queues.down.get p).map fun d => d.cells).flatten ++ free } }
  let u : State := count p .linkDownDiscards (s.queues.down.get p).length x
  have hx : ∀ q, (u.port q).linkUp
        = (if q = p then false else (s.port q).linkUp)
      ∧ (u.port q).rx = (if q = p then none else (s.port q).rx)
      ∧ (u.port q).tx = (if q = p then none else (s.port q).tx) :=
    fun q =>
      have ⟨h1, h2, h3⟩ := count_other p q .linkDownDiscards (s.queues.down.get p).length x
      have ⟨k1, k2, k3⟩ := hports q
      ⟨h1.trans k1, h2.trans k2, h3.trans k3⟩
  have hlocals : ∀ q, x.localQ q = if q = p then [] else s.localQ q := fun q => by
    show (s.queues.locals.set p []).get q = _
    rw [PerPort.get_set]
    rfl
  have hsend : ∀ q g, sends u q (.store g) → sends s q (.store g) := by
    rintro q g ⟨y, hy, hi⟩
    rw [(hx q).2.2] at hy
    split at hy
    · cases hy
    · exact ⟨y, hy, hi⟩
  have hsuffix : ∀ q, x.localQ q <:+ s.localQ q := fun q => by
    rw [hlocals]
    split
    · exact List.nil_suffix
    · exact List.suffix_refl _
  obtain ⟨hkept, hdep⟩ := event_writes hop
    ((port_writes s ports _ _ noWork).trans ((count_steady p _ _ x).writes.mono (by simp)))
    (told_same rfl rfl rfl hsuffix fun q g h => .inl (hsend q g h)) hsuffix hsend
  have hsilent := hdep.2.silent p (by rw [(hx p).1, if_pos rfl])
  refine ⟨fun q => ?_, fun q => ?_, ?_, ?_, ?_, ?_, fun d c hd hc => ?_, fun d c hd hc => ?_, ?_, hkept⟩
  · rw [hdep.1 .linkUp rfl q, (hx q).1]
  · rw [hdep.1 .reception rfl q, (hx q).2.1]
  · rw [hsilent.1, (hx p).2.2, if_pos rfl]
  · rw [hsilent.2]
    exact (hlocals p).trans (if_pos rfl)
  · have hsub := hdep.2.down p
    rw [show u.queues.down.get p = [] from PerPort.get_set_same _ _ _] at hsub
    exact List.suffix_nil.1 hsub
  · have hcount' : Counted _ s (cutPort p s.begun) := hcount
    have hflushed : Counted [] (cutPort p s.begun) x := (Counted.refl _).kept fun q c _ => by rw [hcut]; rfl
    exact ((hcount'.trans hflushed).trans (count_counted _ _ _ _)).departs hdep
  · exact hdep.2.free c (List.mem_append_left _ (List.mem_flatten.2 ⟨_, List.mem_map.2 ⟨d, hd, rfl⟩, hc⟩))
  · exact hdep.2.free c (List.mem_append_right _ (hcells d c hd hc))
  · refine TrafficKept.trans (t := u)
      (TrafficKept.of_more rfl (fun q => ?_) fun c hc => ?_) (fun q => ?_) hdep
    · rw [(hx q).2.2]
      show _ = ((s.ports.set p _).get q).tx
      rw [PerPort.get_set]
      split <;> rfl
    · exact List.mem_append_right _ (hmore c hc)
    · rw [(hx q).1]
      show _ = ((s.ports.set p _).get q).linkUp
      rw [PerPort.get_set]
      split <;> rfl

/-! ## The arbiter that an event calls first -/

/-- With one port called, that port is served. -/
theorem nextServed_only {s : State} {p : Port} (h : s.ev.kick = noWork.kick.set p true) : nextServed s = (some p, s) := by
  unfold nextServed
  rw [h]
  cases p with
  | ap i => fin_cases i <;> rfl
  | sp => rfl
  | bh l => cases l <;> rfl

/-- What the first port served starts is under way at the end of the event. -/
theorem settle_serves {s : State} {p : Port} (ho : s.ev.outbox = []) (hn : nextServed s = (some p, s)) :
    Departs (serve p s) (settle s) := by
  have hround : settleRounds 64 s = settleRounds 63 (serve p s) := by
    rw [settleRounds, ho, hn]
    rfl
  have hdep := settleRounds_departs 63 (serve p s)
  rw [← hround] at hdep
  exact hdep.trans (ev_still _ _).departs

/-- An idle access port with its link up starts the head of its local queue (R18). -/
theorem serveAccess_sends_local {p : Port} {s : State} {f : LocalFrame} {rest : List LocalFrame} (hup : (s.port p).linkUp = true)
    (htx : (s.port p).tx = none) (hq : s.localQ p = f :: rest) : sends (serveAccess p s) p (.store f) := by
  unfold serveAccess
  rw [if_pos (by simp [hup, htx]), hq]
  exact beginTx_tx _ _ _ _

/-- With no local frame it starts the head of its other queue (R18). -/
theorem serveAccess_sends_down {p : Port} {s : State} {d : Descriptor} {rest : List Descriptor} (hup : (s.port p).linkUp = true)
    (htx : (s.port p).tx = none) (hq : s.localQ p = []) (hd : s.queues.down.get p = d :: rest) :
    sends (serveAccess p s) p (.pool d) := by
  unfold serveAccess
  rw [if_pos (by simp [hup, htx]), hq]
  simp only [hd]
  split <;> exact beginTx_tx _ _ _ _

/-! ## The end of a transmission (R15, R18, R99) -/

/-- The bytes departed of a tenant frame (R60, R99). -/
theorem countDeparted_spec (item : TxItem) (n : Nat) (s : State) :
    (∃ tenants, countDeparted item n s = { s with tenants }) ∧ Steady [.tallies] s (countDeparted item n s)
      ∧ ∀ i, ((countDeparted item n s).tenant i).departed
            = (s.tenant i).departed + (if carriesTenant item i = true then BitVec.ofNat 64 n else 0)
          ∧ ((countDeparted item n s).tenant i).accepted = (s.tenant i).accepted
          ∧ ((countDeparted item n s).tenant i).dropped = (s.tenant i).dropped := by
  have hsame : (∀ i, carriesTenant item i = false) → countDeparted item n s = s →
      (∃ tenants, countDeparted item n s = { s with tenants }) ∧ Steady [.tallies] s (countDeparted item n s)
      ∧ ∀ i, ((countDeparted item n s).tenant i).departed
            = (s.tenant i).departed + (if carriesTenant item i = true then BitVec.ofNat 64 n else 0)
          ∧ ((countDeparted item n s).tenant i).accepted = (s.tenant i).accepted
          ∧ ((countDeparted item n s).tenant i).dropped = (s.tenant i).dropped := by
    intro hno he
    rw [he]
    exact ⟨⟨_, rfl⟩, Steady.refl _ _, fun i => ⟨by simp [hno i], rfl, rfl⟩⟩
  cases item with
  | store f => exact hsame (fun _ => rfl) rfl
  | pool d =>
    by_cases hd : ∃ t, d.cls = .tenant ∧ d.tenant = some t
    · obtain ⟨t, hcls, ht⟩ := hd
      have he : countDeparted (.pool d) n s
          = s.setTenant t { s.tenant t with departed := (s.tenant t).departed + BitVec.ofNat 64 n } := by
        simp only [countDeparted, hcls, ht]
      rw [he]
      refine ⟨⟨_, rfl⟩, tallies_steady t _ s rfl ⟨rfl, rfl⟩, fun i => ?_⟩
      show (tget (tset s.tenants t _) i).departed = _ ∧ (tget (tset s.tenants t _) i).accepted = _
        ∧ (tget (tset s.tenants t _) i).dropped = _
      rw [tget_tset]
      by_cases hi : i = t
      · subst hi
        simp [carriesTenant, hcls, ht]
      · have hne : ¬t = i := fun h => hi h.symm
        simp [carriesTenant, hcls, ht, hi, hne, State.tenant]
    · refine hsame (fun i => decide_eq_false fun h => hd ⟨i, h⟩) ?_
      simp only [countDeparted]
      split
      · next t hcls ht => exact absurd ⟨t, hcls, ht⟩ hd
      · rfl

/-- What the end of a transmission leaves: the count, the free cells, and the call of the port's arbiter. -/
theorem endTx_spec (p : Port) (x : Transmission) (s : State) :
    ∃ ports tenants free, endTx p x s
        = { s with ports, tenants, pool := { s.pool with free }, ev := { s.ev with kick := s.ev.kick.set p true } }
      ∧ (∀ q, (ports.get q).linkUp = (s.port q).linkUp ∧ (ports.get q).rx = (s.port q).rx
          ∧ (ports.get q).tx = if q = p then none else (s.port q).tx)
      ∧ Counted [(p, .framesTransmitted, 1), (p, .bytesTransmitted, x.bytes.length)] s (endTx p x s)
      ∧ (∀ c, c ∈ s.pool.free → c ∈ free) ∧ (∀ d c, x.item = .pool d → c ∈ d.cells → c ∈ free)
      ∧ (roleOf p ≠ .backhaul → tenants = s.tenants)
      ∧ (roleOf p = .backhaul → tenants = (countDeparted x.item x.bytes.length s).tenants) := by
  let s1 := count p .bytesTransmitted x.bytes.length (count p .framesTransmitted 1 s)
  let s2 := if roleOf p = .backhaul then countDeparted x.item x.bytes.length s1 else s1
  have hs2 : ∃ tenants, s2 = { s1 with tenants }
      ∧ (roleOf p ≠ .backhaul → tenants = s.tenants)
      ∧ (roleOf p = .backhaul → tenants = (countDeparted x.item x.bytes.length s).tenants) := by
    by_cases hr : roleOf p = .backhaul
    · obtain ⟨⟨tenants, he⟩, _⟩ := countDeparted_spec x.item x.bytes.length s1
      refine ⟨tenants, (if_pos hr).trans he, fun h => absurd hr h, fun _ => ?_⟩
      have hsame : (countDeparted x.item x.bytes.length s1).tenants = (countDeparted x.item x.bytes.length s).tenants := by
        unfold countDeparted
        cases x.item with
        | store f => rfl
        | pool d => simp only; split <;> rfl
      rw [← hsame, he]
    · exact ⟨s.tenants, if_neg hr, fun _ => rfl, fun h => absurd h hr⟩
  obtain ⟨tenants, he2, hacc, hback⟩ := hs2
  obtain ⟨free, hfree, hmore, hcells⟩ := freeItem_shape x.item s2
  have hend : endTx p x s = kick p (clearTx p { s2 with pool := { s2.pool with free } }) := by
    show kick p (clearTx p (freeItem x.item s2)) = _
    rw [hfree]
  have hcount1 : ∀ q, (s1.port q).linkUp = (s.port q).linkUp ∧ (s1.port q).rx = (s.port q).rx
      ∧ (s1.port q).tx = (s.port q).tx := fun q =>
    have ⟨h1, h2, h3⟩ := count_other p q .bytesTransmitted x.bytes.length (count p .framesTransmitted 1 s)
    have ⟨k1, k2, k3⟩ := count_other p q .framesTransmitted 1 s
    ⟨h1.trans k1, h2.trans k2, h3.trans k3⟩
  have hsame2 : ∀ q, ({ s2 with pool := { s2.pool with free } } : State).port q = s1.port q := fun q => by rw [he2]; rfl
  refine ⟨(endTx p x s).ports, tenants, free, ?_, fun q => ?_, ?_, fun c hc => hmore c (by rw [he2]; exact hc), hcells, hacc, hback⟩
  · rw [hend, he2]
    rfl
  · rw [hend]
    obtain ⟨h1, h2, h3, _⟩ := clearTx_ports p q { s2 with pool := { s2.pool with free } }
    obtain ⟨k1, k2, k3⟩ := hcount1 q
    rw [hsame2] at h1 h2 h3
    rw [k3] at h3
    exact ⟨h1.trans k1, h2.trans k2, h3⟩
  · have hcounted : Counted [(p, .framesTransmitted, 1), (p, .bytesTransmitted, x.bytes.length)] s s1 :=
      (count_counted p .framesTransmitted 1 s).trans (count_counted p .bytesTransmitted _ _)
    refine hcounted.kept fun q c _ => ?_
    rw [hend]
    show tget ((clearTx p _).port q).counters _ = _
    rw [(clearTx_ports p q _).2.2.2, hsame2]

theorem Writes.drop {w v : List Part} {s t : State} (h : Writes w s t) (k : ∀ a, a ∈ w → a ∉ v → a.kept s t) :
    Writes v s t := fun a ha hx => by
  by_cases hw : a ∈ w
  · exact k a hw ha
  · exact h a hw hx

/-- The end of a transmission writes counters, frames, and on a backhaul port a tenant's bytes departed. -/
theorem endTx_writes (p : Port) (x : Transmission) (s : State) :
    Writes [.counters, .traffic, .tallies] s (endTx p x s)
      ∧ (roleOf p ≠ .backhaul → Writes [.counters, .traffic] s (endTx p x s)) := by
  obtain ⟨ports, tenants, free, he, hports, _, _, _, hacc, hback⟩ := endTx_spec p x s
  have hrest : Writes [.counters, .traffic] { s with tenants } (endTx p x s) := by
    rw [he]
    refine (port_writes { s with tenants } ports s.queues free { s.ev with kick := s.ev.kick.set p true }).drop fun a ha hv => ?_
    simp only [List.mem_cons, List.not_mem_nil, or_false] at ha hv
    rcases ha with rfl | rfl | rfl | rfl
    · exact fun q => (hports q).1
    · exact fun q => (hports q).2.1
    · exact absurd (.inl rfl) hv
    · exact absurd (.inr rfl) hv
  by_cases hr : roleOf p = .backhaul
  · refine ⟨?_, fun h => absurd hr h⟩
    obtain ⟨⟨tenants', hd⟩, hsteady, _⟩ := countDeparted_spec x.item x.bytes.length s
    have ht : ({ s with tenants } : State) = countDeparted x.item x.bytes.length s := by rw [hback hr, hd]
    rw [ht] at hrest
    exact (hsteady.writes.mono (by simp)).trans (hrest.mono (by simp))
  · have ht : ({ s with tenants } : State) = s := by rw [hacc hr]
    rw [ht] at hrest
    exact ⟨hrest.mono (by simp), fun _ => hrest⟩

/-- The event of a transmission that ends (R18, R99). -/
theorem endTx_event {f : State → State} {p : Port} {x : Transmission} {s : State} (hop : f s.begun = endTx p x s.begun) :
    let t := event f s
    Departs (endTx p x s.begun) t ∧ Departs (serve p (endTx p x s.begun)) t
      ∧ Counted [(p, .framesTransmitted, 1), (p, .bytesTransmitted, x.bytes.length)] s t
      ∧ TrafficKept { s with ports := s.ports.set p { s.port p with tx := none } } t
      ∧ (∀ d c, x.item = .pool d → c ∈ d.cells → c ∈ t.pool.free)
      ∧ Kept [.counters, .traffic, .tallies] s t ∧ (roleOf p ≠ .backhaul → Kept [.counters, .traffic] s t) := by
  intro t
  obtain ⟨ports, tenants, free, he, hports, hcount, hmore, hcells, _, _⟩ := endTx_spec p x s.begun
  have hport : ∀ q, (endTx p x s.begun).port q = ports.get q := fun q => by rw [he]; rfl
  have hqueues : (endTx p x s.begun).queues = s.queues := by rw [he]
  obtain ⟨hw, hw'⟩ := endTx_writes p x s.begun
  have hsend : ∀ q g, sends (endTx p x s.begun) q (.store g) → sends s q (.store g) := by
    rintro q g ⟨y, hy, hi⟩
    rw [hport, (hports q).2.2] at hy
    split at hy
    · cases hy
    · exact ⟨y, hy, hi⟩
  have hsuffix : ∀ q, (endTx p x s.begun).localQ q <:+ s.localQ q := fun q => by
    unfold State.localQ
    rw [hqueues]
  have htold : Told s.begun (endTx p x s.begun) :=
    told_same (by rw [he]) (by rw [he]) (by rw [he]) hsuffix fun q g h => .inl (hsend q g h)
  obtain ⟨hkept, hdep⟩ := event_writes hop (((ev_steady s noWork).writes.mono (by simp)).trans hw) htold hsuffix hsend
  have hserve : Departs (serve p (endTx p x s.begun)) t := by
    show Departs _ (settle (f s.begun))
    rw [hop]
    refine settle_serves (by rw [he]; rfl) (nextServed_only ?_)
    rw [he]
  refine ⟨hdep, hserve, hcount.departs hdep, ?_, fun d c hd hc => ?_, hkept, fun hr => ?_⟩
  · refine TrafficKept.trans (TrafficKept.of_more hqueues (fun q => ?_) fun c hc => ?_) (fun q => ?_) hdep
    · rw [hport, (hports q).2.2]
      show _ = ((s.ports.set p _).get q).tx
      rw [PerPort.get_set]
      split <;> rfl
    · rw [he]
      exact hmore c hc
    · rw [hport, (hports q).1]
      show _ = ((s.ports.set p _).get q).linkUp
      rw [PerPort.get_set]
      split
      · next hq => rw [hq]; rfl
      · rfl
  · refine hdep.2.free c ?_
    rw [he]
    exact hcells d c hd hc
  · exact (event_writes hop (((ev_steady s noWork).writes.mono (by simp)).trans (hw' hr)) htold hsuffix hsend).1

theorem finishTx_due {p : Port} {x : Transmission} {s : State} (htx : (s.port p).tx = some x)
    (hr : reached s.now x.ends = true) : txDue p s = true ∧ finishTx p s.begun = endTx p x s.begun := by
  have htx' : (s.begun.port p).tx = some x := htx
  refine ⟨by simp only [txDue, htx, hr], ?_⟩
  unfold finishTx
  rw [htx']
  exact if_pos hr

/-- Settles O38: the end, and the next frame of the port that it calls. -/
theorem accessTransmissionEnds : Obligations.AccessTransmissionEnds := by
  intro p s x hp htx
  refine ⟨fun hr => if_neg (by simp [txDue, htx, hr]), fun hr => ?_⟩
  obtain ⟨hdue, hop⟩ := finishTx_due htx hr
  obtain ⟨hdep, hserve, hcount, htraffic, hcells, _, hkept⟩ := endTx_event hop
  have hrole : roleOf p ≠ .backhaul := by
    cases p with
    | bh l => cases hp
    | _ => exact fun h => nomatch h
  have hidle : ∀ item, (s.port p).linkUp = true →
      ((∃ f rest, s.localQ p = f :: rest ∧ item = .store f)
        ∨ ∃ d rest, s.localQ p = [] ∧ s.queues.down.get p = d :: rest ∧ item = .pool d) →
      sends (event (finishTx p) s) p item := by
    intro item hup hitem
    obtain ⟨ports, tenants, free, he, hports, _⟩ := endTx_spec p x s.begun
    let u : State := { endTx p x s.begun with
      ev := { (endTx p x s.begun).ev with kick := (endTx p x s.begun).ev.kick.set p false } }
    have hsame : serve p (endTx p x s.begun) = serveAccess p u := by
      cases p with
      | bh l => exact absurd rfl hrole
      | _ => rfl
    have hport : u.port p = ports.get p := by
      show (endTx p x s.begun).port p = _
      rw [he]; rfl
    have hup' : (u.port p).linkUp = true := by rw [hport, (hports p).1]; exact hup
    have hnone : (u.port p).tx = none := by rw [hport, (hports p).2.2, if_pos rfl]
    have hq : u.localQ p = s.localQ p ∧ u.queues.down.get p = s.queues.down.get p := by
      show (endTx p x s.begun).queues.locals.get p = _ ∧ (endTx p x s.begun).queues.down.get p = _
      rw [he]; exact ⟨rfl, rfl⟩
    have hsends : sends (serve p (endTx p x s.begun)) p item := by
      rw [hsame]
      rcases hitem with ⟨f, rest, hf, rfl⟩ | ⟨d, rest, hl, hd, rfl⟩
      · exact serveAccess_sends_local hup' hnone (hq.1.trans hf)
      · exact serveAccess_sends_down hup' hnone (hq.1.trans hl) (hq.2.trans hd)
    obtain ⟨y, hy, hi⟩ := hsends
    exact ⟨y, hserve.2.going p y hy, hi⟩
  exact ⟨_, if_pos (by simp [hp, hdue]), hcount, htraffic, hcells,
    fun hup => ⟨fun f rest hf => hidle _ hup (.inl ⟨f, rest, hf, rfl⟩),
      fun d rest hl hd => hidle _ hup (.inr ⟨d, rest, hl, hd, rfl⟩)⟩, hkept hrole⟩

end Sys2Proof.Machine
end

section
/-!
PROOF. A selection pass of a ready backhaul port (R90 to R98): the buckets that it reads and charges, the aged heads that
its walk of the tenants discards, and the frame that it starts.
-/

namespace Sys2Proof.Machine

/-! ## Buckets brought up to date and charged (R84, R85) -/

/-- Where a bucket is brought up to date, no other bucket and no pointer changes. -/
theorem touch_spec (i : BucketId) (s : State) :
    ∃ d e, touch i s = { s with sched := d, ev := e } ∧ e.outbox = s.ev.outbox ∧ d.pointer = s.sched.pointer
      ∧ ∀ j, (touch i s).bucket j = if j = i then (s.bucket i).refresh s.nowNs else s.bucket j := by
  have hset : ∀ b : Bucket, ∃ d, s.setBucket i b = { s with sched := d } ∧ d.pointer = s.sched.pointer := fun b => by
    cases i <;> exact ⟨_, rfl, rfl⟩
  obtain ⟨d, hd, hp⟩ := hset ((s.bucket i).refresh s.nowNs)
  have hkick : ∃ e, touch i s = { s.setBucket i ((s.bucket i).refresh s.nowNs) with ev := e } ∧ e.outbox = s.ev.outbox := by
    unfold touch
    simp only
    split
    · cases i <;> exact ⟨_, rfl, rfl⟩
    · cases i <;> exact ⟨s.ev, rfl, rfl⟩
  obtain ⟨e, he, ho⟩ := hkick
  refine ⟨d, e, by rw [he, hd], ho, hp, fun j => ?_⟩
  rw [he]
  show ({ s.setBucket i ((s.bucket i).refresh s.nowNs) with ev := e } : State).bucket j = _
  have hev : ({ s.setBucket i ((s.bucket i).refresh s.nowNs) with ev := e } : State).bucket j
      = (s.setBucket i ((s.bucket i).refresh s.nowNs)).bucket j := by cases j <;> rfl
  rw [hev, State.bucket_setBucket_of]

/-- A charge brings its bucket up to date first. -/
theorem charge_spec (i : BucketId) (n : Nat) (s : State) :
    ∃ d e, charge i n s = { s with sched := d, ev := e } ∧ e.outbox = s.ev.outbox ∧ d.pointer = s.sched.pointer
      ∧ ∀ j, (charge i n s).bucket j = if j = i then chargedNow i n s else s.bucket j := by
  obtain ⟨d, e, he, ho, hp, hb⟩ := touch_spec i s
  have hset : ∀ (u : State) (b : Bucket), ∃ d, u.setBucket i b = { u with sched := d } ∧ d.pointer = u.sched.pointer :=
    fun u b => by cases i <;> exact ⟨_, rfl, rfl⟩
  obtain ⟨d', hd', hp'⟩ := hset (touch i s) (((touch i s).bucket i).charge n)
  refine ⟨d', e, ?_, ho, ?_, fun j => ?_⟩
  · show (touch i s).setBucket i (((touch i s).bucket i).charge n) = _
    rw [hd', he]
  · rw [hp', he]; exact hp
  · show ((touch i s).setBucket i (((touch i s).bucket i).charge n)).bucket j = _
    rw [State.bucket_setBucket_of, hb, hb]
    simp only [if_true]
    split
    · simp only [Bucket.charge, chargedNow, Nat.cast_mul, Nat.cast_ofNat]
    · rfl

/-! ## The aged heads of a tenant's queue (R95) -/

/-- What the discards of a tenant's aged heads leave. -/
theorem ageHeads_full (i : Tenant) (q : List Descriptor) (s : State) :
    let aged := isAged s.now (s.tenantCfg i).maxAge
    (∃ tenants free mgmt ev, ageHeads i q s = { s with
        tenants, mgmt, ev, pool := { s.pool with free }
        queues := { s.queues with tenant := tset s.queues.tenant i (q.dropWhile aged) } })
      ∧ (∀ k, (ageHeads i q s).tenant k = if k = i then
          { s.tenant i with aged := (s.tenant i).aged + BitVec.ofNat 64 (q.takeWhile aged).length } else s.tenant k)
      ∧ (ageHeads i q s).latch (.agedDiscard i)
          = (q.takeWhile aged).foldl (fun x _ => x.occur s.nowNs none) (s.latch (.agedDiscard i))
      ∧ (∀ c, c ≠ .agedDiscard i → (ageHeads i q s).latch c = s.latch c)
      ∧ (∀ c, c ∈ s.pool.free → c ∈ (ageHeads i q s).pool.free)
      ∧ ∀ d c, d ∈ q.takeWhile aged → c ∈ d.cells → c ∈ (ageHeads i q s).pool.free := by
  induction q generalizing s with
  | nil =>
    refine ⟨⟨_, _, _, _, rfl⟩, fun k => ?_, rfl, fun c _ => rfl, fun c h => h, fun d c h => by cases h⟩
    split
    · next hk => subst hk; simp [ageHeads, State.tenant, State.setTenantQ]
    · rfl
  | cons d rest ih =>
    intro aged
    by_cases hd : aged d = true
    · have hage : ageHeads i (d :: rest) s = ageHeads i rest (discardAged i d s) := if_pos hd
      obtain ⟨x, e, hraise⟩ := raise_shape (.agedDiscard i) none
        ((freeCells d s).setTenant i { s.tenant i with aged := (s.tenant i).aged + 1 })
      have hshape : discardAged i d s = { s with
          tenants := tset s.tenants i { s.tenant i with aged := (s.tenant i).aged + 1 }
          pool := { s.pool with free := d.cells ++ s.pool.free }
          mgmt := { latches := tset s.mgmt.latches (Cond.agedDiscard i).idx ((s.latch (.agedDiscard i)).occur s.nowNs none)
                    notice := x }
          ev := e } := hraise
      have hlat : (discardAged i d s).latch (.agedDiscard i) = (s.latch (.agedDiscard i)).occur s.nowNs none :=
        raise_latch_same _ _ _
      have hother : ∀ c, c ≠ .agedDiscard i → (discardAged i d s).latch c = s.latch c := fun c hc =>
        raise_latch_other _ _ _ _ hc
      have htenant : ∀ k, (discardAged i d s).tenant k
          = if k = i then { s.tenant i with aged := (s.tenant i).aged + 1 } else s.tenant k := fun k => by
        rw [hshape]; exact tget_tset _ _ _ _
      have hfree : (discardAged i d s).pool.free = d.cells ++ s.pool.free := by rw [hshape]
      obtain ⟨⟨tenants, free, mgmt, ev, he⟩, ht, hl, ho, hf, hc⟩ := ih (discardAged i d s)
      have haged : isAged (discardAged i d s).now ((discardAged i d s).tenantCfg i).maxAge = aged := by rw [hshape]; rfl
      have hnow : (discardAged i d s).nowNs = s.nowNs := by rw [hshape]; rfl
      rw [haged] at he ht hl hc
      rw [hage, List.takeWhile_cons_of_pos hd, List.dropWhile_cons_of_pos hd]
      refine ⟨⟨tenants, free, mgmt, ev, by rw [he, hshape]⟩, fun k => ?_, ?_, fun c h => (ho c h).trans (hother c h),
        fun c h => hf c (by rw [hfree]; exact List.mem_append_right _ h), fun d' c hd' hcell => ?_⟩
      · rw [ht, htenant, htenant, if_pos rfl]
        split
        · rw [List.length_cons, Nat.add_comm, BitVec.ofNat_add]
          simp only [BitVec.add_assoc]
          rfl
        · rfl
      · rw [hl, hlat, hnow]; rfl
      · rcases List.mem_cons.1 hd' with rfl | hd'
        · exact hf c (by rw [hfree]; exact List.mem_append_left _ hcell)
        · exact hc d' c hd' hcell
    · have hage : ageHeads i (d :: rest) s = s.setTenantQ i (d :: rest) := if_neg hd
      rw [hage, List.takeWhile_cons_of_neg hd, List.dropWhile_cons_of_neg hd]
      refine ⟨⟨s.tenants, s.pool.free, s.mgmt, s.ev, rfl⟩, fun k => ?_, rfl, fun c _ => rfl, fun c h => h, fun d c h => by cases h⟩
      split
      · next hk => subst hk; simp [State.tenant, State.setTenantQ]
      · rfl

/-! ## The walk of the tenants (R94, R95) -/

/-- A walk over the given tenants examines a tenant's head for age: an active one, up to the one that it serves. -/
def examinedIn (l : Link) (ts : List Tenant) (s : State) (i : Tenant) : Prop :=
  (s.tenantCfg i).active = true ∧ (ts.find? (tenantGoes l s) = some i ∨ i ∈ ts.takeWhile fun k => !tenantGoes l s k)

/-- Walked, of a walk over the given tenants. -/
structure WalkedOn (l : Link) (ts : List Tenant) (s t : State) : Prop where
  queue : ∀ i, examinedIn l ts s i →
    t.tenantQ i = if ts.find? (tenantGoes l s) = some i then (freshQ s i).tail else freshQ s i
  others : ∀ i, ¬examinedIn l ts s i → t.tenantQ i = s.tenantQ i ∧ t.tenant i = s.tenant i
  aged : ∀ i, examinedIn l ts s i → (t.tenant i).aged = (s.tenant i).aged + BitVec.ofNat 64 (agedHeads s i).length
  condition : ∀ i, examinedIn l ts s i →
    t.latch (.agedDiscard i) = (agedHeads s i).foldl (fun x _ => x.occur s.nowNs none) (s.latch (.agedDiscard i))
  latches : ∀ c, (∀ i, c = .agedDiscard i → ¬examinedIn l ts s i) → t.latch c = s.latch c
  free : ∀ c, c ∈ s.pool.free → c ∈ t.pool.free
  cells : ∀ i d c, examinedIn l ts s i → d ∈ agedHeads s i → c ∈ d.cells → c ∈ t.pool.free
  serves : ∀ i d, ts.find? (tenantGoes l s) = some i → (freshQ s i).head? = some d →
    (t.port (.bh l)).tx = some { item := .pool d, bytes := d.frame, ends := txEnd s.now false d.frame.length }
      ∧ t.sched.pointer = s.sched.pointer.set l i
      ∧ t.bucket (.tenant i) = chargedNow (.tenant i) d.length s
      ∧ t.bucket (.pacing l) = chargedNow (.pacing l) d.length s
  rests : ts.find? (tenantGoes l s) = none → (t.port (.bh l)).tx = none ∧ t.sched.pointer = s.sched.pointer

/-- Two states agree on what a walk reads of the given tenants and of the link. -/
structure Agrees (l : Link) (ts : List Tenant) (s u : State) : Prop where
  cfg : u.cfg = s.cfg
  links : u.links = s.links
  time : u.time = s.time
  queue : ∀ i ∈ ts, u.tenantQ i = s.tenantQ i
  bucket : ∀ i ∈ ts, u.bucket (.tenant i) = s.bucket (.tenant i)
  pacing : (u.bucket (.pacing l)).refresh s.nowNs = (s.bucket (.pacing l)).refresh s.nowNs
  pointer : u.sched.pointer = s.sched.pointer
  ports : (u.port (.bh l)).tx = (s.port (.bh l)).tx

theorem eligible_congr {s u : State} (h : u.links = s.links) (p : Option Pref) (l : Link) :
    eligible u p l = eligible s p l := by
  unfold eligible State.inService State.link
  rw [h]

theorem Agrees.fresh {l : Link} {ts : List Tenant} {s u : State} (h : Agrees l ts s u) {i : Tenant} (hi : i ∈ ts) :
    freshQ u i = freshQ s i ∧ agedHeads u i = agedHeads s i := by
  have hcfg : u.tenantCfg i = s.tenantCfg i := by unfold State.tenantCfg; rw [h.cfg]
  have hnow : u.now = s.now := by unfold State.now; rw [h.time]
  unfold freshQ agedHeads
  rw [h.queue i hi, hcfg, hnow]
  exact ⟨rfl, rfl⟩

theorem Agrees.goes {l : Link} {ts : List Tenant} {s u : State} (h : Agrees l ts s u) {i : Tenant} (hi : i ∈ ts) :
    tenantGoes l u i = tenantGoes l s i := by
  have hcfg : u.tenantCfg i = s.tenantCfg i := by unfold State.tenantCfg; rw [h.cfg]
  have hnow : u.nowNs = s.nowNs := by unfold State.nowNs; rw [h.time]
  unfold tenantGoes
  rw [(h.fresh hi).1, hcfg, h.bucket i hi, hnow]
  simp only [eligible_congr h.links]

/-- The walk serves and examines the same tenants in two states that agree. -/
theorem Agrees.examined {l : Link} {ts : List Tenant} {s u : State} (h : Agrees l ts s u) :
    ts.find? (tenantGoes l u) = ts.find? (tenantGoes l s)
      ∧ ∀ i, examinedIn l ts u i ↔ examinedIn l ts s i := by
  have hfind : ts.find? (tenantGoes l u) = ts.find? (tenantGoes l s) := by
    rw [← List.head?_filter, ← List.head?_filter, List.filter_congr fun i hi => h.goes hi]
  have hcongr : ∀ (xs : List Tenant), (∀ i ∈ xs, tenantGoes l u i = tenantGoes l s i) →
      (xs.takeWhile fun k => !tenantGoes l u k) = xs.takeWhile fun k => !tenantGoes l s k := by
    intro xs hxs
    induction xs with
    | nil => rfl
    | cons x xs ih =>
      rw [List.takeWhile_cons, List.takeWhile_cons, hxs x (by simp), ih fun i hi => hxs i (by simp [hi])]
  refine ⟨hfind, fun i => ?_⟩
  unfold examinedIn State.tenantCfg
  rw [h.cfg, hfind, hcongr ts fun i hi => h.goes hi]

theorem examinedIn_mem {l : Link} {ts : List Tenant} {s : State} {i : Tenant} (h : examinedIn l ts s i) : i ∈ ts := by
  rcases h.2 with h | h
  · exact List.mem_of_find?_eq_some h
  · exact (List.takeWhile_sublist _).subset h

/-- A tenant that the walk has examined and not served (R94, R95). -/
structure Passed (l : Link) (i : Tenant) (s u : State) : Prop where
  active : (s.tenantCfg i).active = true
  fails : tenantGoes l s i = false
  queue : u.tenantQ i = freshQ s i
  others : ∀ k, k ≠ i → u.tenantQ k = s.tenantQ k ∧ u.tenant k = s.tenant k
  aged : (u.tenant i).aged = (s.tenant i).aged + BitVec.ofNat 64 (agedHeads s i).length
  condition : u.latch (.agedDiscard i) = (agedHeads s i).foldl (fun x _ => x.occur s.nowNs none) (s.latch (.agedDiscard i))
  latches : ∀ c, c ≠ .agedDiscard i → u.latch c = s.latch c
  free : ∀ c, c ∈ s.pool.free → c ∈ u.pool.free
  cells : ∀ d c, d ∈ agedHeads s i → c ∈ d.cells → c ∈ u.pool.free

theorem examinedIn_cons {l : Link} {ts : List Tenant} {s : State} {j i : Tenant} (hf : tenantGoes l s j = false) :
    (j :: ts).find? (tenantGoes l s) = ts.find? (tenantGoes l s)
      ∧ (examinedIn l (j :: ts) s i ↔ (i = j ∧ (s.tenantCfg j).active = true) ∨ examinedIn l ts s i) := by
  have hfind : (j :: ts).find? (tenantGoes l s) = ts.find? (tenantGoes l s) := List.find?_cons_of_neg (by simp [hf])
  refine ⟨hfind, ?_⟩
  unfold examinedIn
  rw [hfind, List.takeWhile_cons_of_pos (by simp [hf]), List.mem_cons]
  constructor
  · rintro ⟨ha, h | rfl | h⟩
    · exact .inr ⟨ha, .inl h⟩
    · exact .inl ⟨rfl, ha⟩
    · exact .inr ⟨ha, .inr h⟩
  · rintro (⟨rfl, ha⟩ | ⟨ha, h⟩)
    · exact ⟨ha, .inr (.inl rfl)⟩
    · exact ⟨ha, h.imp id .inr⟩

/-- A walk goes on after a tenant that it has passed. -/
theorem WalkedOn.after {l : Link} {ts : List Tenant} {j : Tenant} {s u t : State} (hj : j ∉ ts) (hp : Passed l j s u)
    (ha : Agrees l ts s u) (h : WalkedOn l ts u t) : WalkedOn l (j :: ts) s t := by
  obtain ⟨hfind, hex⟩ := ha.examined
  have hnow : u.now = s.now := by unfold State.now; rw [ha.time]
  have hnowNs : u.nowNs = s.nowNs := by unfold State.nowNs; rw [ha.time]
  obtain ⟨hfind', -⟩ := examinedIn_cons (ts := ts) (i := j) hp.fails
  have hcases : ∀ i, examinedIn l (j :: ts) s i ↔ i = j ∨ examinedIn l ts s i := fun i => by
    rw [(examinedIn_cons hp.fails).2]
    simp [hp.active]
  have hnot : ¬examinedIn l ts s j := fun h => hj (examinedIn_mem h)
  have hnotU : ¬examinedIn l ts u j := fun h => hnot ((hex j).1 h)
  have hserved : ts.find? (tenantGoes l s) ≠ some j := fun h => hj (List.mem_of_find?_eq_some h)
  have hne : ∀ {i}, examinedIn l ts s i → i ≠ j := fun h hi => hnot (hi ▸ h)
  constructor
  · intro i hi
    rw [hfind']
    rcases (hcases i).1 hi with rfl | hi
    · rw [if_neg hserved, (h.others _ hnotU).1, hp.queue]
    · rw [h.queue i ((hex i).2 hi), hfind, (ha.fresh (examinedIn_mem hi)).1]
  · intro i hi
    have hi' : i ≠ j ∧ ¬examinedIn l ts s i := by simpa [hcases] using hi
    obtain ⟨h1, h2⟩ := h.others i fun hu => hi'.2 ((hex i).1 hu)
    exact ⟨h1.trans (hp.others i hi'.1).1, h2.trans (hp.others i hi'.1).2⟩
  · intro i hi
    rcases (hcases i).1 hi with rfl | hi
    · rw [(h.others _ hnotU).2, hp.aged]
    · rw [h.aged i ((hex i).2 hi), (ha.fresh (examinedIn_mem hi)).2, (hp.others i (hne hi)).2]
  · intro i hi
    rcases (hcases i).1 hi with rfl | hi
    · rw [h.latches _ fun k hk => by cases hk; exact hnotU, hp.condition]
    · rw [h.condition i ((hex i).2 hi), (ha.fresh (examinedIn_mem hi)).2, hnowNs,
        hp.latches _ fun hk => hne hi (by cases hk; rfl)]
  · intro c hc
    rw [h.latches c fun i hi hu => hc i hi ((hcases i).2 (.inr ((hex i).1 hu)))]
    exact hp.latches c fun hk => hc j hk ((hcases j).2 (.inl rfl))
  · exact fun c hc => h.free c (hp.free c hc)
  · intro i d c hi hd hc
    rcases (hcases i).1 hi with rfl | hi
    · exact h.free c (hp.cells d c hd hc)
    · exact h.cells i d c ((hex i).2 hi) (by rwa [(ha.fresh (examinedIn_mem hi)).2]) hc
  · intro i d hi hd
    rw [hfind'] at hi
    have hmem := List.mem_of_find?_eq_some hi
    obtain ⟨h1, h2, h3, h4⟩ := h.serves i d (hfind.trans hi) (by rwa [(ha.fresh hmem).1])
    refine ⟨by rw [h1, hnow], by rw [h2, ha.pointer], ?_, ?_⟩
    · rw [h3, chargedNow, chargedNow, hnowNs, ha.bucket i hmem]
    · rw [h4, chargedNow, chargedNow, hnowNs, ha.pacing]
  · intro hi
    rw [hfind'] at hi
    obtain ⟨h1, h2⟩ := h.rests (hfind.trans hi)
    exact ⟨h1, h2.trans ha.pointer⟩

/-- A head examined for age (R95): as ageHeads_full, with the other arbiter called where one left. -/
theorem examine_spec (l : Link) (i : Tenant) (s : State) :
    (∃ tenants free mgmt ev, examine l i s = { s with
        tenants, mgmt, ev, pool := { s.pool with free }
        queues := { s.queues with tenant := tset s.queues.tenant i (freshQ s i) } })
      ∧ (∀ k, (examine l i s).tenant k = if k = i then
          { s.tenant i with aged := (s.tenant i).aged + BitVec.ofNat 64 (agedHeads s i).length } else s.tenant k)
      ∧ (examine l i s).latch (.agedDiscard i)
          = (agedHeads s i).foldl (fun x _ => x.occur s.nowNs none) (s.latch (.agedDiscard i))
      ∧ (∀ c, c ≠ .agedDiscard i → (examine l i s).latch c = s.latch c)
      ∧ (∀ c, c ∈ s.pool.free → c ∈ (examine l i s).pool.free)
      ∧ ∀ d c, d ∈ agedHeads s i → c ∈ d.cells → c ∈ (examine l i s).pool.free := by
  obtain ⟨⟨tenants, free, mgmt, ev, he⟩, ht, hl, ho, hf, hc⟩ := ageHeads_full i (s.tenantQ i) s
  have hex : ∃ e, examine l i s = { ageHeads i (s.tenantQ i) s with ev := e } := by
    unfold examine
    simp only
    split
    · exact ⟨_, rfl⟩
    · exact ⟨_, rfl⟩
  obtain ⟨e, hex⟩ := hex
  rw [hex]
  exact ⟨⟨tenants, free, mgmt, e, by rw [he]; rfl⟩, ht, hl, ho, hf, hc⟩

/-- The head of a tenant's queue starts (R94, R98). -/
theorem startTenant_spec (l : Link) (i : Tenant) (d : Descriptor) (rest : List Descriptor) (s : State) :
    (∃ sched ev ports, startTenant l i d rest s = { s with
        sched, ev, ports, queues := { s.queues with tenant := tset s.queues.tenant i rest } })
      ∧ ((startTenant l i d rest s).port (.bh l)).tx
          = some { item := .pool d, bytes := d.frame, ends := txEnd s.now false d.frame.length }
      ∧ (startTenant l i d rest s).sched.pointer = s.sched.pointer.set l i
      ∧ (startTenant l i d rest s).bucket (.tenant i) = chargedNow (.tenant i) d.length s
      ∧ (startTenant l i d rest s).bucket (.pacing l) = chargedNow (.pacing l) d.length s := by
  obtain ⟨d2, e2, h2, _, hp2, hb2⟩ := charge_spec (.tenant i) d.length (s.setTenantQ i rest)
  let s3 : State := { s.setTenantQ i rest with sched := { d2 with pointer := d2.pointer.set l i }, ev := e2 }
  obtain ⟨d4, e4, h4, _, hp4, hb4⟩ := charge_spec (.pacing l) d.length s3
  have hstart : startTenant l i d rest s
      = kick (.bh l.other) (beginTx (.bh l) (.pool d) d.frame (charge (.pacing l) d.length s3)) := by
    show kick (.bh l.other) (startPool l d d.frame { charge (.tenant i) d.length (s.setTenantQ i rest) with sched := _ }) = _
    rw [h2]
    rfl
  have hbucket : ∀ b, (startTenant l i d rest s).bucket b = (charge (.pacing l) d.length s3).bucket b := fun b => by
    rw [hstart]; cases b <;> rfl
  have hb3 : ∀ b, s3.bucket b = if b = .tenant i then chargedNow (.tenant i) d.length s else s.bucket b := fun b => by
    have h3 : s3.bucket b = (charge (.tenant i) d.length (s.setTenantQ i rest)).bucket b := by rw [h2]; cases b <;> rfl
    rw [h3, hb2]
    cases b <;> rfl
  refine ⟨⟨(startTenant l i d rest s).sched, (startTenant l i d rest s).ev, (startTenant l i d rest s).ports, ?_⟩, ?_, ?_, ?_, ?_⟩
  · rw [hstart, h4]; rfl
  · rw [hstart, h4]
    show ((beginTx (.bh l) (.pool d) d.frame _).port (.bh l)).tx = _
    unfold beginTx
    rw [State.port_setPort]
    rfl
  · rw [hstart]
    show (charge (.pacing l) d.length s3).sched.pointer = _
    rw [h4]
    show d4.pointer = _
    rw [hp4]
    show d2.pointer.set l i = _
    rw [hp2]
    rfl
  · rw [hbucket, hb4, if_neg (by simp), hb3, if_pos rfl]
  · rw [hbucket, hb4, if_pos rfl, chargedNow, hb3, if_neg (by simp)]
    rfl

/-- A state that differs in what a walk over later tenants does not read. -/
theorem passed_examine {l : Link} {j : Tenant} {s : State} (ha : (s.tenantCfg j).active = true)
    (hf : tenantGoes l s j = false) : Passed l j s (examine l j s) := by
  obtain ⟨⟨tenants, free, mgmt, ev, he⟩, ht, hl, ho, hfree, hc⟩ := examine_spec l j s
  refine ⟨ha, hf, ?_, fun k hk => ⟨?_, ?_⟩, ?_, hl, ho, hfree, hc⟩
  · rw [he]; exact tget_tset_same _ _ _
  · rw [he]
    exact (tget_tset _ _ _ _).trans (if_neg hk)
  · rw [ht, if_neg hk]
  · rw [ht, if_pos rfl]

theorem agrees_examine {l : Link} {j : Tenant} {ts : List Tenant} (hj : j ∉ ts) (s : State) :
    Agrees l ts s (examine l j s) := by
  obtain ⟨⟨tenants, free, mgmt, ev, he⟩, _⟩ := examine_spec l j s
  rw [he]
  exact ⟨rfl, rfl, rfl, fun i hi => (tget_tset _ _ _ _).trans (if_neg fun h => by cases h; exact hj hi), fun _ _ => rfl, rfl, rfl, rfl⟩

/-- A tenant's bucket brought up to date changes nothing of what Passed and Agrees speak of. -/
theorem Passed.touch {l : Link} {j : Tenant} {s u : State} (i : BucketId) (h : Passed l j s u) :
    Passed l j s (touch i u) := by
  obtain ⟨d, e, he, _⟩ := touch_spec i u
  rw [he]
  exact ⟨h.active, h.fails, h.queue, h.others, h.aged, h.condition, h.latches, h.free, h.cells⟩

theorem Agrees.touch {l : Link} {j : Tenant} {ts : List Tenant} {s u : State} (hj : j ∉ ts) (h : Agrees l ts s u) :
    Agrees l ts s (touch (.tenant j) u) := by
  obtain ⟨d, e, he, _, hp, hb⟩ := touch_spec (.tenant j) u
  refine ⟨by rw [he]; exact h.cfg, by rw [he]; exact h.links, by rw [he]; exact h.time, fun i hi => ?_, fun i hi => ?_, ?_, ?_, ?_⟩
  · rw [he]; exact h.queue i hi
  · rw [hb, if_neg fun hij => hj (by cases hij; exact hi)]; exact h.bucket i hi
  · rw [hb, if_neg (by simp)]; exact h.pacing
  · rw [he]; exact hp.trans h.pointer
  · rw [he]; exact h.ports

/-- The walk ends at the tenant that it serves. -/
theorem WalkedOn.serve {l : Link} {j : Tenant} {ts : List Tenant} {s : State} {d : Descriptor} {rest : List Descriptor}
    (hg : tenantGoes l s j = true) (hq : freshQ s j = d :: rest) :
    WalkedOn l (j :: ts) s (startTenant l j d rest (touch (.tenant j) (examine l j s))) := by
  obtain ⟨⟨tenants, free, mgmt, ev, he⟩, ht, hl, ho, hf, hc⟩ := examine_spec l j s
  obtain ⟨d2, e2, h2, _, hp2, hb2⟩ := touch_spec (.tenant j) (examine l j s)
  obtain ⟨⟨d3, e3, ports, h3⟩, htx, hptr, hbt, hbp⟩ := startTenant_spec l j d rest (touch (.tenant j) (examine l j s))
  have hactive : (s.tenantCfg j).active = true := by
    unfold tenantGoes at hg
    simp only [Bool.and_eq_true] at hg
    exact hg.1
  have hfind : (j :: ts).find? (tenantGoes l s) = some j := List.find?_cons_of_pos hg
  have hex : ∀ i, examinedIn l (j :: ts) s i ↔ i = j := fun i => by
    unfold examinedIn
    rw [hfind, List.takeWhile_cons_of_neg (by simp [hg])]
    constructor
    · rintro ⟨_, h | h⟩
      · exact (Option.some.inj h).symm
      · cases h
    · rintro rfl
      exact ⟨hactive, .inl rfl⟩
  have hbucket : ∀ b, (examine l j s).bucket b = s.bucket b := fun b => by rw [he]; cases b <;> rfl
  have hshape : ∀ t, t = startTenant l j d rest (touch (.tenant j) (examine l j s)) →
      t.tenants = (examine l j s).tenants ∧ t.mgmt = (examine l j s).mgmt ∧ t.pool = (examine l j s).pool
      ∧ t.queues.tenant = tset (examine l j s).queues.tenant j rest := by
    rintro t rfl
    rw [h3, h2]
    exact ⟨rfl, rfl, rfl, rfl⟩
  obtain ⟨htenants, hmgmt, hpool, hqueue⟩ := hshape _ rfl
  have htenant : ∀ i, (startTenant l j d rest (touch (.tenant j) (examine l j s))).tenant i = (examine l j s).tenant i :=
    fun i => by unfold State.tenant; rw [htenants]
  have hlatch : ∀ c, (startTenant l j d rest (touch (.tenant j) (examine l j s))).latch c = (examine l j s).latch c :=
    fun c => by unfold State.latch; rw [hmgmt]
  have hnow : (touch (.tenant j) (examine l j s)).now = s.now ∧ (touch (.tenant j) (examine l j s)).nowNs = s.nowNs := by
    rw [h2, he]; exact ⟨rfl, rfl⟩
  refine ⟨fun i hi => ?_, fun i hi => ?_, fun i hi => ?_, fun i hi => ?_, fun c hcond => ?_, fun c hcell => ?_,
    fun i d' c hi hd' hcell => ?_, fun i d' hi hd' => ?_, fun hnone => ?_⟩
  · cases (hex i).1 hi
    rw [hfind, if_pos rfl, hq]
    unfold State.tenantQ
    rw [hqueue]
    exact tget_tset_same _ _ _
  · have hij : i ≠ j := fun h => hi ((hex i).2 h)
    refine ⟨?_, by rw [htenant, ht, if_neg hij]⟩
    unfold State.tenantQ
    rw [hqueue, tget_tset, if_neg hij, he]
    exact (tget_tset _ _ _ _).trans (if_neg hij)
  · cases (hex i).1 hi
    rw [htenant, ht, if_pos rfl]
  · cases (hex i).1 hi
    rw [hlatch, hl]
  · rw [hlatch]
    exact ho c fun h => hcond j h ((hex j).2 rfl)
  · rw [hpool]; exact hf c hcell
  · cases (hex i).1 hi
    rw [hpool]; exact hc d' c hd' hcell
  · rw [hfind] at hi
    cases hi
    rw [hq] at hd'
    cases hd'
    rw [hnow.1] at htx
    refine ⟨htx, ?_, ?_, ?_⟩
    · rw [hptr, h2]
      show d2.pointer.set l _ = _
      rw [hp2, he]
    · rw [hbt, chargedNow, chargedNow, hb2, if_pos rfl, hnow.2, hbucket]
      have hn : (examine l j s).nowNs = s.nowNs := by rw [he]; rfl
      rw [hn, refresh_refresh]
    · rw [hbp, chargedNow, chargedNow, hb2, if_neg (by simp), hnow.2, hbucket]
  · rw [hfind] at hnone; cases hnone

/-- R94, R95: the walk of the tenants. -/
theorem walk_spec (l : Link) (ts : List Tenant) (s : State) (hd : ts.Nodup) (htx : (s.port (.bh l)).tx = none) :
    WalkedOn l ts s (walk l ts s) := by
  induction ts generalizing s with
  | nil =>
    have hno : ∀ i, ¬examinedIn l [] s i := fun i h => by have := examinedIn_mem h; cases this
    exact ⟨fun i h => absurd h (hno i), fun i _ => ⟨rfl, rfl⟩, fun i h => absurd h (hno i), fun i h => absurd h (hno i),
      fun _ _ => rfl, fun _ h => h, fun i _ _ h => absurd h (hno i), fun _ _ h => (by cases h), fun _ => ⟨htx, rfl⟩⟩
  | cons j ts ih =>
    obtain ⟨hj, hd'⟩ := List.nodup_cons.1 hd
    have hexq : (examine l j s).tenantQ j = freshQ s j := by
      obtain ⟨⟨tenants, free, mgmt, ev, he⟩, _⟩ := examine_spec l j s
      rw [he]; exact tget_tset_same _ _ _
    by_cases hact : (s.tenantCfg j).active = true
    · have hwalk : walk l (j :: ts) s = match (examine l j s).tenantQ j with
          | [] => walk l ts (examine l j s)
          | d :: rest =>
            if eligible (touch (.tenant j) (examine l j s)) d.pref l
                && decide (0 ≤ ((touch (.tenant j) (examine l j s)).bucket (.tenant j)).credit) then
              startTenant l j d rest (touch (.tenant j) (examine l j s))
            else walk l ts (touch (.tenant j) (examine l j s)) := if_pos hact
      rw [hwalk, hexq]
      have hag := agrees_examine (l := l) hj s
      cases hq : freshQ s j with
      | nil =>
        have hf : tenantGoes l s j = false := by simp [tenantGoes, hq]
        exact (ih (examine l j s) hd' (hag.ports.trans htx)).after hj (passed_examine hact hf) hag
      | cons d rest =>
        have hgo : (eligible (touch (.tenant j) (examine l j s)) d.pref l
            && decide (0 ≤ ((touch (.tenant j) (examine l j s)).bucket (.tenant j)).credit)) = tenantGoes l s j := by
          obtain ⟨⟨tenants, free, mgmt, ev, he⟩, _⟩ := examine_spec l j s
          obtain ⟨d2, e2, h2, _, _, hb2⟩ := touch_spec (.tenant j) (examine l j s)
          have hlinks : (touch (.tenant j) (examine l j s)).links = s.links := by rw [h2, he]
          have hbucket : ((examine l j s).bucket (.tenant j)).refresh (examine l j s).nowNs
              = (s.bucket (.tenant j)).refresh s.nowNs := by rw [he]; rfl
          rw [eligible_congr hlinks, hb2, if_pos rfl, hbucket]
          simp [tenantGoes, hact, hq]
        simp only [hgo]
        by_cases hg : tenantGoes l s j = true
        · rw [if_pos hg]
          exact WalkedOn.serve hg hq
        · rw [if_neg hg]
          have hf : tenantGoes l s j = false := by simpa using hg
          have hag' := Agrees.touch hj hag
          exact (ih _ hd' (hag'.ports.trans htx)).after hj ((passed_examine hact hf).touch _) hag'
    · have hwalk : walk l (j :: ts) s = walk l ts s := if_neg hact
      have hf : tenantGoes l s j = false := by simp [tenantGoes, hact]
      have h := ih s hd' htx
      rw [hwalk]
      have hex : ∀ i, examinedIn l (j :: ts) s i ↔ examinedIn l ts s i := fun i => by
        rw [(examinedIn_cons hf).2]
        simp [hact]
      obtain ⟨hfind, -⟩ := examinedIn_cons (ts := ts) (i := j) hf
      constructor
      · simpa only [hex, hfind] using h.queue
      · simpa only [hex] using h.others
      · simpa only [hex] using h.aged
      · simpa only [hex] using h.condition
      · simpa only [hex] using h.latches
      · exact h.free
      · simpa only [hex] using h.cells
      · simpa only [hfind] using h.serves
      · simpa only [hfind] using h.rests

end Sys2Proof.Machine
end

section
/-!
PROOF. What a backhaul arbiter takes: O39, and the passes of O40, O48 and O55 (R90 to R98).
-/

namespace Sys2Proof.Machine

/-- A pass begins with the pacing bucket, and then the timing bucket, brought up to date (R84, R90); v is the state in
which it takes a frame. -/
structure Begins (l : Link) (s v : State) : Prop where
  shape : ∃ d e, v = { s with sched := d, ev := e } ∧ e.outbox = s.ev.outbox ∧ d.pointer = s.sched.pointer
  bucket : ∀ b, (v.bucket b).refresh s.nowNs = (s.bucket b).refresh s.nowNs
  tenant : ∀ i, v.bucket (.tenant i) = s.bucket (.tenant i)

theorem touch_begins (l : Link) (i : BucketId) {s v : State} (h : Begins l s v) (hi : ∀ j, i ≠ .tenant j) :
    Begins l s (touch i v) := by
  obtain ⟨d, e, rfl, ho, hp⟩ := h.shape
  obtain ⟨d', e', he, ho', hp', hb⟩ := touch_spec i { s with sched := d, ev := e }
  refine ⟨⟨d', e', he, ho'.trans ho, hp'.trans hp⟩, fun b => ?_, fun j => ?_⟩
  · rw [hb]
    split
    · next hbi =>
      subst hbi
      show (Bucket.refresh s.nowNs (Bucket.refresh s.nowNs _)) = _
      rw [refresh_refresh]
      exact h.bucket _
    · exact h.bucket b
  · rw [hb, if_neg (Ne.symm (hi j))]
    exact h.tenant j

theorem Begins.refl (l : Link) (s : State) : Begins l s s := ⟨⟨_, _, rfl, rfl, rfl⟩, fun _ => rfl, fun _ => rfl⟩

theorem pacing_begins (l : Link) (s : State) : Begins l s (touch (.pacing l) s) :=
  touch_begins l _ (Begins.refl l s) fun _ h => nomatch h

theorem Begins.charged {l : Link} {s v : State} (h : Begins l s v) (b : BucketId) (n : Nat) :
    chargedNow b n v = chargedNow b n s := by
  have hn : v.nowNs = s.nowNs := by obtain ⟨d, e, rfl, _⟩ := h.shape; rfl
  unfold chargedNow
  rw [hn, h.bucket]

/-- A ready port makes its pass (R90). -/
theorem serveBackhaul_ready {l : Link} {s : State} (h : ReadyNow l s) :
    serveBackhaul l s = selectionPass l (touch (.pacing l) s) := by
  obtain ⟨d, e, he, _, _, hb⟩ := touch_spec (.pacing l) s
  obtain ⟨hup, htx, hcr⟩ := h
  have hready : portReady l (touch (.pacing l) s) = true := by
    unfold portReady
    rw [hb, if_pos rfl, he]
    show ((s.port (.bh l)).linkUp && (s.port (.bh l)).tx.isNone && decide (0 ≤ ((s.bucket (.pacing l)).refresh s.nowNs).credit)) = true
    rw [hup, htx, decide_eq_true hcr]
    rfl
  exact if_pos hready

/-- A port that is not ready makes none (R91). -/
theorem serveBackhaul_unready {l : Link} {s : State} (h : ¬ReadyNow l s) : serveBackhaul l s = touch (.pacing l) s := by
  obtain ⟨d, e, he, _, _, hb⟩ := touch_spec (.pacing l) s
  have hready : ¬portReady l (touch (.pacing l) s) = true := fun hr => h <| by
    unfold portReady at hr
    rw [hb, if_pos rfl, he] at hr
    have hr' : ((s.port (.bh l)).linkUp && (s.port (.bh l)).tx.isNone
        && decide (0 ≤ ((s.bucket (.pacing l)).refresh s.nowNs).credit)) = true := hr
    simp only [Bool.and_eq_true, decide_eq_true_eq, Option.isNone_iff_eq_none] at hr'
    exact ⟨hr'.1.1, hr'.1.2, hr'.2⟩
  exact if_neg hready

/-- The head of the local queue goes first (R92, R100). -/
theorem serveBackhaul_storeFirst {l : Link} {s : State} {f : LocalFrame} {rest : List LocalFrame} (h : ReadyNow l s)
    (hq : s.localQ (.bh l) = f :: rest) : ∃ v, Begins l s v ∧ serveBackhaul l s = startLocal l f rest v := by
  refine ⟨_, pacing_begins l s, ?_⟩
  have hq' : (touch (.pacing l) s).localQ (.bh l) = f :: rest := by
    obtain ⟨d, e, he, _⟩ := touch_spec (.pacing l) s
    rw [he]; exact hq
  rw [serveBackhaul_ready h]
  unfold selectionPass
  rw [hq']

/-- What goes of the timing queue is read in the state of the pass. -/
theorem Begins.timingGoes {l : Link} {s v : State} (h : Begins l s v) (d : Descriptor) :
    (eligible (touch .timing v) d.pref l && decide (0 ≤ ((touch .timing v).bucket .timing).credit)) = timingGoes l s d := by
  have hb' := h.bucket .timing
  obtain ⟨d0, e0, rfl, _⟩ := h.shape
  obtain ⟨d', e', he, _, _, hb⟩ := touch_spec .timing { s with sched := d0, ev := e0 }
  have hlinks : (touch .timing { s with sched := d0, ev := e0 }).links = s.links := by rw [he]
  rw [eligible_congr hlinks, hb, if_pos rfl]
  show (_ && decide (0 ≤ (Bucket.refresh s.nowNs _).credit)) = _
  rw [hb']
  rfl

/-- The head of the timing queue goes next (R92). -/
theorem serveBackhaul_timing {l : Link} {s : State} {d : Descriptor} {rest : List Descriptor} (h : ReadyNow l s)
    (hl : s.localQ (.bh l) = []) (hq : s.queues.timing = d :: rest) (hg : timingGoes l s d = true) :
    ∃ v, Begins l s v ∧ serveBackhaul l s = startTiming l d rest v := by
  have hbeg := pacing_begins l s
  refine ⟨_, touch_begins l .timing hbeg (fun _ h => nomatch h), ?_⟩
  have hq' : (touch (.pacing l) s).localQ (.bh l) = [] ∧ (touch (.pacing l) s).queues.timing = d :: rest := by
    obtain ⟨d, e, he, _⟩ := touch_spec (.pacing l) s
    rw [he]; exact ⟨hl, hq⟩
  rw [serveBackhaul_ready h]
  unfold selectionPass
  rw [hq'.1, hq'.2]
  simp only [hbeg.timingGoes, hg, if_true]

/-- With neither, the pass comes to the test queue and the tenants (R92). -/
theorem serveBackhaul_past {l : Link} {s : State} (h : ReadyNow l s) (hl : s.localQ (.bh l) = [])
    (hq : s.queues.timing.head?.filter (timingGoes l s) = none) :
    ∃ v, Begins l s v ∧ serveBackhaul l s = passTestAndTenants l v := by
  have hbeg := pacing_begins l s
  have hq' : (touch (.pacing l) s).localQ (.bh l) = [] ∧ (touch (.pacing l) s).queues.timing = s.queues.timing := by
    obtain ⟨d, e, he, _⟩ := touch_spec (.pacing l) s
    rw [he]; exact ⟨hl, rfl⟩
  rw [serveBackhaul_ready h]
  unfold selectionPass
  rw [hq'.1, hq'.2]
  cases htq : s.queues.timing with
  | nil => exact ⟨_, hbeg, rfl⟩
  | cons d rest =>
    have hg : timingGoes l s d = false := by
      rw [htq] at hq
      simpa using hq
    refine ⟨_, touch_begins l .timing hbeg (fun _ h => nomatch h), ?_⟩
    simp only [hbeg.timingGoes, hg, if_false, Bool.false_eq_true]

/-- The refused heads of the test queue (R96). -/
theorem dropRefused_shape {l : Link} {s v : State} (h : Begins l s v) :
    ∃ d e free, dropRefused l v = { s with
        sched := d, ev := e, pool := { s.pool with free }
        queues := { s.queues with test := s.queues.test.set l (freshTest l s) } }
      ∧ Begins l s { s with sched := d, ev := e }
      ∧ (∀ c, c ∈ s.pool.free → c ∈ free)
      ∧ ∀ y c, y ∈ (s.queues.test.get l).takeWhile (testRefused (s.ctx l)) → c ∈ y.cells → c ∈ free := by
  obtain ⟨d, e, rfl, hd⟩ := h.shape
  refine ⟨d, e, _, rfl, h, fun c hc => List.mem_append_right _ hc, fun y c hy hc => List.mem_append_left _ ?_⟩
  exact List.mem_flatten.2 ⟨_, List.mem_map.2 ⟨y, hy, rfl⟩, hc⟩

theorem walkOrder_nodup (p : Tenant) : (walkOrder p).Nodup := by
  revert p
  decide

/-- R92 to R95: a pass that comes to the tenants. -/
theorem serveBackhaul_walked {l : Link} {s : State} (h : ReadyNow l s) (hw : Walks l s) : Walked l s (serveBackhaul l s) := by
  obtain ⟨hl, hq, htest⟩ := hw
  obtain ⟨v, hbeg, hserve⟩ := serveBackhaul_past h hl hq
  obtain ⟨d, e, free, hdrop, hbeg', hmore, _⟩ := dropRefused_shape hbeg
  rw [htest] at hdrop
  obtain ⟨d', e', hsame, ho, hp⟩ := hbeg'.shape
  have hd' : d' = d := congrArg State.sched hsame.symm
  subst hd'
  let u : State := { s with
    sched := d', ev := e, pool := { s.pool with free }, queues := { s.queues with test := s.queues.test.set l [] } }
  have hpass : serveBackhaul l s = walk l (walkOrder (s.sched.pointer.get l)) u := by
    rw [hserve]
    unfold passTestAndTenants
    rw [hdrop]
    have htq : u.queues.test.get l = [] := PerLink.get_set_same _ _ _
    show (match u.queues.test.get l with
      | d :: rest => startTest l d rest u
      | [] => walk l (walkOrder (u.sched.pointer.get l)) u) = _
    rw [htq]
    show walk l (walkOrder (d'.pointer.get l)) u = _
    rw [hp]
  let ts := walkOrder (s.sched.pointer.get l)
  have hag : Agrees l ts s u := ⟨rfl, rfl, rfl, fun _ _ => rfl, fun i _ => hbeg'.tenant i, hbeg'.bucket (.pacing l), hp, rfl⟩
  have hwalk := walk_spec l ts u (walkOrder_nodup _) h.2.1
  obtain ⟨hfind, hex⟩ := hag.examined
  rw [hpass]
  have hexs : ∀ i, examined l s i ↔ examinedIn l ts u i := fun i => (hex i).symm
  have hserved : tenantServed l s = ts.find? (tenantGoes l u) := hfind.symm
  have hall : ∀ i, (freshQ u i) = freshQ s i ∧ agedHeads u i = agedHeads s i := fun i => ⟨rfl, rfl⟩
  constructor
  · intro i hi
    rw [hserved, ← (hall i).1]
    exact hwalk.queue i ((hexs i).1 hi)
  · exact fun i hi => hwalk.others i fun hu => hi ((hexs i).2 hu)
  · exact fun i hi => hwalk.aged i ((hexs i).1 hi)
  · exact fun i hi => hwalk.condition i ((hexs i).1 hi)
  · exact fun c hc => hwalk.latches c fun i hi hu => hc i hi ((hexs i).2 hu)
  · exact fun i d c hi hd hc => hwalk.cells i d c ((hexs i).1 hi) hd hc
  · intro i d hi hd
    obtain ⟨h1, h2, h3, h4⟩ := hwalk.serves i d (hserved ▸ hi) hd
    exact ⟨h1, by rw [h2]; exact congrArg (fun p => PerLink.set p l i) hp, h3.trans (hbeg'.charged (.tenant i) d.length),
      h4.trans (hbeg'.charged (.pacing l) d.length)⟩
  · intro hi
    obtain ⟨h1, h2⟩ := hwalk.rests (hserved ▸ hi)
    exact ⟨h1, h2.trans hp⟩

theorem startTiming_sends (l : Link) (d : Descriptor) (rest : List Descriptor) (s : State) :
    sends (startTiming l d rest s) (.bh l) (.pool d) := by
  unfold startTiming
  exact beginTx_tx (.bh l) (.pool d) _ _

/-- R92: what the pass of a ready port takes starts. -/
theorem serveBackhaul_sends {l : Link} {s : State} {item : TxItem} (h : ReadyNow l s) (ht : passTakes l s = some item) :
    sends (serveBackhaul l s) (.bh l) item := by
  unfold passTakes at ht
  split at ht
  · next f rest hl =>
    cases ht
    obtain ⟨v, _, hs⟩ := serveBackhaul_storeFirst h hl
    rw [hs]
    exact beginTx_tx _ _ _ _
  · next d hl hq =>
    cases ht
    obtain ⟨d', hd', hg⟩ : ∃ d', s.queues.timing.head? = some d' ∧ (d' = d ∧ timingGoes l s d' = true) := by
      rw [Option.filter_eq_some_iff] at hq
      exact ⟨d, hq.1, rfl, hq.2⟩
    obtain ⟨rfl, hg⟩ := hg
    obtain ⟨rest, hrest⟩ : ∃ rest, s.queues.timing = d' :: rest := by
      cases htq : s.queues.timing with
      | nil => rw [htq] at hd'; cases hd'
      | cons y ys => rw [htq] at hd'; cases hd'; exact ⟨ys, rfl⟩
    obtain ⟨v, _, hs⟩ := serveBackhaul_timing h hl hrest hg
    rw [hs]
    exact startTiming_sends l d' rest v
  · next d rest hl hq htest =>
    cases ht
    obtain ⟨v, hbeg, hs⟩ := serveBackhaul_past h hl hq
    obtain ⟨d', e, free, hdrop, _⟩ := dropRefused_shape hbeg
    rw [hs]
    have htq : (dropRefused l v).queues.test.get l = d :: rest := by
      rw [hdrop, htest]; exact PerLink.get_set_same _ _ _
    have hpass : passTestAndTenants l v = startTest l d rest (dropRefused l v) := by
      unfold passTestAndTenants
      simp only [htq]
    rw [hpass]
    exact beginTx_tx _ _ _ _
  · next hl hq htest =>
    have hw := serveBackhaul_walked h ⟨hl, hq, htest⟩
    obtain ⟨i, hi, hd⟩ := Option.bind_eq_some_iff.1 ht
    obtain ⟨d, hhead, rfl⟩ := Option.map_eq_some_iff.1 hd
    obtain ⟨htx, _⟩ := hw.serves i d hi hhead
    exact ⟨_, htx, rfl⟩

end Sys2Proof.Machine
end

section
/-!
PROOF. The end of a transmission on a backhaul port: O39.
-/

namespace Sys2Proof.Machine

/-- R60, R98, R99: what the end of a backhaul transmission counts and frees. -/
theorem backhaulEnds_counted (l : Link) (s : State) (x : Transmission) (htx : (s.port (.bh l)).tx = some x)
    (hr : reached s.now x.ends = true) :
    ∃ t, exec (.backhaulTransmissionEnd l) s = .next t
      ∧ Counted [(.bh l, .framesTransmitted, 1), (.bh l, .bytesTransmitted, x.bytes.length)] s t
      ∧ TrafficKept { s with ports := s.ports.set (.bh l) { s.port (.bh l) with tx := none } } t
      ∧ (∀ d c, x.item = .pool d → c ∈ d.cells → c ∈ t.pool.free)
      ∧ (∀ i, (t.tenant i).departed = (s.tenant i).departed +
          (if carriesTenant x.item i = true then BitVec.ofNat 64 x.bytes.length else 0)
          ∧ (t.tenant i).accepted = (s.tenant i).accepted ∧ (t.tenant i).dropped = (s.tenant i).dropped)
      ∧ Kept [.counters, .traffic, .tallies] s t := by
  obtain ⟨hdue, hop⟩ := finishTx_due htx hr
  obtain ⟨hdep, _, hcount, htraffic, hcells, hkept, _⟩ := endTx_event hop
  refine ⟨_, if_pos hdue, hcount, htraffic, hcells, fun i => ?_, hkept⟩
  obtain ⟨ports, tenants, free, he, _, _, _, _, _, hback⟩ := endTx_spec (.bh l) x s.begun
  obtain ⟨_, _, htally⟩ := countDeparted_spec x.item x.bytes.length s.begun
  have htenant : (endTx (.bh l) x s.begun).tenant i = (countDeparted x.item x.bytes.length s.begun).tenant i := by
    unfold State.tenant
    rw [he, ← hback rfl]
  obtain ⟨hacc, hdrop, hdeparted⟩ := hdep.1 .tallies rfl i
  obtain ⟨h1, h2, h3⟩ := htally i
  rw [hacc, hdrop, hdeparted, htenant]
  exact ⟨h1, h2, h3⟩

/-- R90, R92: the port whose transmission ended makes its pass. -/
theorem backhaulEnds_sends (l : Link) (s : State) (x : Transmission) (item : TxItem) (htx : (s.port (.bh l)).tx = some x)
    (hr : reached s.now x.ends = true)
    (hready : ReadyNow l { s with ports := s.ports.set (.bh l) { s.port (.bh l) with tx := none } })
    (htakes : passTakes l { s with ports := s.ports.set (.bh l) { s.port (.bh l) with tx := none } } = some item) :
    ∃ t, exec (.backhaulTransmissionEnd l) s = .next t ∧ sends t (.bh l) item := by
  obtain ⟨hdue, hop⟩ := finishTx_due htx hr
  obtain ⟨_, hserve, _⟩ := endTx_event hop
  refine ⟨_, if_pos hdue, ?_⟩
  obtain ⟨ports, tenants, free, he, hports, _⟩ := endTx_spec (.bh l) x s.begun
  let u : State := { endTx (.bh l) x s.begun with
    ev := { (endTx (.bh l) x s.begun).ev with kick := (endTx (.bh l) x s.begun).ev.kick.set (.bh l) false } }
  have hport : u.port (.bh l) = ports.get (.bh l) := by
    show (endTx (.bh l) x s.begun).port (.bh l) = _
    rw [he]; rfl
  have hup : (s.port (.bh l)).linkUp = true := by
    have h := hready.1
    simpa [State.port] using h
  have hready' : ReadyNow l u := by
    refine ⟨by rw [hport, (hports _).1]; exact hup, by rw [hport, (hports _).2.2, if_pos rfl], ?_⟩
    have h := hready.2.2
    show 0 ≤ (((endTx (.bh l) x s.begun).bucket (.pacing l)).refresh (endTx (.bh l) x s.begun).nowNs).credit
    rw [he]
    exact h
  have htakes' : passTakes l u = some item := by
    rw [← htakes]
    show passTakes l { endTx (.bh l) x s.begun with ev := _ } = _
    rw [he]
    rfl
  obtain ⟨y, hy, hi⟩ := serveBackhaul_sends hready' htakes'
  exact ⟨y, hserve.2.going (.bh l) y hy, hi⟩

/-- Settles O39. -/
theorem backhaulTransmissionEnds : Obligations.BackhaulTransmissionEnds :=
  ⟨backhaulEnds_counted, backhaulEnds_sends, fun _ _ h hw => serveBackhaul_walked h hw⟩

end Sys2Proof.Machine
end

section
/-!
PROOF. The Correction Unit (R121 to R127): O55.
-/

namespace Sys2Proof.Machine

/-! ## Numbers in bytes, and the FCS -/

theorem bytesToNat_append (a : List Byte) (b : Byte) : bytesToNat (a ++ [b]) = bytesToNat a * 256 + b.toNat := by
  rw [bytesToNat, List.foldl_append]
  rfl

/-- Bytes written and read again spell the number within their range. -/
theorem bytesToNat_natToBytes (n v : Nat) : bytesToNat (natToBytes n v) = v % 256 ^ n := by
  induction n generalizing v with
  | zero => simp [natToBytes, bytesToNat, Nat.mod_one]
  | succ n ih =>
    have hsplit : v % (256 * 256 ^ n) = v % 256 + 256 * (v / 256 % 256 ^ n) := Nat.mod_mul
    rw [natToBytes, bytesToNat_append, ih, Nat.pow_succ', hsplit, Nat.mul_comm, Nat.add_comm]
    rfl

theorem bytesToInt64_intToBytes {v : Int} (hlo : -2 ^ 63 ≤ v) (hhi : v < 2 ^ 63) : bytesToInt64 (intToBytes 8 v) = v := by
  have hnat : bytesToNat (intToBytes 8 v) = (v % (2 ^ 64 : Nat)).toNat := by
    rw [intToBytes, bytesToNat_natToBytes]
    refine Nat.mod_eq_of_lt ?_
    show (v % (18446744073709551616 : Nat)).toNat < 18446744073709551616
    omega
  have hbv : BitVec.ofNat 64 (v % (2 ^ 64 : Nat)).toNat = BitVec.ofInt 64 v := by
    apply BitVec.eq_of_toNat_eq
    rw [BitVec.toNat_ofNat, BitVec.toNat_ofInt]
    refine Nat.mod_eq_of_lt ?_
    show (v % (18446744073709551616 : Nat)).toNat < 18446744073709551616
    omega
  rw [bytesToInt64, hnat, hbv, BitVec.toInt_ofInt]
  show Int.bmod v 18446744073709551616 = v
  exact Int.bmod_eq_of_le (by omega) (by omega)

theorem length_fcsBytes (c : BitVec 32) : (fcsBytes c).length = 4 := by
  rw [fcsBytes, List.length_reverse, length_natToBytes]

/-- R126: the FCS replaces the last four bytes, and is the one that the frame ought to carry. -/
theorem withFcs_spec {b : List Byte} (h : 4 ≤ b.length) :
    (withFcs b).length = b.length ∧ fcsOk (withFcs b) = true
      ∧ (withFcs b).take (b.length - 4) = b.take (b.length - 4) := by
  have hfront : (b.take (b.length - 4)).length = b.length - 4 := by rw [List.length_take]; omega
  have hlen : (withFcs b).length = b.length := by
    show (b.take (b.length - 4) ++ fcsBytes _).length = _
    rw [List.length_append, hfront, length_fcsBytes]
    omega
  have htake : (withFcs b).take (b.length - 4) = b.take (b.length - 4) := by
    show (b.take (b.length - 4) ++ fcsBytes _).take _ = _
    rw [List.take_append_of_le_length (by omega), List.take_take, Nat.min_self]
  refine ⟨hlen, ?_, htake⟩
  have hsame : withFcs (withFcs b) = withFcs b := by
    show (withFcs b).take ((withFcs b).length - 4) ++ fcsBytes (crc32 ((withFcs b).take ((withFcs b).length - 4))) = _
    rw [hlen, htake]
    rfl
  unfold fcsOk
  rw [hsame]
  exact beq_self_eq_true _

/-- The FCS leaves the bytes before it. -/
theorem slice_withFcs {off n : Nat} {b : List Byte} (h : off + n + 4 ≤ b.length) :
    slice off n (withFcs b) = slice off n b :=
  slice_eq_of_take (withFcs_spec (by omega)).2.2 (by omega)

/-- R124 to R126: the rewritten correction field, in a frame whose other bytes stay. -/
theorem rewritten_spec {bytes : List Byte} {off res hop : Nat} (h : off + 12 ≤ bytes.length) :
    let old := bytesToInt64 (slice off 8 bytes)
    let out := rewritten bytes off res hop
    out.length = bytes.length ∧ fcsOk out = true
      ∧ bytesToInt64 (slice off 8 out) = min (old + ((res + hop * 65536 : Nat) : Int)) (2 ^ 63 - 1)
      ∧ out.take off = bytes.take off
      ∧ slice (off + 8) (bytes.length - 12 - off) out = slice (off + 8) (bytes.length - 12 - off) bytes := by
  intro old out
  have hn : (intToBytes 8 (newCorrection old res hop)).length = 8 := length_natToBytes _ _
  have hold : -2 ^ 63 ≤ old := BitVec.le_toInt _
  have hnew : -2 ^ 63 ≤ newCorrection old res hop ∧ newCorrection old res hop < 2 ^ 63 := by
    unfold newCorrection exactCorrection maxCorrection
    omega
  have hfield : bytesToInt64 (intToBytes 8 (newCorrection old res hop)) = newCorrection old res hop :=
    bytesToInt64_intToBytes hnew.1 hnew.2
  have hout : out = withFcs (patch off (intToBytes 8 (newCorrection old res hop)) bytes) := rfl
  rw [hout]
  generalize intToBytes 8 (newCorrection old res hop) = new at hn hfield
  have hlen : (patch off new bytes).length = bytes.length := length_patch (by omega)
  obtain ⟨h1, h2, h3⟩ := withFcs_spec (b := patch off new bytes) (by omega)
  refine ⟨h1.trans hlen, h2, ?_, ?_, ?_⟩
  · rw [slice_withFcs (by omega), ← hn, slice_patch (by omega), hfield]
    rfl
  · have hcut : (withFcs (patch off new bytes)).take off = (patch off new bytes).take off := by
      have h4 := congrArg (List.take off) h3
      rwa [List.take_take, List.take_take, Nat.min_eq_left (by omega)] at h4
    rw [hcut, take_patch (Nat.le_refl _) (by omega)]
  · rw [slice_withFcs (by omega)]
    exact slice_eq_of_drop (drop_patch (n := off + 8) (by omega) (by omega)) (Nat.le_refl _)

/-! ## The rewrite at the start of a transmission -/

/-- R123, R125: what the rewrite of a timing frame leaves. -/
theorem correct_spec (p : Port) (d : Descriptor) (hop : Nat) (s : State) :
    let off := d.offset.getD 0
    let res := (s.now - d.ingress.getD 0).toNat
    let sum : Int := bytesToInt64 (slice off 8 d.frame) + ((res + hop * 65536 : Nat) : Int)
    (correct p d hop s).1 = (if off + 8 ≤ d.length - 4 then rewritten d.frame off res hop else d.frame)
      ∧ (∃ ports mgmt ev, (correct p d hop s).2 = { s with ports, mgmt, ev })
      ∧ tget ((correct p d hop s).2.port p).counters (PortCounter.idx .correctionOffsetErrors)
          = (if off + 8 ≤ d.length - 4 then tget (s.port p).counters (PortCounter.idx .correctionOffsetErrors)
             else tget (s.port p).counters (PortCounter.idx .correctionOffsetErrors) + 1)
      ∧ (correct p d hop s).2.latch .correctionSaturated
          = (if off + 8 ≤ d.length - 4 ∧ 2 ^ 63 - 1 < sum then (s.latch .correctionSaturated).occur s.nowNs none
             else s.latch .correctionSaturated)
      ∧ (∀ c, c ≠ .correctionSaturated → (correct p d hop s).2.latch c = s.latch c) := by
  intro off res sum
  by_cases hin : off + 8 ≤ d.length - 4
  · have hc : correct p d hop s = (rewritten d.frame off res hop,
        if exactCorrection (bytesToInt64 (slice off 8 d.frame)) res hop > maxCorrection then raise .correctionSaturated none s
        else s) := if_pos (decide_eq_true hin)
    rw [hc, if_pos hin, if_pos hin]
    by_cases hsat : 2 ^ 63 - 1 < sum
    · have hsat' : exactCorrection (bytesToInt64 (slice off 8 d.frame)) res hop > maxCorrection := hsat
      rw [if_pos hsat', if_pos ⟨hin, hsat⟩]
      obtain ⟨x, e, hr⟩ := raise_shape .correctionSaturated none s
      refine ⟨rfl, ⟨_, _, _, hr⟩, ?_, raise_latch_same _ _ _, fun c hc => raise_latch_other _ _ _ _ hc⟩
      show tget ((raise .correctionSaturated none s).port p).counters _ = _
      rw [hr]
      rfl
    · have hsat' : ¬exactCorrection (bytesToInt64 (slice off 8 d.frame)) res hop > maxCorrection := hsat
      rw [if_neg hsat', if_neg fun h => hsat h.2]
      exact ⟨rfl, ⟨_, _, _, rfl⟩, rfl, rfl, fun _ _ => rfl⟩
  · have hc : correct p d hop s = (d.frame, count p .correctionOffsetErrors 1 s) :=
      if_neg (by simpa [fieldInside] using hin)
    rw [hc, if_neg hin, if_neg hin, if_neg fun h => hin h.1]
    refine ⟨rfl, ⟨_, _, _, rfl⟩, ?_, rfl, fun _ _ => rfl⟩
    show tget ((count p .correctionOffsetErrors 1 s).port p).counters _ = _
    simp [count]

/-- R29, R127: the last link of a slot compared and updated. -/
theorem updateLastLink_spec (l : Link) (slot : Option Nat) (s : State) :
    let entry := slot.bind fun n => (slotEntry n s.flows).filter FlowEntry.hasLastLink
    (∃ flows mgmt ev, updateLastLink l slot s = { s with flows, mgmt, ev })
      ∧ (updateLastLink l slot s).flows = (match slot, entry with
        | some n, some _ => s.flows.map fun y => if y.1 = n then (y.1, { y.2 with lastLink := some l }) else y
        | _, _ => s.flows)
      ∧ (updateLastLink l slot s).latch .timingPathChanged = (match entry with
        | some e => if e.lastLink = some l.other then (s.latch .timingPathChanged).occur s.nowNs none
                    else s.latch .timingPathChanged
        | none => s.latch .timingPathChanged)
      ∧ (∀ c, c ≠ .timingPathChanged → (updateLastLink l slot s).latch c = s.latch c) := by
  intro entry
  have hsame : entry = none → updateLastLink l slot s = s := fun hentry => by
    unfold updateLastLink
    split
    · rfl
    · next n =>
      split
      · rfl
      · next e he =>
        have hl : ¬e.hasLastLink = true := fun h => by
          have : entry = some e := by simp [entry, he, h]
          rw [hentry] at this
          cases this
        exact if_neg hl
  cases hentry : entry with
  | none =>
    rw [hsame hentry]
    refine ⟨⟨_, _, _, rfl⟩, ?_, rfl, fun _ _ => rfl⟩
    cases slot <;> rfl
  | some e =>
    obtain ⟨n, rfl, he⟩ := Option.bind_eq_some_iff.1 hentry
    obtain ⟨hslot, hlast⟩ := Option.filter_eq_some_iff.1 he
    let u : State := { s with flows := updateSlot n (fun e => { e with lastLink := some l }) s.flows }
    have hupd : updateLastLink l (some n) s
        = if e.lastLink = some l.other then raise .timingPathChanged none u else u := by
      unfold updateLastLink
      simp only [hslot, if_pos hlast]
      rfl
    rw [hupd]
    by_cases hother : e.lastLink = some l.other
    · simp only [if_pos hother]
      obtain ⟨x, f, hr⟩ := raise_shape .timingPathChanged none u
      refine ⟨⟨_, _, _, hr⟩, by rw [hr]; rfl, raise_latch_same _ _ _, fun c hc => raise_latch_other _ _ _ _ hc⟩
    · simp only [if_neg hother]
      exact ⟨⟨_, _, _, rfl⟩, rfl, rfl, fun _ _ => rfl⟩

/-- R18, R123 to R126: a timing frame starts on an access port or SP. -/
theorem serveAccess_timing {p : Port} {s : State} {d : Descriptor} {rest : List Descriptor} (hup : (s.port p).linkUp = true)
    (hidle : (s.port p).tx = none) (hl : s.localQ p = []) (hq : s.queues.down.get p = d :: rest) (ht : d.cls = .timing) :
    (serveAccess p s).queues.down.get p = rest ∧ CorrectedOn p d (d.airDelay.getD 0) s (serveAccess p s)
      ∧ (∀ c, c ≠ .correctionSaturated → (serveAccess p s).latch c = s.latch c) := by
  have hserve : serveAccess p s = beginTx p (.pool d) (correct p d (d.airDelay.getD 0) (s.setDown p rest)).1
      (correct p d (d.airDelay.getD 0) (s.setDown p rest)).2 := by
    unfold serveAccess
    rw [if_pos (by simp [hup, hidle]), hl]
    simp only [hq, if_pos ht]
  obtain ⟨hbytes, ⟨ports, mgmt, ev, hshape⟩, herr, hsat, hother⟩ := correct_spec p d (d.airDelay.getD 0) (s.setDown p rest)
  rw [hserve]
  refine ⟨?_, ⟨?_, ?_, hsat⟩, hother⟩
  · show (correct p d (d.airDelay.getD 0) (s.setDown p rest)).2.queues.down.get p = rest
    rw [hshape]
    exact PerPort.get_set_same _ _ _
  · obtain ⟨x, hx, hi⟩ := beginTx_tx p (.pool d) (correct p d (d.airDelay.getD 0) (s.setDown p rest)).1
      (correct p d (d.airDelay.getD 0) (s.setDown p rest)).2
    refine ⟨x, hx, hi, ?_⟩
    unfold beginTx at hx
    rw [State.port_setPort] at hx
    cases hx
    exact hbytes
  · refine Eq.trans ?_ herr
    show tget ((beginTx p (.pool d) _ _).port p).counters _ = _
    unfold beginTx
    rw [State.port_setPort]

/-- R98, R121 to R127: the head of the timing queue starts on a backhaul port. -/
theorem startTiming_spec {l : Link} {s v : State} {d : Descriptor} {rest : List Descriptor} (hb : Begins l s v) :
    let t := startTiming l d rest v
    let entry := d.slot.bind fun n => (slotEntry n s.flows).filter FlowEntry.hasLastLink
    t.queues.timing = rest ∧ CorrectedOn (.bh l) d (s.airDelay l) s t
    ∧ t.bucket .timing = chargedNow .timing d.length s ∧ t.bucket (.pacing l) = chargedNow (.pacing l) d.length s
    ∧ t.flows = (match d.slot, entry with
        | some n, some _ => s.flows.map fun y => if y.1 = n then (y.1, { y.2 with lastLink := some l }) else y
        | _, _ => s.flows)
    ∧ t.latch .timingPathChanged = (match entry with
        | some e => if e.lastLink = some l.other then (s.latch .timingPathChanged).occur s.nowNs none
                    else s.latch .timingPathChanged
        | none => s.latch .timingPathChanged)
    ∧ (∀ c, c ≠ .timingPathChanged → c ≠ .correctionSaturated → t.latch c = s.latch c) := by
  intro t entry
  have hchg := hb.charged
  obtain ⟨d0, e0, rfl, _, _⟩ := hb.shape
  let v1 : State := { s with sched := d0, ev := e0, queues := { s.queues with timing := rest } }
  obtain ⟨d1, e1, h1, _, _, hb1⟩ := charge_spec (.pacing l) d.length v1
  obtain ⟨d2, e2, h2, _, _, hb2⟩ := charge_spec .timing d.length (charge (.pacing l) d.length v1)
  let s2 : State := charge .timing d.length (charge (.pacing l) d.length v1)
  have hs2 : s2 = { s with sched := d2, ev := e2, queues := { s.queues with timing := rest } } := by
    show charge .timing d.length (charge (.pacing l) d.length v1) = _
    rw [h2, h1]
  have hair : s2.airDelay l = s.airDelay l := by rw [hs2]; rfl
  have ht : t = kick (.bh l.other) (beginTx (.bh l) (.pool d) (correct (.bh l) d (s2.airDelay l) s2).1
      (updateLastLink l d.slot (correct (.bh l) d (s2.airDelay l) s2).2)) := rfl
  obtain ⟨hbytes, ⟨ports, mgmt, ev, hshape⟩, herr, hsat, hother⟩ := correct_spec (.bh l) d (s2.airDelay l) s2
  obtain ⟨⟨flows, mgmt', ev', hlink⟩, hflows, hpath, hrest⟩ :=
    updateLastLink_spec l d.slot (correct (.bh l) d (s2.airDelay l) s2).2
  have hbucket : ∀ b, t.bucket b = s2.bucket b := fun b => by
    rw [ht]
    show ((updateLastLink l d.slot (correct (.bh l) d (s2.airDelay l) s2).2).bucket b) = _
    rw [hlink, hshape]
    cases b <;> rfl
  have hsflows : (correct (.bh l) d (s2.airDelay l) s2).2.flows = s.flows := by rw [hshape, hs2]
  have hslatch : ∀ c, s2.latch c = s.latch c := fun c => by rw [hs2]; rfl
  have hsnow : s2.now = s.now ∧ (correct (.bh l) d (s2.airDelay l) s2).2.nowNs = s.nowNs ∧ s2.nowNs = s.nowNs := by
    rw [hshape, hs2]; exact ⟨rfl, rfl, rfl⟩
  have hports : (updateLastLink l d.slot (correct (.bh l) d (s2.airDelay l) s2).2).port (.bh l)
      = (correct (.bh l) d (s2.airDelay l) s2).2.port (.bh l) := by rw [hlink]; rfl
  rw [hsflows] at hflows hpath
  rw [hsnow.1] at hbytes hsat
  rw [hair] at hbytes hsat
  rw [hsnow.2.1, hother _ (by simp), hslatch] at hpath
  refine ⟨?_, ⟨?_, ?_, ?_⟩, ?_, ?_, hflows, hpath, fun c hc1 hc2 => ?_⟩
  · rw [ht]
    show (updateLastLink l d.slot (correct (.bh l) d (s2.airDelay l) s2).2).queues.timing = rest
    rw [hlink, hshape, hs2]
  · obtain ⟨x, hx, hi⟩ := beginTx_tx (.bh l) (.pool d) (correct (.bh l) d (s2.airDelay l) s2).1
      (updateLastLink l d.slot (correct (.bh l) d (s2.airDelay l) s2).2)
    refine ⟨x, hx, hi, ?_⟩
    unfold beginTx at hx
    rw [State.port_setPort] at hx
    cases hx
    rw [hair]
    exact hbytes
  · rw [ht]
    have hbegin : ((kick (.bh l.other) (beginTx (.bh l) (.pool d) (correct (.bh l) d (s2.airDelay l) s2).1
        (updateLastLink l d.slot (correct (.bh l) d (s2.airDelay l) s2).2))).port (.bh l)).counters
        = ((updateLastLink l d.slot (correct (.bh l) d (s2.airDelay l) s2).2).port (.bh l)).counters := by
      show ((beginTx (.bh l) (.pool d) _ _).port (.bh l)).counters = _
      unfold beginTx
      rw [State.port_setPort]
    simp only [hbegin, hports, herr]
    rw [hs2]
    rfl
  · show t.latch .correctionSaturated = _
    rw [ht]
    show (updateLastLink l d.slot (correct (.bh l) d (s2.airDelay l) s2).2).latch .correctionSaturated = _
    rw [hrest _ (by simp), hair, hsat, hslatch, hsnow.2.2]
  · rw [hbucket, hb2, if_pos rfl, chargedNow, hb1, if_neg (by simp)]
    have hn : (charge (.pacing l) d.length v1).nowNs = s.nowNs := by rw [h1]; rfl
    rw [hn]
    exact hchg .timing d.length
  · rw [hbucket, hb2, if_neg (by simp), hb1, if_pos rfl]
    exact hchg (.pacing l) d.length
  · rw [ht]
    show (updateLastLink l d.slot (correct (.bh l) d (s2.airDelay l) s2).2).latch c = _
    rw [hrest c hc1, hother c hc2, hslatch]

/-- Settles O55. -/
theorem rewrittenCorrectionIsTheExactSum : Obligations.RewrittenCorrectionIsTheExactSum := by
  refine ⟨fun bytes off res hop h => rewritten_spec h, fun l s d rest hr hl hq hg => ?_,
    fun p s d rest hup hidle hl hq ht => serveAccess_timing hup hidle hl hq ht⟩
  obtain ⟨v, hb, hserve⟩ := serveBackhaul_timing hr hl hq hg
  rw [hserve]
  exact startTiming_spec hb

end Sys2Proof.Machine
end

section
/-!
PROOF. Generated test frames (R146, R147) and the start of the test queue's head (R96, R98, R154): O48.
-/

namespace Sys2Proof.Machine

/-! ## The head of the test queue (R96, R98) -/

/-- R147, R153, R154: the bytes of a test or reflected frame as they are sent. -/
theorem stampedTest_spec {d : Descriptor} {t : Ns} (h : holdsPayload d.frame 32 = true) :
    (stampedTest d t).length = d.frame.length ∧ fcsOk (stampedTest d t) = true
      ∧ (d.cls = .test → slice (payloadOffset d.frame + 8) 8 (stampedTest d t) = natToBytes 8 t.toNat)
      ∧ (d.cls ≠ .test → isTestFrame d.frame = true →
          slice (payloadOffset d.frame + 24) 8 (stampedTest d t) = natToBytes 8 t.toNat)
      ∧ (d.cls ≠ .test → isTestFrame d.frame = false →
          (stampedTest d t).take (d.frame.length - 4) = d.frame.take (d.frame.length - 4)) := by
  have hfits := holdsPayload_length h (by decide)
  have hn := length_natToBytes 8 t.toNat
  have hpatched : ∀ k, k + 8 ≤ 32 → ∀ out, out = withFcs (patch (payloadOffset d.frame + k) (natToBytes 8 t.toNat) d.frame) →
      out.length = d.frame.length ∧ fcsOk out = true
        ∧ slice (payloadOffset d.frame + k) 8 out = natToBytes 8 t.toNat := by
    rintro k hk out rfl
    generalize natToBytes 8 t.toNat = stamp at hn ⊢
    have hlen : (patch (payloadOffset d.frame + k) stamp d.frame).length = d.frame.length := length_patch (by omega)
    obtain ⟨h1, h2, _⟩ := withFcs_spec (b := patch (payloadOffset d.frame + k) stamp d.frame) (by omega)
    refine ⟨h1.trans hlen, h2, ?_⟩
    rw [slice_withFcs (by omega), ← hn]
    exact slice_patch (by omega)
  by_cases hcls : d.cls = .test
  · have hout : stampedTest d t = withFcs (patch (payloadOffset d.frame + 8) (natToBytes 8 t.toNat) d.frame) := if_pos hcls
    obtain ⟨h1, h2, h3⟩ := hpatched 8 (by omega) _ hout
    exact ⟨h1, h2, fun _ => h3, fun hc => absurd hcls hc, fun hc => absurd hcls hc⟩
  · by_cases htest : isTestFrame d.frame = true
    · have hout : stampedTest d t = withFcs (patch (payloadOffset d.frame + 24) (natToBytes 8 t.toNat) d.frame) :=
        (if_neg hcls).trans (if_pos (by simp [htest, h]))
      obtain ⟨h1, h2, h3⟩ := hpatched 24 (by omega) _ hout
      exact ⟨h1, h2, fun hc => absurd hc hcls, fun _ _ => h3, fun _ hf => by rw [htest] at hf; cases hf⟩
    · have hout : stampedTest d t = withFcs d.frame := (if_neg hcls).trans (if_neg (by simp [htest]))
      obtain ⟨h1, h2, h3⟩ := withFcs_spec (b := d.frame) (by omega)
      rw [hout]
      exact ⟨h1, h2, fun hc => absurd hc hcls, fun _ ht => absurd ht htest, fun _ _ => h3⟩

/-- R96, R98: the pass that starts the head of the test queue. -/
theorem serveBackhaul_test {l : Link} {s : State} {d : Descriptor} {rest : List Descriptor} (hr : ReadyNow l s)
    (hl : s.localQ (.bh l) = []) (hq : s.queues.timing.head?.filter (timingGoes l s) = none)
    (ht : freshTest l s = d :: rest) :
    (serveBackhaul l s).queues.test.get l = rest
    ∧ (∀ y c, y ∈ (s.queues.test.get l).takeWhile (testRefused (s.ctx l)) → c ∈ y.cells →
        c ∈ (serveBackhaul l s).pool.free)
    ∧ (serveBackhaul l s).bucket (.pacing l) = chargedNow (.pacing l) d.length s
    ∧ (serveBackhaul l s).mgmt = s.mgmt ∧ (serveBackhaul l s).queues.tenant = s.queues.tenant
    ∧ ∃ x, ((serveBackhaul l s).port (.bh l)).tx = some x ∧ x.item = .pool d ∧ x.bytes = stampedTest d s.nowNs := by
  obtain ⟨v, hbeg, hserve⟩ := serveBackhaul_past hr hl hq
  obtain ⟨d0, e0, free, hdrop, hbeg', _, hcells⟩ := dropRefused_shape hbeg
  have htq : (dropRefused l v).queues.test.get l = d :: rest := by
    rw [hdrop, ht]; exact PerLink.get_set_same _ _ _
  have hpass : passTestAndTenants l v = startTest l d rest (dropRefused l v) := by
    unfold passTestAndTenants
    simp only [htq]
  let u : State := { s with
    sched := d0, ev := e0, pool := { s.pool with free }
    queues := { s.queues with test := (s.queues.test.set l (freshTest l s)).set l rest } }
  have hstart : serveBackhaul l s = beginTx (.bh l) (.pool d) (stampedTest d s.nowNs) (charge (.pacing l) d.length u) := by
    rw [hserve, hpass, hdrop]
    rfl
  obtain ⟨d1, e1, h1, _, _, hb⟩ := charge_spec (.pacing l) d.length u
  rw [hstart]
  refine ⟨?_, fun y c hy hc => ?_, ?_, ?_, ?_, ?_⟩
  · show (charge (.pacing l) d.length u).queues.test.get l = rest
    rw [h1]
    exact PerLink.get_set_same _ _ _
  · show c ∈ (charge (.pacing l) d.length u).pool.free
    rw [h1]
    exact hcells y c hy hc
  · show (charge (.pacing l) d.length u).bucket (.pacing l) = _
    rw [hb, if_pos rfl]
    exact hbeg'.charged (.pacing l) d.length
  · show (charge (.pacing l) d.length u).mgmt = _
    rw [h1]
  · show (charge (.pacing l) d.length u).queues.tenant = _
    rw [h1]
  · refine ⟨{ item := .pool d, bytes := stampedTest d s.nowNs
              ends := txEnd (charge (.pacing l) d.length u).now false (stampedTest d s.nowNs).length }, ?_, rfl, rfl⟩
    unfold beginTx
    rw [State.port_setPort]
    rfl

/-! ## A frame that falls due (R146, R147) -/

/-- While the phase under way has not ended, no phase ends. -/
theorem endPhases_early {l : Link} {s : State} {x : Instant} (h : (s.ctx l).phaseEnd = some x) (hr : reached s.now x = false) :
    endPhases l s = s := by
  unfold endPhases runPhases
  simp only [h]
  split
  · next e r i he _ _ =>
    cases he
    rw [hr]
    simp
  · rfl

/-- The front of a generated test frame (12.3). -/
theorem testFrameBytes_spec (s : State) (c : Context) (r : StepRecord) (i : Fin 32) (h : 64 ≤ r.length) :
    (testFrameBytes s c r i).length = r.length
      ∧ slice 0 6 (testFrameBytes s c r i) = natToBytes 6 s.store.runAddr.toNat
      ∧ slice 6 6 (testFrameBytes s c r i) = slice 0 6 (testFrameBytes s c r i)
      ∧ slice 18 4 (testFrameBytes s c r i) = [0x04#8, c.runNo, BitVec.ofNat 8 i.val, 0#8]
      ∧ slice 22 4 (testFrameBytes s c r i) = natToBytes 4 c.nextSeq.toNat := by
  have ha := length_natToBytes 6 s.store.runAddr.toNat
  have ht : (tagBytes (BitVec.ofNat 16 ((c.testKey.bind fun k => k.vlan).getD 0)) ++ ownType).length = 6 := by
    unfold tagBytes ownType
    rw [List.length_append, List.length_append, length_natToBytes]
    rfl
  have hseq := length_natToBytes 4 c.nextSeq.toNat
  have hbytes : testFrameBytes s c r i
      = natToBytes 6 s.store.runAddr.toNat ++ (natToBytes 6 s.store.runAddr.toNat
        ++ ((tagBytes (BitVec.ofNat 16 ((c.testKey.bind fun k => k.vlan).getD 0)) ++ ownType)
        ++ ([0x04#8, c.runNo, BitVec.ofNat 8 i.val, 0#8] ++ (natToBytes 4 c.nextSeq.toNat
        ++ List.replicate (r.length - 26) 0#8)))) := by
    unfold testFrameBytes
    simp only [List.length_append, List.length_cons, List.length_nil, length_natToBytes, tagBytes, ownType, List.append_assoc]
  rw [hbytes]
  generalize natToBytes 6 s.store.runAddr.toNat = a at ha ⊢
  generalize tagBytes (BitVec.ofNat 16 ((c.testKey.bind fun k => k.vlan).getD 0)) ++ ownType = b at ht ⊢
  generalize natToBytes 4 c.nextSeq.toNat = q at hseq ⊢
  have hfirst : ∀ (n : Nat) (x y : List Byte), x.length = n → slice 0 n (x ++ y) = x := fun n x y hx => by
    rw [slice, List.drop_zero, List.take_left' hx]
  have hskip : ∀ (n m : Nat) (x y : List Byte), x.length ≤ n → slice n m (x ++ y) = slice (n - x.length) m y := by
    intro n m x y hx
    rw [slice, slice, List.drop_append, List.drop_of_length_le hx, List.nil_append]
  refine ⟨?_, hfirst 6 a _ ha, ?_, ?_, ?_⟩
  · simp only [List.length_append, List.length_cons, List.length_nil, List.length_replicate, ha, ht, hseq]
    omega
  · rw [hskip 6 6 a _ (by omega), ha, hfirst 6 a _ ha, hfirst 6 a _ ha]
  · rw [hskip 18 4 a _ (by omega), ha, hskip _ 4 a _ (by omega), ha, hskip _ 4 b _ (by omega), ht]
    exact hfirst 4 _ _ rfl
  · rw [hskip 22 4 a _ (by omega), ha, hskip _ 4 a _ (by omega), ha, hskip _ 4 b _ (by omega), ht,
      hskip _ 4 [0x04#8, c.runNo, BitVec.ofNat 8 i.val, 0#8] _ (by simp)]
    exact hfirst 4 _ _ hseq

/-- R146: the context of an accepted test frame. -/
theorem generated_eq (c : Context) (g : Generator) :
    ({ c with gen := g } : Context).generated = { c with
      gen := g, nextSeq := c.nextSeq + 1
      sent := if c.state = .measure then c.sent + 1 else c.sent
      range := if c.state = .measure then some ((c.range.map fun y => y.1).getD c.nextSeq, c.nextSeq) else c.range } := by
  by_cases hm : c.state = .measure
  · have hgen : ({ c with gen := g } : Context).generated
        = { c with gen := g, nextSeq := c.nextSeq + 1, sent := c.sent + 1, range := extendRange c.nextSeq c.range } := if_pos hm
    have hrange : extendRange c.nextSeq c.range = some ((c.range.map fun y => y.1).getD c.nextSeq, c.nextSeq) := by
      cases c.range <;> rfl
    rw [hgen, hrange, if_pos hm, if_pos hm]
  · have hgen : ({ c with gen := g } : Context).generated = { c with gen := g, nextSeq := c.nextSeq + 1 } := if_neg hm
    rw [hgen, if_neg hm, if_neg hm]

/-- The state after an offer to the test queue: an accepted frame is counted in its context (R146). -/
def testOffered (l : Link) : Bool × State → State
  | (true, s) => s.setCtx l (s.ctx l).generated
  | (false, s) => s

/-- A generated frame that is due is offered to the test queue. -/
theorem generateTest_due {l : Link} {s : State} {r : StepRecord} {i : Fin 32} {g : Generator} (he : endPhases l s = s)
    (hr : (s.ctx l).step = some r) (hi : (s.ctx l).current = some i)
    (hst : (s.ctx l).state = .settle ∨ (s.ctx l).state = .measure) (hg : generatorDue r (s.ctx l).gen s.now = some g) :
    generateTest l s
      = testOffered l (offerTest l (testDescriptor l (testFrameBytes s (s.ctx l) r i)) (s.setCtx l { s.ctx l with gen := g })) := by
  unfold generateTest
  rw [he]
  dsimp only
  split
  · next r' i' hr' hi' =>
    cases hr.symm.trans hr'
    cases hi.symm.trans hi'
    rw [if_pos (decide_eq_true hst)]
    split
    · next hg' => rw [hg] at hg'; cases hg'
    · next g' hg' =>
      cases hg.symm.trans hg'
      rfl
  · next hno => exact absurd hi (hno r i hr)

/-- The event of a test frame that falls due, by whether the test queue takes it. -/
theorem generateTest_event {l : Link} {s : State} {x : Instant} {r : StepRecord} {i : Fin 32} {g : Generator}
    (he : (s.ctx l).phaseEnd = some x) (hx : reached s.now x = false) (hr : (s.ctx l).step = some r)
    (hi : (s.ctx l).current = some i) (hst : (s.ctx l).state = .settle ∨ (s.ctx l).state = .measure)
    (hlen : 64 ≤ r.length) (hg : generatorDue r (s.ctx l).gen s.now = some g) :
    let c := s.ctx l
    let d := withCells s (testDescriptor l (testFrameBytes s c r i))
    ∃ t, exec (.testFrameDue l) s = .next t
      ∧ (if occupancy (s.queues.test.get l) + (r.length + 255) / 256 ≤ 128
            ∧ (r.length + 255) / 256 ≤ s.pool.free.length then
          t.qual = { s.qual with ctx := s.qual.ctx.set l ({ c with gen := g } : Context).generated }
          ∧ TrafficKept { s with
              queues := { s.queues with test := s.queues.test.set l (s.queues.test.get l ++ [d]) }
              pool := { s.pool with free := s.pool.free.drop ((r.length + 255) / 256) }
              qual := t.qual } t
          ∧ Kept [.qual, .traffic] s t
         else t.qual = { s.qual with ctx := s.qual.ctx.set l { c with gen := g } } ∧ Kept [.qual] s t) := by
  intro c d
  have hdue : testFrameIsDue l s = true := by
    unfold testFrameIsDue
    simp only [hr, hg, decide_eq_true hst, Option.isSome_some, Bool.and_self]
  have hearly : endPhases l s.begun = s.begun := endPhases_early (s := s.begun) he hx
  obtain ⟨hframe, _⟩ := testFrameBytes_spec s c r i hlen
  have hsplit : generateTest l s.begun
      = testOffered l (offerTest l (testDescriptor l (testFrameBytes s c r i)) (s.begun.setCtx l { c with gen := g })) := by
    exact generateTest_due (s := s.begun) hearly hr hi hst hg
  have hdlen : (testDescriptor l (testFrameBytes s c r i)).length = r.length := hframe
  refine ⟨_, if_pos hdue, ?_⟩
  by_cases hfit : occupancy (s.queues.test.get l) + (r.length + 255) / 256 ≤ 128
      ∧ (r.length + 255) / 256 ≤ s.pool.free.length
  · rw [if_pos hfit]
    have hfits : fits (s.begun.setCtx l { c with gen := g }) (s.queues.test.get l) 128
        (testDescriptor l (testFrameBytes s c r i)).length = true := by
      rw [hdlen]
      exact decide_eq_true hfit
    let qual' : Qual := { s.qual with ctx := s.qual.ctx.set l ({ c with gen := g } : Context).generated }
    let u : State := { s.begun with
      qual := qual', ev := (kick (.bh l) s.begun).ev
      queues := { s.queues with test := s.queues.test.set l (s.queues.test.get l ++ [d]) }
      pool := { s.pool with free := s.pool.free.drop ((r.length + 255) / 256) } }
    have hoffer : offerTest l (testDescriptor l (testFrameBytes s c r i)) (s.begun.setCtx l { c with gen := g })
        = (true, kick (.bh l) (takeCells (testDescriptor l (testFrameBytes s c r i)).length
          { s.begun.setCtx l { c with gen := g } with
            queues := { s.queues with test := s.queues.test.set l (s.queues.test.get l ++ [d]) } })) := if_pos hfits
    have hop : generateTest l s.begun = u := by
      rw [hsplit, hoffer, hdlen]
      have hset : ∀ x y : Context, (s.qual.ctx.set l x).set l y = s.qual.ctx.set l y := fun x y => by cases l <;> rfl
      have hctx : ∀ v : State, v.qual = { s.qual with ctx := s.qual.ctx.set l { c with gen := g } } →
          v.setCtx l (v.ctx l).generated = { v with qual := qual' } := fun v hv => by
        have hget : v.ctx l = { c with gen := g } := by
          unfold State.ctx
          rw [hv]
          exact PerLink.get_set_same _ _ _
        rw [hget]
        unfold State.setCtx
        rw [hv]
        simp only [hset, qual']
      exact hctx _ rfl
    have hw : Writes [.qual, .traffic] s u :=
      ((ev_steady s noWork).writes.mono (by simp)).trans
        (((qual_steady s.begun qual').writes.mono (by simp)).trans
          ((traffic_writes { s.begun with qual := qual' } u.queues _ u.ev).mono (by simp)))
    obtain ⟨hkept, hdep⟩ := event_writes hop hw (told_still rfl rfl rfl (fun _ => rfl) fun _ => rfl)
      (fun _ => List.suffix_refl _) fun _ _ h => h
    have hqual : (event (generateTest l) s).qual = qual' := hdep.1 .qual rfl
    refine ⟨hqual, ?_, hkept⟩
    refine TrafficKept.trans (t := u) (TrafficKept.of_eq rfl (fun _ => rfl) rfl) (fun _ => rfl) hdep
  · rw [if_neg hfit]
    have hfits : ¬fits (s.begun.setCtx l { c with gen := g }) (s.queues.test.get l) 128
        (testDescriptor l (testFrameBytes s c r i)).length = true := fun h => hfit (by
      rw [hdlen] at h
      exact of_decide_eq_true h)
    have hoffer : offerTest l (testDescriptor l (testFrameBytes s c r i)) (s.begun.setCtx l { c with gen := g })
        = (false, s.begun.setCtx l { c with gen := g }) := if_neg hfits
    have hop : generateTest l s.begun = s.begun.setCtx l { c with gen := g } := by rw [hsplit, hoffer]; rfl
    have hsteady : Steady [.qual] s.begun (generateTest l s.begun) := by
      rw [hop]
      exact qual_steady _ _
    have hdep : Departs (generateTest l s.begun) (event (generateTest l) s) := event_departs _ _
    exact ⟨(hdep.1 .qual rfl).trans (by rw [hop]; rfl),
      hsteady.event (by rw [hop]; exact told_still rfl rfl rfl (fun _ => rfl) fun _ => rfl)⟩

/-- Settles O48. -/
theorem testFramesAreGeneratedWhenDue : Obligations.TestFramesAreGeneratedWhenDue := by
  refine ⟨fun l s x r i he hx hr hi hst hlen => ?_, fun l s d rest hr hl hq ht => ?_⟩
  · intro c bits credit due
    have hdue : generatorDue r c.gen s.now = due := by
      show generatorDue r c.gen s.now = (match c.gen with | .none => _ | .load k res at' => _ | .probe next => _)
      cases c.gen <;> rfl
    refine ⟨fun hnone => ?_, fun g hg => ?_⟩
    · refine if_neg fun h => ?_
      unfold testFrameIsDue at h
      simp only [hr, show generatorDue r (s.ctx l).gen s.now = none from hdue.trans hnone, Option.isSome_none,
        Bool.and_false, Bool.false_eq_true] at h
    obtain ⟨t, hexec, ht⟩ := generateTest_event he hx hr hi hst hlen (hdue.trans hg)
    refine ⟨t, hexec, ?_⟩
    by_cases hfit : occupancy (s.queues.test.get l) + (r.length + 255) / 256 ≤ 128
        ∧ (r.length + 255) / 256 ≤ s.pool.free.length
    · rw [if_pos hfit] at ht ⊢
      obtain ⟨hqual, htraffic, hkept⟩ := ht
      obtain ⟨h1, h2, h3, h4, h5⟩ := testFrameBytes_spec s c r i hlen
      refine ⟨?_, ⟨withCells s (testDescriptor l (testFrameBytes s c r i)), h1, h1, rfl, rfl, rfl, ?_, h2, h3, h4, h5, htraffic⟩, hkept⟩
      · rw [hqual, generated_eq]
      · show s.pool.free.take (cellsFor (testFrameBytes s c r i).length) = _
        rw [h1]
        rfl
    · rw [if_neg hfit] at ht ⊢
      exact ht
  · intro t off
    obtain ⟨h1, h2, h3, h4, h5, x, hx, hi, hb⟩ := serveBackhaul_test hr hl hq ht
    refine ⟨h1, h2, h3, h4, h5, x, hx, hi, fun hholds => ?_⟩
    rw [hb]
    exact stampedTest_spec hholds

end Sys2Proof.Machine
end

section
/-!
PROOF. The expiry of the demand window (R69, R81): O41.
-/

namespace Sys2Proof.Machine

/-- An event that is a quiet change and one computation. -/
theorem computation_event {w : List Part} {f : State → State} {s u : State} (hop : f s.begun = recompute u)
    (hu : Steady w s.begun u) (hq : Quiet s.begun u) (ht : Told s.begun u) (hw : Part.linkUp ∉ w := by decide) :
    Departs (recompute u) (event f s) ∧ OneComputation s (event f s)
      ∧ (event f s).share = { u.share with table := (event f s).share.table } ∧ OtherRatesKept [] s (event f s)
      ∧ DepthsKept [] s (event f s) ∧ LatchesKept [.capacityChanged] s (event f s)
      ∧ Kept (computed ++ w) s (event f s) := by
  have hdep : Departs (recompute u) (event f s) := by
    rw [← hop]
    exact event_departs _ _
  have hsteady : Steady (computed ++ w) s.begun (f s.begun) := by
    rw [hop]
    exact (hu.mono (by simp +contextual)).trans ((recompute_steady u).mono (by simp +contextual))
  obtain ⟨h1, h2, h3, h4, h5⟩ := hq.computed hdep
  refine ⟨hdep, h1, h2, h3, h4, h5, hsteady.event (by rw [hop]; exact ht.trans (told_recompute u)) fun hup => ?_⟩
  rcases List.mem_append.1 hup with h | h
  · exact absurd h (by decide)
  · exact absurd h hw

/-- Settles O41. -/
theorem demandWindowExpiryMeasures : Obligations.DemandWindowExpiryMeasures := by
  intro s w hw
  refine ⟨fun hr => if_neg (by simp [windowDue, hw, hr]), fun hr => ?_⟩
  let u : State := { s.begun with
    tenants := s.tenants.map (TenantUnit.measured w.lengthMs)
    share := { s.share with
      window := some { lengthMs := s.cfg.params.windowMs, ends := afterMs w.ends s.cfg.params.windowMs } } }
  have hop : windowExpires s.begun = recompute u := by
    unfold windowExpires
    rw [show s.begun.share.window = some w from hw]
  have htenant : ∀ i, u.tenant i = (s.tenant i).measured w.lengthMs := fun i => tget_map _ _ i
  have hsteady : Steady [.demand, .share] s.begun u := by
    have hdemand : Steady [.demand] s.begun { s.begun with tenants := s.tenants.map (TenantUnit.measured w.lengthMs) } :=
      tenants_steady s.begun _ fun i => by rw [tget_map]; exact ⟨rfl, rfl, rfl, rfl⟩
    exact (hdemand.mono (by simp)).trans ((share_steady _ _).mono (by simp))
  have hquiet : Quiet s.begun u := ⟨rfl, fun i => by rw [htenant]; rfl, fun b => by cases b <;> exact ⟨rfl, rfl⟩, fun _ => rfl, rfl⟩
  obtain ⟨hdep, h1, h2, h3, h4, h5, hkept⟩ :=
    computation_event hop hsteady hquiet (told_still rfl rfl rfl (fun _ => rfl) fun _ => rfl)
  refine ⟨_, if_pos (by simp [windowDue, hw, hr]), fun i => ?_, h1, h2, h3, h4, h5, hkept.mono (by simp [computed])⟩
  obtain ⟨hbytes, hdemand⟩ := (hdep.1 .demand rfl : ∀ i, _) i
  obtain ⟨hbytes', hdemand'⟩ := ((recompute_steady u).kept .demand (by decide) rfl : ∀ i, _) i
  rw [hdemand, hbytes, hdemand', hbytes', htenant]
  exact ⟨rfl, rfl⟩

end Sys2Proof.Machine
end

section
/-!
PROOF. The operations of Link Control and the Qualification Engine (R40, R72, R148, R152): what each of them writes, which
conditions it raises, which rates it gives, and when the allocation table is computed.
-/

namespace Sys2Proof.Machine

/-! ## What a control operation leaves -/

/-- A control operation writes the parts given, raises no condition outside a list, and gives a rate of its own to no
pacing or reflect bucket outside another. -/
structure Controls (w : List Part) (ls : List Cond) (bs : List BucketId) (s t : State) : Prop where
  steady : Steady w s t
  told : Told s t
  latches : ∀ c, c ∉ ls → t.latch c = s.latch c
  rates : ∀ b, isShared b = false → b ∉ bs → (t.bucket b).rate = (s.bucket b).rate
  depths : ∀ b, (t.bucket b).depth = (s.bucket b).depth

theorem Controls.refl (w : List Part) (ls : List Cond) (bs : List BucketId) (s : State) : Controls w ls bs s s :=
  ⟨Steady.refl _ _, Told.refl _, fun _ _ => rfl, fun _ _ _ => rfl, fun _ => rfl⟩

theorem Controls.mono {w v : List Part} {ls ks : List Cond} {bs cs : List BucketId} {s t : State} (h : Controls w ls bs s t)
    (hw : ∀ a ∈ w, a ∈ v) (hl : ∀ c ∈ ls, c ∈ ks) (hb : ∀ b ∈ bs, b ∈ cs) : Controls v ks cs s t :=
  ⟨h.steady.mono hw, h.told, fun c hc => h.latches c fun hm => hc (hl c hm),
    fun b hs hn => h.rates b hs fun hm => hn (hb b hm), h.depths⟩

theorem Controls.trans {w : List Part} {ls : List Cond} {bs : List BucketId} {s t u : State} (h : Controls w ls bs s t)
    (k : Controls w ls bs t u) : Controls w ls bs s u :=
  ⟨h.steady.trans k.steady, h.told.trans k.told, fun c hc => (k.latches c hc).trans (h.latches c hc),
    fun b hs hn => (k.rates b hs hn).trans (h.rates b hs hn), fun b => (k.depths b).trans (h.depths b)⟩

/-- A change of records that no bucket and no latch shows. -/
theorem Controls.plain {w : List Part} {s t : State} (hs : Steady w s t) (hm : t.mgmt = s.mgmt)
    (ho : t.ev.outbox = s.ev.outbox) (he : t.time.elapsed = s.time.elapsed) (hd : t.sched = s.sched) :
    Controls w [] [] s t := by
  have hb : ∀ b, t.bucket b = s.bucket b := fun b => by cases b <;> (unfold State.bucket; rw [hd])
  exact ⟨hs, told_still hm ho he (fun p => by unfold State.localQ; rw [hs.queues]) hs.tx,
    fun c _ => by unfold State.latch; rw [hm], fun b _ _ => by rw [hb], fun b => by rw [hb]⟩

theorem controls_raise (c : Cond) (d : Option Nat) (s : State) : Controls [.latches] [c] [] s (raise c d s) := by
  obtain ⟨_, hb, _⟩ := raise_quiet c d s
  exact ⟨raise_steady c d s, told_raise c d s, fun k hk => raise_latch_other _ _ _ _ (by simpa using hk),
    fun b _ _ => by rw [hb], fun b => by rw [hb]⟩

theorem controls_recompute (s : State) : Controls computed [.capacityChanged] [] s (recompute s) := by
  obtain ⟨d, e, x, _, _, _, hother, hdepth, hlatch, _⟩ := recompute_shape s
  refine ⟨recompute_steady s, told_recompute s, fun c hc => hlatch c (by simpa using hc), fun b hs _ => ?_, hdepth⟩
  cases b with
  | tenant i => cases hs
  | timing => cases hs
  | reflect l => exact (hother l).2
  | pacing l => exact (hother l).1

theorem controls_setRate (l : Link) (r : Nat) (s : State) : Controls [.rates] [] [.pacing l] s (setRate (.pacing l) r s) := by
  obtain ⟨d, e, hd, hrate, hdepth⟩ := setRate_shape (.pacing l) r s
  exact ⟨setRate_steady _ _ _ (by simp), told_setRate _ _ _, fun c _ => by rw [hd]; rfl,
    fun b _ hn => (hrate b).trans (if_neg (by simpa using hn)), hdepth⟩

/-- Nothing that a computation publishes has changed. -/
structure Unpublished (s t : State) : Prop where
  table : t.share.table = s.share.table
  allocation : ∀ i, (t.tenant i).allocation = (s.tenant i).allocation
  rates : ∀ b, (t.bucket b).rate = (s.bucket b).rate

theorem Unpublished.refl (s : State) : Unpublished s s := ⟨rfl, fun _ => rfl, fun _ => rfl⟩

theorem Unpublished.trans {s t u : State} (h : Unpublished s t) (k : Unpublished t u) : Unpublished s u :=
  ⟨k.table.trans h.table, fun i => (k.allocation i).trans (h.allocation i), fun b => (k.rates b).trans (h.rates b)⟩

theorem Unpublished.plain {s t : State} (hs : t.share.table = s.share.table) (ht : t.tenants = s.tenants)
    (hd : t.sched = s.sched) : Unpublished s t :=
  ⟨hs, fun i => by unfold State.tenant; rw [ht], fun b => by cases b <;> (unfold State.bucket; rw [hd])⟩

theorem unpublished_raise (c : Cond) (d : Option Nat) (s : State) : Unpublished s (raise c d s) := by
  obtain ⟨hs, hb, _, _, _, _, ht, _⟩ := raise_quiet c d s
  exact ⟨by rw [hs], fun i => by unfold State.tenant; rw [ht], fun b => by rw [hb]⟩

/-! ## Computations that stand -/

theorem recompute_computed (s : State) : Computed (recompute s) := (recompute_departs (Departs.refl _)).1.1

theorem recounted {x y p q : AllocTable} {n : Nat} (h : p = { x with computations := p.computations })
    (hy : y = { x with computations := n }) (hq : q = p) : q = { y with computations := q.computations } := by
  subst hy hq
  exact h

/-- A computed table stands while what it was computed from, and what it has published, stay. -/
theorem Computed.of_kept {w : List Part} {s t : State} (h : Computed s) (hs : Steady w s t) (hp : Unpublished s t)
    (hshare : t.share.testRate = s.share.testRate ∧ t.share.reflectPresent = s.share.reflectPresent)
    (hl : t.links = s.links) (hc : Part.config ∉ w := by decide) (ht : Part.time ∉ w := by decide)
    (hd : Part.demand ∉ w := by decide) : Computed t := by
  obtain ⟨h1, h2, h3, h4⟩ := h
  have htable := computeTable_congr (s := s) (t := t) (hs.kept .config hc rfl) hl hshare.1 hshare.2 (hs.kept .time ht rfl)
    fun i => ((hs.kept .demand hd rfl : ∀ i, _) i).2
  refine ⟨recounted h1 htable hp.table, fun i => ?_, fun i => ?_, ?_⟩
  · rw [hp.allocation, hp.table]; exact h2 i
  · rw [hp.rates, hp.table]; exact h3 i
  · rw [hp.rates, hp.table]; exact h4

theorem Departs.unpublished {s t : State} (h : Departs s t) : Unpublished s t :=
  ⟨by rw [show t.share = s.share from h.1 .share rfl], h.1 .allocation rfl, fun b => ((h.1 .rates rfl : ∀ b, _) b).1⟩

theorem Computed.departs {s t : State} (h : Computed s) (k : Departs s t) : Computed t := by
  have hshare : t.share = s.share := k.1 .share rfl
  obtain ⟨h1, h2, h3, h4⟩ := h
  have htable := computeTable_congr (s := s) (t := t) (k.1 .config rfl) (k.1 .links rfl) (by rw [hshare]) (by rw [hshare])
    (k.1 .time rfl) fun i => ((k.1 .demand rfl : ∀ i, _) i).2
  have hp := k.unpublished
  refine ⟨recounted h1 htable hp.table, fun i => ?_, fun i => ?_, ?_⟩
  · rw [hp.allocation, hp.table]; exact h2 i
  · rw [hp.rates, hp.table]; exact h3 i
  · rw [hp.rates, hp.table]; exact h4

/-- What E_L and the service of a link are read from. -/
theorem el_congr {s t : State} (hc : t.cfg = s.cfg) (hl : t.links = s.links) (l : Link) :
    t.el l = s.el l ∧ t.inService l = s.inService l := by
  unfold State.el State.inService State.link
  rw [hc, hl]
  exact ⟨rfl, rfl⟩

theorem Controls.el {w : List Part} {ls : List Cond} {bs : List BucketId} {s t : State} (h : Controls w ls bs s t) (l : Link)
    (hc : Part.config ∉ w := by decide) (hl : Part.links ∉ w := by decide) :
    t.el l = s.el l ∧ t.inService l = s.inService l :=
  el_congr (h.steady.kept .config hc rfl) (h.steady.kept .links hl rfl) l

theorem Departs.el {s t : State} (h : Departs s t) (l : Link) : t.el l = s.el l ∧ t.inService l = s.inService l :=
  el_congr (h.1 .config rfl) (h.1 .links rfl) l

/-! ## Test rates (R72, R148) -/

theorem PerLink.set_get {α : Type} (v : PerLink α) (l : Link) : v.set l (v.get l) = v := by cases l <;> rfl

theorem PerLink.set_set {α : Type} (v : PerLink α) (l : Link) (x y : α) : (v.set l x).set l y = v.set l y := by
  cases l <;> rfl

theorem PerLink.get_set_other {α : Type} (v : PerLink α) (l : Link) (x : α) : (v.set l x).get l.other = v.get l.other := by
  cases l <;> rfl

/-- A test rate held. -/
def rateHeld (l : Link) (r : Nat) (s : State) : State :=
  { s with share := { s.share with testRate := s.share.testRate.set l r } }

theorem reportTestRate_same {l : Link} {r : Nat} {s : State} (h : s.share.testRate.get l = r) :
    reportTestRate l r s = s ∧ rateHeld l r s = s := by
  refine ⟨if_pos h, ?_⟩
  unfold rateHeld
  rw [← h, PerLink.set_get]

theorem reportTestRate_outside {l : Link} {r : Nat} {s : State} (h : s.inService l = false) :
    reportTestRate l r s = rateHeld l r s := by
  by_cases hr : s.share.testRate.get l = r
  · rw [(reportTestRate_same hr).1, (reportTestRate_same hr).2]
  · unfold reportTestRate
    simp only [if_neg hr, h]
    rfl

theorem reportTestRate_inside {l : Link} {r : Nat} {s : State} (hr : s.share.testRate.get l ≠ r) (h : s.inService l = true) :
    reportTestRate l r s = recompute (rateHeld l r s) := by
  unfold reportTestRate
  simp only [if_neg hr, h]
  rfl

theorem controls_rateHeld (l : Link) (r : Nat) (s : State) : Controls [.share] [] [] s (rateHeld l r s) :=
  .plain (share_steady s _) rfl rfl rfl rfl

theorem unpublished_rateHeld (l : Link) (r : Nat) (s : State) : Unpublished s (rateHeld l r s) := .plain rfl rfl rfl

theorem controls_reportTestRate (l : Link) (r : Nat) (s : State) :
    Controls computed [.capacityChanged] [] s (reportTestRate l r s) := by
  by_cases hr : s.share.testRate.get l = r
  · rw [(reportTestRate_same hr).1]; exact Controls.refl _ _ _ _
  have hheld : Controls computed [.capacityChanged] [] s (rateHeld l r s) :=
    (controls_rateHeld l r s).mono (by decide) (by simp) (by simp)
  by_cases h : s.inService l = true
  · rw [reportTestRate_inside hr h]
    exact hheld.trans (controls_recompute _)
  · rw [reportTestRate_outside (by simpa using h)]
    exact hheld

theorem reportTestRate_share (l : Link) (r : Nat) (s : State) :
    (reportTestRate l r s).share
      = { s.share with testRate := s.share.testRate.set l r, table := (reportTestRate l r s).share.table } := by
  by_cases hr : s.share.testRate.get l = r
  · rw [(reportTestRate_same hr).1, ← hr, PerLink.set_get]
  by_cases h : s.inService l = true
  · rw [reportTestRate_inside hr h]
    obtain ⟨d, e, x, hs, _⟩ := recompute_shape (rateHeld l r s)
    rw [hs]; rfl
  · rw [reportTestRate_outside (by simpa using h)]; rfl

/-- In service the report leaves a computed table computed. -/
theorem reportTestRate_computed {l : Link} {r : Nat} {s : State} (h : s.inService l = true) (hc : Computed s) :
    Computed (reportTestRate l r s) := by
  by_cases hr : s.share.testRate.get l = r
  · rw [(reportTestRate_same hr).1]; exact hc
  · rw [reportTestRate_inside hr h]; exact recompute_computed _

/-- Outside service, or at the rate already held, nothing is computed. -/
theorem reportTestRate_unpublished {l : Link} {r : Nat} {s : State}
    (h : s.inService l = false ∨ s.share.testRate.get l = r) :
    Controls [.share] [] [] s (reportTestRate l r s) ∧ Unpublished s (reportTestRate l r s) := by
  rcases h with h | h
  · rw [reportTestRate_outside h]
    exact ⟨controls_rateHeld l r s, unpublished_rateHeld l r s⟩
  · rw [(reportTestRate_same h).1]
    exact ⟨Controls.refl _ _ _ _, Unpublished.refl s⟩

/-! ## Aborted runs (R152) -/

theorem removeTest_eq (slot : Option Nat) (s : State) :
    removeTest slot s
      = { s with flows := s.flows.filter fun y => !(some y.1 == slot && decide (y.2.owner = .test)) } := by
  cases slot with
  | none =>
    have h : s.flows.filter (fun y => !(some y.1 == none && decide (y.2.owner = .test))) = s.flows := by
      rw [List.filter_eq_self]
      intro y _
      rfl
    rw [h]; rfl
  | some n => rfl

/-- The context of an aborted run (R152). -/
def Context.abortedBy (cause : Cause) (c : Context) : Context := (c.ended .aborted cause).dropCounts

/-- A run aborted, before its test rate is reported (R152). -/
def abortHeld (l : Link) (cause : Cause) (s : State) : State :=
  { s with qual := { s.qual with ctx := s.qual.ctx.set l ((s.ctx l).abortedBy cause) }, flows := withoutTest l s }

theorem abortRun_idle {l : Link} {cause : Cause} {s : State} (h : (s.ctx l).underWay = false) : abortRun l cause s = s :=
  if_neg (by simp [h])

theorem abortRun_eq {l : Link} {cause : Cause} {s : State} (h : (s.ctx l).underWay = true) :
    abortRun l cause s = reportTestRate l 0 (abortHeld l cause s) := by
  have hab : abortRun l cause s
      = reportTestRate l 0 (removeTest (s.ctx l).slot (s.setCtx l ((s.ctx l).abortedBy cause))) := if_pos h
  rw [hab, removeTest_eq]
  rfl

theorem run_steady (s : State) (q : Qual) (f : List (Nat × FlowEntry)) :
    Steady [.qual, .flows] s { s with qual := q, flows := f } :=
  ((qual_steady s q).mono (by simp)).trans ((flows_steady { s with qual := q } f).mono (by simp))

theorem controls_abortHeld (l : Link) (cause : Cause) (s : State) :
    Controls [.qual, .flows] [] [] s (abortHeld l cause s) :=
  .plain (run_steady s _ _) rfl rfl rfl rfl

theorem unpublished_abortHeld (l : Link) (cause : Cause) (s : State) : Unpublished s (abortHeld l cause s) :=
  .plain rfl rfl rfl

theorem controls_abortRun (l : Link) (cause : Cause) (s : State) :
    Controls (computed ++ [.qual, .flows]) [.capacityChanged] [] s (abortRun l cause s) := by
  cases h : (s.ctx l).underWay with
  | false => rw [abortRun_idle h]; exact Controls.refl _ _ _ _
  | true =>
    rw [abortRun_eq h]
    exact ((controls_abortHeld l cause s).mono (by decide) (by simp) (by simp)).trans
      ((controls_reportTestRate l 0 _).mono (by decide) (by simp) (by simp))

/-- What an abort leaves of a run under way. -/
theorem abortRun_under {l : Link} {cause : Cause} {s : State} (h : (s.ctx l).underWay = true) :
    Aborted l cause s (abortRun l cause s) ∧ (abortRun l cause s).flows = withoutTest l s
      ∧ (abortRun l cause s).share = { s.share with
          testRate := s.share.testRate.set l 0, table := (abortRun l cause s).share.table } := by
  have hk := controls_reportTestRate l 0 (abortHeld l cause s)
  have hqual := hk.steady.kept .qual (by decide) rfl
  have hshare := reportTestRate_share l 0 (abortHeld l cause s)
  rw [← abortRun_eq h] at hk hqual hshare
  have hflows : (abortRun l cause s).flows = withoutTest l s := by
    have hrec : ∀ u : State, (reportTestRate l 0 u).flows = u.flows := fun u => by
      by_cases hr : u.share.testRate.get l = 0
      · rw [(reportTestRate_same hr).1]
      · by_cases hin : u.inService l = true
        · rw [reportTestRate_inside hr hin]
          obtain ⟨d, e, x, hs, _⟩ := recompute_shape (rateHeld l 0 u)
          rw [hs]; rfl
        · rw [reportTestRate_outside (by simpa using hin)]; rfl
    rw [abortRun_eq h, hrec]
    rfl
  refine ⟨⟨hqual, by rw [hflows]; rfl, ?_, ?_⟩, hflows, hshare⟩
  · rw [hshare]; exact PerLink.get_set_same _ _ _
  · rw [hshare]; exact PerLink.get_set_other _ _ _

/-- An abort outside service, or of a run that holds no test rate, computes nothing. -/
theorem abortRun_unpublished {l : Link} {cause : Cause} {s : State}
    (h : s.inService l = false ∨ s.share.testRate.get l = 0) :
    Controls [.share, .qual, .flows] [] [] s (abortRun l cause s) ∧ Unpublished s (abortRun l cause s) := by
  cases hu : (s.ctx l).underWay with
  | false => rw [abortRun_idle hu]; exact ⟨Controls.refl _ _ _ _, Unpublished.refl s⟩
  | true =>
    rw [abortRun_eq hu]
    obtain ⟨h1, h2⟩ := reportTestRate_unpublished (r := 0) (s := abortHeld l cause s) (l := l) h
    exact ⟨((controls_abortHeld l cause s).mono (by simp) (by simp) (by simp)).trans (h1.mono (by simp) (by simp) (by simp)),
      (unpublished_abortHeld l cause s).trans h2⟩

theorem abortRun_computed {l : Link} {cause : Cause} {s : State} (h : s.inService l = true) (hc : Computed s) :
    Computed (abortRun l cause s) := by
  cases hu : (s.ctx l).underWay with
  | false => rw [abortRun_idle hu]; exact hc
  | true =>
    rw [abortRun_eq hu]
    exact reportTestRate_computed h (hc.of_kept (controls_abortHeld l cause s).steady (unpublished_abortHeld l cause s)
      ⟨rfl, rfl⟩ rfl)

/-! ## Link Control's report (R40) and the capacity check (R148) -/

/-- The E_L of a link does not carry the LOAD step of its in-service run (R148). -/
def overCapacity (l : Link) (s : State) : Prop :=
  ∃ r, (s.ctx l).step = some r ∧ (s.ctx l).inService = true ∧ r.kind = .load
    ∧ ((s.ctx l).state = .settle ∨ (s.ctx l).state = .measure) ∧ s.el l < r.rate

theorem capacityCheck_over {l : Link} {s : State} (h : overCapacity l s) : capacityCheck l s = abortRun l .capacity s := by
  obtain ⟨r, hr, hin, hk, hst, hel⟩ := h
  unfold capacityCheck
  simp only [hr, hin, hk, hel, decide_eq_true hst, decide_true, Bool.and_self, if_true]

theorem capacityCheck_under {l : Link} {s : State} (h : ¬overCapacity l s) : capacityCheck l s = s := by
  unfold capacityCheck
  dsimp only
  split
  · next r hr =>
    refine if_neg fun hc => h ?_
    simp only [Bool.and_eq_true, decide_eq_true_eq] at hc
    obtain ⟨⟨⟨hin, hst⟩, hk⟩, hel⟩ := hc
    exact ⟨r, hr, hin, hk, hst, hel⟩
  · rfl

/-- The computation of a report: a changed E_L goes to the pacing bucket first (R40, R86). -/
def reportComputed (l : Link) (el0 : Nat) (s : State) : State :=
  recompute (if s.el l = el0 then s else setRate (.pacing l) (s.el l) s)

theorem reportLink_same {l : Link} {el0 : Nat} {svc0 : Bool} {s : State} (h : s.el l = el0 ∧ s.inService l = svc0) :
    reportLink l el0 svc0 s = s := if_pos h

theorem controls_reportComputed (l : Link) (el0 : Nat) (s : State) :
    Controls computed [.capacityChanged] [.pacing l] s (reportComputed l el0 s) := by
  have hrec := fun u : State => (controls_recompute u).mono (fun _ h => h) (fun _ h => h) (cs := [.pacing l]) (by simp)
  unfold reportComputed
  split
  · exact hrec s
  · exact ((controls_setRate l _ s).mono (by decide) (by simp) (by simp)).trans (hrec _)

theorem reportComputed_spec (l : Link) (el0 : Nat) (s : State) :
    Computed (reportComputed l el0 s)
      ∧ (reportComputed l el0 s).share = { s.share with table := (reportComputed l el0 s).share.table }
      ∧ ((reportComputed l el0 s).bucket (.pacing l)).rate
          = (if s.el l = el0 then (s.bucket (.pacing l)).rate else s.el l) := by
  have hrec : ∀ u : State, (recompute u).share = { u.share with table := (recompute u).share.table } := fun u => by
    obtain ⟨d, e, x, h, _⟩ := recompute_shape u
    rw [h]
  have hrate := fun u : State => (controls_recompute u).rates (.pacing l) rfl (by simp)
  refine ⟨recompute_computed _, ?_, ?_⟩
  · unfold reportComputed
    split
    · exact hrec s
    · obtain ⟨d, e, h, _⟩ := setRate_shape (.pacing l) (s.el l) s
      refine (hrec _).trans ?_
      rw [h]
  · unfold reportComputed
    rw [hrate]
    split
    · rfl
    · obtain ⟨d, e, h, hr, _⟩ := setRate_shape (.pacing l) (s.el l) s
      rw [hr, if_pos rfl]

theorem reportLink_eq {l : Link} {el0 : Nat} {svc0 : Bool} {s : State} (h : ¬(s.el l = el0 ∧ s.inService l = svc0)) :
    reportLink l el0 svc0 s
      = if s.el l ≠ el0 ∧ s.inService l = true then capacityCheck l (reportComputed l el0 s)
        else reportComputed l el0 s := by
  obtain ⟨hel, hin⟩ := (controls_reportComputed l el0 s).el l
  have hunf : reportLink l el0 svc0 s
      = if (reportComputed l el0 s).el l ≠ el0 ∧ (reportComputed l el0 s).inService l = true then
          capacityCheck l (reportComputed l el0 s) else reportComputed l el0 s := if_neg h
  rw [hunf, hel, hin]

/-- The report of a link that has no run to check. -/
theorem reportLink_quiet {l : Link} {el0 : Nat} {svc0 : Bool} {s : State} (h : ¬(s.el l = el0 ∧ s.inService l = svc0))
    (hrun : s.inService l = false ∨ (s.ctx l).underWay = false) : reportLink l el0 svc0 s = reportComputed l el0 s := by
  rw [reportLink_eq h]
  rcases hrun with hin | hidle
  · rw [if_neg (by simp [hin])]
  · have hctx : (reportComputed l el0 s).ctx l = s.ctx l := by
      unfold State.ctx
      rw [(controls_reportComputed l el0 s).steady.kept .qual (by decide) rfl]
    rw [capacityCheck_idle l _ (by rw [hctx]; exact hidle), ite_self]

/-- R40: a change of a link's record, u from s, that is reported with no run to check. -/
theorem reportLink_reported {l : Link} {s u : State} (hu : Unpublished s u)
    (hrun : u.inService l = false ∨ (u.ctx l).underWay = false) :
    Reported l s (reportLink l (s.el l) (s.inService l) u)
      ∧ Controls computed [.capacityChanged] [.pacing l] u (reportLink l (s.el l) (s.inService l) u) := by
  by_cases h : u.el l = s.el l ∧ u.inService l = s.inService l
  · rw [reportLink_same h]
    refine ⟨?_, Controls.refl _ _ _ _⟩
    unfold Reported
    rw [if_pos h]
    exact ⟨hu.table, hu.allocation, hu.rates⟩
  · rw [reportLink_quiet h hrun]
    have hc := controls_reportComputed l (s.el l) u
    obtain ⟨hel, hin⟩ := hc.el l
    obtain ⟨hcomp, _, hrate⟩ := reportComputed_spec l (s.el l) u
    refine ⟨?_, hc⟩
    unfold Reported
    rw [hel, hin, if_neg h]
    refine ⟨hcomp, fun hne => ?_⟩
    rw [hrate, if_neg hne]

theorem Reported.departs {l : Link} {s u t : State} (h : Reported l s u) (k : Departs u t) : Reported l s t := by
  obtain ⟨hel, hin⟩ := k.el l
  unfold Reported at h ⊢
  rw [hel, hin]
  have hp := k.unpublished
  split
  · next hx =>
    rw [if_pos hx] at h
    exact ⟨hp.table.trans h.1, fun i => (hp.allocation i).trans (h.2.1 i), fun b => (hp.rates b).trans (h.2.2 b)⟩
  · next hx =>
    rw [if_neg hx] at h
    exact ⟨h.1.departs k, fun hne => (hp.rates _).trans (h.2 hne)⟩

theorem Aborted.departs {l : Link} {cause : Cause} {s u t : State} (h : Aborted l cause s u) (k : Departs u t) :
    Aborted l cause s t := by
  have hshare : t.share = u.share := k.1 .share rfl
  obtain ⟨hqual, hflows, h1, h2⟩ := h
  exact ⟨(k.1 .qual rfl : _ = _).trans hqual, (k.1 .flows rfl : _ = _).trans hflows, by rw [hshare]; exact h1,
    by rw [hshare]; exact h2⟩

end Sys2Proof.Machine
end

section
/-!
PROOF. Entries into the states of a link (R53, R54), and STOP (R57): O16.
-/

namespace Sys2Proof.Machine

/-! ## A change of a link's state (R54) -/

/-- A link's record replaced, the backhaul arbiters called, and the condition of its new state raised (R54). -/
def enteredAs (l : Link) (u : LinkUnit) (c : Cond) (s : State) : State := raise c none (kickBackhaul (s.setLink l u))

theorem controls_setLink (l : Link) (u : LinkUnit) (s : State) : Controls [.links] [] [] s (s.setLink l u) :=
  .plain (links_steady s _) rfl rfl rfl rfl

theorem controls_kickBackhaul (s : State) : Controls [] [] [] s (kickBackhaul s) :=
  .plain (kickBackhaul_steady s) rfl rfl rfl rfl

theorem controls_enteredAs (l : Link) (u : LinkUnit) (c : Cond) (s : State) :
    Controls [.links, .latches] [c] [] s (enteredAs l u c s) :=
  (((controls_setLink l u s).mono (by simp) (by simp) (by simp)).trans
    ((controls_kickBackhaul _).mono (by simp) (by simp) (by simp))).trans
    ((controls_raise c none _).mono (by simp) (by simp) (by simp))

theorem enteredAs_spec (l : Link) (u : LinkUnit) (c : Cond) (s : State) :
    (∃ x e, enteredAs l u c s = { s with links := s.links.set l u, mgmt := x, ev := e })
      ∧ (enteredAs l u c s).latch c = (s.latch c).occur s.nowNs none ∧ Unpublished s (enteredAs l u c s) := by
  obtain ⟨x, e, h⟩ := raise_shape c none (kickBackhaul (s.setLink l u))
  refine ⟨⟨_, e, h⟩, raise_latch_same _ _ _, ?_⟩
  exact Unpublished.trans (t := kickBackhaul (s.setLink l u)) (.plain rfl rfl rfl) (unpublished_raise _ _ _)

theorem enteredAs_links (l : Link) (u : LinkUnit) (c : Cond) (s : State) :
    (enteredAs l u c s).links = s.links.set l u ∧ (enteredAs l u c s).cfg = s.cfg ∧ (enteredAs l u c s).share = s.share
      ∧ (enteredAs l u c s).qual = s.qual ∧ (enteredAs l u c s).flows = s.flows := by
  obtain ⟨⟨x, e, h⟩, _⟩ := enteredAs_spec l u c s
  rw [h]
  exact ⟨rfl, rfl, rfl, rfl, rfl⟩

/-- E_L and the service of a link whose record is replaced. -/
theorem enteredAs_el (l : Link) (u : LinkUnit) (c : Cond) (s : State) :
    (enteredAs l u c s).el l = capacityE u (s.cfg.profiles.get l)
      ∧ (enteredAs l u c s).inService l = decide (u.state = .inService) := by
  obtain ⟨hl, hc, _⟩ := enteredAs_links l u c s
  unfold State.el State.inService State.link
  rw [hl, hc, PerLink.get_set_same]
  exact ⟨rfl, rfl⟩

/-- The record of a link that enters BARRED (R53). -/
def barredUnit (cause : Cause) (u : LinkUnit) : LinkUnit := { u with state := .barred, barCause := cause, supTimer := none }

/-- A link that was not in service is barred without a report (R40, R53). -/
theorem enterBarred_outside {l : Link} {cause : Cause} {s : State} (h : s.inService l = false) :
    enterBarred l cause s = enteredAs l (barredUnit cause (s.link l)) (.linkBarred l) s := by
  obtain ⟨hel, hin⟩ := enteredAs_el l (barredUnit cause (s.link l)) (.linkBarred l) s
  exact reportLink_same (s := enteredAs l (barredUnit cause (s.link l)) (.linkBarred l) s) ⟨hel, hin.trans h.symm⟩

/-! ## STOP (R57) -/

theorem stopCommand_named {body : List Field} {l : Link} {s : State} (hb : commandLink body = some l) :
    stopCommand body s = answer (stopLink l s) := by
  unfold stopCommand
  rw [hb]

theorem latchesKept_of {ls : List Cond} {w : List Part} {bs : List BucketId} {s u t : State} (h : Controls w ls bs s u)
    (k : Departs u t) : LatchesKept ls s t := fun c hc hd => ((k.1 .latches rfl : ∀ c : Cond, _) c hd).trans (h.latches c hc)

/-- Settles O16, by the state of the link that the run is on. -/
theorem stopAbortsTheRun : Obligations.StopAbortsTheRun := by
  intro h sel body s l ha hk hb
  refine ⟨_, rfl, ?_⟩
  have hcmd := stopCommand_named (s := s.begun) hb
  by_cases hrun : (s.ctx l).underWay = true ∧ ((s.link l).state = .qualifying ∨ (s.link l).state = .inService)
  · rw [if_pos hrun]
    obtain ⟨hunder, hstate⟩ := hrun
    have hab := abortRun_under (cause := .stopped) (s := s.begun) hunder
    have hlinks : (abortRun l .stopped s.begun).links = s.links :=
      (controls_abortRun l .stopped s.begun).steady.kept .links (by decide) rfl
    by_cases hq : (s.link l).state = .qualifying
    · have hout : s.begun.inService l = false := by
        show decide ((s.link l).state = .inService) = false
        rw [hq]; rfl
      obtain ⟨hquiet, hunpub⟩ := abortRun_unpublished (cause := .stopped) (s := s.begun) (.inl hout)
      have hout' : (abortRun l .stopped s.begun).inService l = false := (hquiet.el l).2.trans hout
      have hlink : (abortRun l .stopped s.begun).link l = s.link l := by unfold State.link; rw [hlinks]
      have hop : stopCommand body s.begun = ({ status := .ok, body := [], after := .nothing },
          enteredAs l (barredUnit .stopped (s.link l)) (.linkBarred l) (abortRun l .stopped s.begun)) := by
        have hstop : stopLink l s.begun = (.ok, enterBarred l .stopped (abortRun l .stopped s.begun)) := by
          unfold stopLink
          rw [if_pos (show (s.begun.ctx l).underWay = true from hunder)]
          rw [show (s.begun.link l).state = .qualifying from hq]
        rw [hcmd, hstop, enterBarred_outside hout', hlink]
        rfl
      have hent := controls_enteredAs l (barredUnit .stopped (s.link l)) (.linkBarred l) (abortRun l .stopped s.begun)
      obtain ⟨hlinks', _, hshare', hqual', hflows'⟩ :=
        enteredAs_links l (barredUnit .stopped (s.link l)) (.linkBarred l) (abortRun l .stopped s.begun)
      obtain ⟨_, hlatch, hunpub'⟩ :=
        enteredAs_spec l (barredUnit .stopped (s.link l)) (.linkBarred l) (abortRun l .stopped s.begun)
      have hall : Controls [.links, .qual, .flows, .share, .latches] [.linkBarred l] [] s.begun _ :=
        (hquiet.mono (by simp) (by simp) (by simp)).trans (hent.mono (by simp) (by simp) (by simp))
      obtain ⟨hdep, hans, hkept⟩ := Steady.request (op := fun _ => stopCommand) (kind := 4) (code := 0x105) ha hk hop
        hall.told hall.steady
      have hab' : Aborted l .stopped s.begun
          (enteredAs l (barredUnit .stopped (s.link l)) (.linkBarred l) (abortRun l .stopped s.begun)) := by
        obtain ⟨⟨h1, h2, h3, h4⟩, _⟩ := hab
        exact ⟨hqual'.trans h1, by rw [hflows']; exact h2, by rw [hshare']; exact h3, by rw [hshare']; exact h4⟩
      refine ⟨hab'.departs hdep, hans, ?_⟩
      rw [if_pos hq]
      refine ⟨?_, ?_, (latchesKept_of (s := s.begun) hall hdep :), ?_, hkept⟩
      · rw [show _ = _ from hdep.1 .links rfl, hlinks', hlinks]; rfl
      · rw [(hdep.1 .latches rfl : ∀ c : Cond, _) _ rfl, hlatch, hquiet.latches _ (by simp)]
        rw [show (abortRun l .stopped s.begun).nowNs = s.nowNs from
          congrArg (fun t : TimeUnit => wholeNs t.elapsed) (hquiet.steady.kept .time (by decide) rfl)]
        rfl
      · rw [hdep.unpublished.table, hunpub'.table, hunpub.table]
    · have hin : (s.link l).state = .inService := hstate.resolve_left hq
      have hop : stopCommand body s.begun
          = ({ status := .ok, body := [], after := .nothing }, abortRun l .stopped s.begun) := by
        have hstop : stopLink l s.begun = (.ok, abortRun l .stopped s.begun) := by
          unfold stopLink
          rw [if_pos (show (s.begun.ctx l).underWay = true from hunder)]
          rw [show (s.begun.link l).state = .inService from hin]
        rw [hcmd, hstop]
        rfl
      by_cases hz : s.share.testRate.get l = 0
      · have hzero : abortRun l .stopped s.begun = abortHeld l .stopped s.begun :=
          (abortRun_eq (s := s.begun) hunder).trans (reportTestRate_same (s := abortHeld l .stopped s.begun) hz).1
        have hheld := controls_abortHeld l .stopped s.begun
        rw [hzero] at hop hab
        obtain ⟨hdep, hans, hkept⟩ := Steady.request (op := fun _ => stopCommand) (kind := 4) (code := 0x105) ha hk hop
          hheld.told hheld.steady
        refine ⟨hab.1.departs hdep, hans, ?_⟩
        rw [if_neg hq, if_pos hz]
        exact ⟨hdep.1 .share rfl, hkept⟩
      · have hcomp : abortRun l .stopped s.begun = recompute (rateHeld l 0 (abortHeld l .stopped s.begun)) :=
          (abortRun_eq (s := s.begun) hunder).trans
            (reportTestRate_inside (s := abortHeld l .stopped s.begun) hz (decide_eq_true hin))
        have hctl := controls_abortRun l .stopped s.begun
        obtain ⟨hdep, hans, hkept⟩ := Steady.request (op := fun _ => stopCommand) (kind := 4) (code := 0x105) ha hk hop
          hctl.told hctl.steady
        refine ⟨hab.1.departs hdep, hans, ?_⟩
        rw [if_neg hq, if_neg hz]
        have hquiet : Quiet s (rateHeld l 0 (abortHeld l .stopped s.begun)) :=
          ⟨rfl, fun _ => rfl, fun b => by cases b <;> exact ⟨rfl, rfl⟩, fun _ => rfl, rfl⟩
        have hdep' := hdep
        rw [hcomp] at hdep'
        obtain ⟨hone, _, _, _, hlatch⟩ := hquiet.computed hdep'
        exact ⟨hone, hlatch, hkept.mono (by simp +contextual [computed])⟩
  · rw [if_neg hrun]
    have hstop : stopLink l s.begun = (.notPermitted, s.begun) := by
      unfold stopLink
      by_cases hunder : (s.begun.ctx l).underWay = true
      · rw [if_pos hunder]
        cases hst : (s.begun.link l).state with
        | qualifying => exact absurd ⟨hunder, .inl hst⟩ hrun
        | inService => exact absurd ⟨hunder, .inr hst⟩ hrun
        | _ => rfl
      · exact if_neg hunder
    have hop : stopCommand body s.begun = ({ status := .notPermitted, body := [], after := .nothing }, s.begun) := by
      rw [hcmd, hstop]
      rfl
    exact request_unchanged (op := fun _ => stopCommand) ha hk hop

end Sys2Proof.Machine
end

section
/-!
PROOF. Carrier-absent reports (R43, R50 to R52): the record after one, its conditions, and the run that it aborts.
-/

namespace Sys2Proof.Machine

/-! ## Records entered, before their report -/

/-- A link's record replaced, with conditions raised from a list, and nothing else but what the arbiters are called for. -/
structure Entered (l : Link) (u : LinkUnit) (ls : List Cond) (s v : State) : Prop where
  shape : ∃ x e, v = { s with links := s.links.set l u, mgmt := x, ev := e }
  controls : Controls [.links, .latches] ls [] s v
  unpublished : Unpublished s v

theorem Entered.trans {l : Link} {u w : LinkUnit} {ls : List Cond} {s v t : State} (h : Entered l u ls s v)
    (k : Entered l w ls v t) : Entered l w ls s t := by
  obtain ⟨x, e, hv⟩ := h.shape
  obtain ⟨y, f, ht⟩ := k.shape
  refine ⟨⟨y, f, ?_⟩, h.controls.trans k.controls, h.unpublished.trans k.unpublished⟩
  rw [ht, hv]
  simp only [PerLink.set_set]

theorem Entered.mono {l : Link} {u : LinkUnit} {ls ks : List Cond} {s v : State} (h : Entered l u ls s v)
    (hl : ∀ c ∈ ls, c ∈ ks) : Entered l u ks s v :=
  ⟨h.shape, h.controls.mono (by simp) hl (by simp), h.unpublished⟩

theorem entered_setLink (l : Link) (u : LinkUnit) (s : State) : Entered l u [] s (s.setLink l u) :=
  ⟨⟨_, _, rfl⟩, (controls_setLink l u s).mono (by simp) (by simp) (by simp), .plain rfl rfl rfl⟩

theorem entered_enteredAs (l : Link) (u : LinkUnit) (c : Cond) (s : State) : Entered l u [c] s (enteredAs l u c s) :=
  ⟨(enteredAs_spec l u c s).1, controls_enteredAs l u c s, (enteredAs_spec l u c s).2.2⟩

theorem Entered.reads {l : Link} {u : LinkUnit} {ls : List Cond} {s v : State} (h : Entered l u ls s v) :
    v.link l = u ∧ v.cfg = s.cfg ∧ v.links = s.links.set l u ∧ v.qual = s.qual ∧ v.flows = s.flows ∧ v.share = s.share
      ∧ v.time = s.time := by
  obtain ⟨x, e, rfl⟩ := h.shape
  exact ⟨PerLink.get_set_same _ _ _, rfl, rfl, rfl, rfl, rfl, rfl⟩

/-- What E_L and the service of the link are now. -/
theorem Entered.el {l : Link} {u : LinkUnit} {ls : List Cond} {s v : State} (h : Entered l u ls s v) :
    v.el l = capacityE u (s.cfg.profiles.get l) ∧ v.inService l = decide (u.state = .inService) := by
  obtain ⟨hu, hc, _⟩ := h.reads
  unfold State.el State.inService
  rw [hu, hc]
  exact ⟨rfl, rfl⟩

/-! ## The fade (R51) -/

/-- The record of a link that enters DOWN (R54). -/
def downUnit (u : LinkUnit) : LinkUnit := { u with state := .down, stale := false, supTimer := none, holdTimer := none }

theorem entered_down (l : Link) (s : State) : Entered l (downUnit (s.link l)) [.linkDown l] s (enterDown l s) :=
  entered_enteredAs l _ _ s

/-- The record of an IN_SERVICE link that fades (R51). -/
def fadedUnit (l : Link) (s : State) (u : LinkUnit) : LinkUnit :=
  { u with
    state := .faded, supTimer := none, holdTimer := some (afterMs s.now (s.cfg.links.get l).holdOff)
    counters := { u.counters with fades := u.counters.fades + 1 } }

theorem entered_faded (l : Link) (s : State) : Entered l (fadedUnit l s (s.link l)) [.linkFaded l] s (enterFaded l s) :=
  entered_enteredAs l _ _ s

/-- The record that a carrier-absent report leaves is lostLink's, with the conditions of the states passed. -/
theorem entered_lost_inService {l : Link} {clear : Bool} {s : State} (h : (s.link l).state = .inService) :
    let v := fade l (updLink l (LinkUnit.carrierLost clear) s)
    Entered l (lostLink l clear (s.link l) s) [.linkFaded l, .linkDown l] s v
      ∧ v.latch (.linkFaded l) = (s.latch (.linkFaded l)).occur s.nowNs none
      ∧ v.latch (.linkDown l) = (if (s.cfg.links.get l).holdOff = 0 then (s.latch (.linkDown l)).occur s.nowNs none
          else s.latch (.linkDown l)) := by
  intro v
  let a := updLink l (LinkUnit.carrierLost clear) s
  have ha : Entered l ((s.link l).carrierLost clear) [] s a := entered_setLink l _ s
  have hb := entered_faded l a
  have hal : a.link l = (s.link l).carrierLost clear := ha.reads.1
  have hlatchF : (enterFaded l a).latch (.linkFaded l) = (s.latch (.linkFaded l)).occur s.nowNs none :=
    (enteredAs_spec l (fadedUnit l a (a.link l)) (.linkFaded l) a).2.1
  have hlatchD : (enterFaded l a).latch (.linkDown l) = s.latch (.linkDown l) := hb.controls.latches _ (by simp)
  have hsb : Entered l (fadedUnit l s ((s.link l).carrierLost clear)) [.linkFaded l, .linkDown l] s (enterFaded l a) := by
    have h1 := (ha.mono (ks := [.linkFaded l, .linkDown l]) (by simp)).trans (hb.mono (by simp))
    rw [hal] at h1
    exact h1
  have hcfg : (enterFaded l a).cfg = s.cfg := hsb.reads.2.1
  by_cases hz : (s.cfg.links.get l).holdOff = 0
  · have hv : v = enterDown l (enterFaded l a) := by
      show fade l a = _
      unfold fade
      simp only [hcfg, if_pos hz]
    have hc := entered_down l (enterFaded l a)
    rw [hsb.reads.1] at hc
    rw [hv, if_pos hz]
    refine ⟨?_, ?_, ?_⟩
    · have h2 := hsb.trans (hc.mono (by simp))
      have hrec : downUnit (fadedUnit l s ((s.link l).carrierLost clear)) = lostLink l clear (s.link l) s := by
        unfold lostLink
        rw [h]
        simp only [if_pos hz]
        rfl
      rwa [hrec] at h2
    · rw [hc.controls.latches _ (by simp), hlatchF]
    · have h3 : (enterDown l (enterFaded l a)).latch (.linkDown l)
          = ((enterFaded l a).latch (.linkDown l)).occur (enterFaded l a).nowNs none :=
        (enteredAs_spec l (downUnit ((enterFaded l a).link l)) (.linkDown l) (enterFaded l a)).2.1
      have hn : (enterFaded l a).nowNs = s.nowNs := congrArg (fun t : TimeUnit => wholeNs t.elapsed) hsb.reads.2.2.2.2.2.2
      rw [h3, hlatchD, hn]
  · have hv : v = enterFaded l a := by
      show fade l a = _
      unfold fade
      simp only [hcfg, if_neg hz]
    have hrec : fadedUnit l s ((s.link l).carrierLost clear) = lostLink l clear (s.link l) s := by
      unfold lostLink
      rw [h]
      simp only [if_neg hz]
      rfl
    rw [hrec] at hsb
    rw [hv, if_neg hz]
    exact ⟨hsb, hlatchF, hlatchD⟩

theorem entered_lost_qualifying {l : Link} {clear : Bool} {s : State} (h : (s.link l).state = .qualifying) :
    let v := enterDown l (updLink l (LinkUnit.carrierLost clear) s)
    Entered l (lostLink l clear (s.link l) s) [.linkDown l] s v
      ∧ v.latch (.linkDown l) = (s.latch (.linkDown l)).occur s.nowNs none := by
  intro v
  have ha : Entered l ((s.link l).carrierLost clear) [] s (updLink l (LinkUnit.carrierLost clear) s) := entered_setLink l _ s
  have hb := entered_down l (updLink l (LinkUnit.carrierLost clear) s)
  have hrec : downUnit ((updLink l (LinkUnit.carrierLost clear) s).link l) = lostLink l clear (s.link l) s := by
    rw [ha.reads.1]
    unfold lostLink
    rw [h]
    rfl
  rw [hrec] at hb
  exact ⟨(ha.mono (by simp)).trans hb,
    (enteredAs_spec l (downUnit _) (.linkDown l) (updLink l (LinkUnit.carrierLost clear) s)).2.1⟩

theorem entered_lost_other {l : Link} {clear : Bool} {s : State} (h1 : (s.link l).state ≠ .inService)
    (h2 : (s.link l).state ≠ .qualifying) :
    Entered l (lostLink l clear (s.link l) s) [] s (updLink l (LinkUnit.carrierLost clear) s) := by
  have hrec : (s.link l).carrierLost clear = lostLink l clear (s.link l) s := by
    unfold lostLink
    dsimp only
    split
    · next h => exact absurd h h1
    · next h => exact absurd h h2
    · rfl
  rw [← hrec]
  exact entered_setLink l _ s

theorem lostLink_state (l : Link) (clear : Bool) (u : LinkUnit) (s : State) : (lostLink l clear u s).state ≠ .inService := by
  unfold lostLink
  dsimp only
  split
  · split <;> simp
  · simp
  · next h _ => exact h

/-! ## Carrier-absent reports (R43) -/

/-- A change of the record to another state than IN_SERVICE, reported (R40). -/
theorem reportLink_entered {l : Link} {u : LinkUnit} {ls : List Cond} {s v : State} (h : Entered l u ls s v)
    (hu : u.state ≠ .inService) :
    let t := reportLink l (s.el l) (s.inService l) v
    Reported l s t ∧ Controls computed [.capacityChanged] [.pacing l] v t ∧ t.flows = v.flows
      ∧ t.share.testRate = s.share.testRate ∧ t.inService l = false := by
  intro t
  have hin : v.inService l = false := h.el.2.trans (decide_eq_false hu)
  obtain ⟨hrep, hctl⟩ := reportLink_reported h.unpublished (.inl hin)
  refine ⟨hrep, hctl, ?_, ?_, (hctl.el l).2.trans hin⟩
  · by_cases hsame : v.el l = s.el l ∧ v.inService l = s.inService l
    · show (reportLink l _ _ v).flows = _
      rw [reportLink_same hsame]
    · show (reportLink l _ _ v).flows = _
      rw [reportLink_quiet hsame (.inl hin)]
      unfold reportComputed
      split
      · obtain ⟨d, e, x, hr, _⟩ := recompute_shape v
        rw [hr]
      · obtain ⟨d, e, hd, _⟩ := setRate_shape (.pacing l) (v.el l) v
        obtain ⟨d', e', x, hr, _⟩ := recompute_shape (setRate (.pacing l) (v.el l) v)
        rw [hr, hd]
  · have hs : v.share = s.share := h.reads.2.2.2.2.2.1
    by_cases hsame : v.el l = s.el l ∧ v.inService l = s.inService l
    · show (reportLink l _ _ v).share.testRate = _
      rw [reportLink_same hsame, hs]
    · show (reportLink l _ _ v).share.testRate = _
      rw [reportLink_quiet hsame (.inl hin), (reportComputed_spec l (s.el l) v).2.1, hs]

/-- What a carrier-absent report writes, raises and rates (R43, R50 to R52). -/
abbrev LostControls (l : Link) (s t : State) : Prop :=
  Controls (computed ++ [.links, .qual, .flows]) [.capacityChanged, .linkFaded l, .linkDown l] [.pacing l] s t

/-- A carrier-absent report was taken (R43): as CarrierLost says, and with no run under way the link is only reported. -/
structure LostFrom (l : Link) (clear : Bool) (s t : State) : Prop where
  lost : CarrierLost l clear (s.link l) s t
  controls : LostControls l s t
  idle : (s.ctx l).underWay = false ∨ (s.link l).state ≠ .inService ∧ (s.link l).state ≠ .qualifying → Reported l s t
    ∧ Controls (computed ++ [.links]) [.capacityChanged, .linkFaded l, .linkDown l] [.pacing l] s t

/-- An IN_SERVICE link: its run is aborted, and then the link fades (R51). -/
theorem carrierAbsent_inService {l : Link} {clear : Bool} {s : State} (hin : (s.link l).state = .inService) :
    LostFrom l clear s (carrierAbsent l clear s) := by
  let a := abortRun l .carrier s
  let v := fade l (updLink l (LinkUnit.carrierLost clear) a)
  let t := reportLink l (a.el l) (a.inService l) v
  have ht : carrierAbsent l clear s = t := by
    unfold carrierAbsent
    rw [hin]
    rfl
  rw [ht]
  have hab := controls_abortRun l .carrier s
  have halinks : a.links = s.links := hab.steady.kept .links (by decide) rfl
  have hacfg : a.cfg = s.cfg := hab.steady.kept .config (by decide) rfl
  have hatime : a.time = s.time := hab.steady.kept .time (by decide) rfl
  have halink : a.link l = s.link l := by unfold State.link; rw [halinks]
  have hain : (a.link l).state = .inService := by rw [halink]; exact hin
  have hlost : lostLink l clear (a.link l) a = lostLink l clear (s.link l) s := by
    have hnow : a.now = s.now := congrArg TimeUnit.elapsed hatime
    unfold lostLink
    rw [halink, hacfg, hnow]
  have hnow : a.nowNs = s.nowNs := congrArg (fun t : TimeUnit => wholeNs t.elapsed) hatime
  obtain ⟨hent, hfaded, hdown⟩ := entered_lost_inService (clear := clear) hain
  rw [hlost] at hent
  rw [hnow] at hfaded hdown
  rw [hacfg] at hdown
  obtain ⟨hreported, hctl, hflows, htest, hout⟩ := reportLink_entered hent (lostLink_state _ _ _ _)
  obtain ⟨_, _, hvlinks, hvqual, hvflows, _⟩ := hent.reads
  have hrep : Reported l a t := hreported
  have hpre : Controls (computed ++ [.links]) [.capacityChanged, .linkFaded l, .linkDown l] [.pacing l] a t :=
    (hent.controls.mono (by decide) (by simp) (by simp)).trans (hctl.mono (by decide) (by simp) (by simp))
  have hall : LostControls l s t :=
    (hab.mono (by decide) (by simp) (by simp)).trans (hpre.mono (by decide) (by simp) (by simp))
  have htqual : t.qual = a.qual := (hctl.steady.kept .qual (by decide) rfl : _ = _).trans hvqual
  have htflows : t.flows = a.flows := hflows.trans hvflows
  have hains : a.inService l = true := decide_eq_true hain
  have hcomp : Computed t ∧ (t.el l ≠ s.el l → (t.bucket (.pacing l)).rate = t.el l) := by
    have hchanged : ¬(t.el l = a.el l ∧ t.inService l = a.inService l) := fun h => by
      rw [show t.inService l = false from hout, hains] at h
      cases h.2
    unfold Reported at hrep
    rw [if_neg hchanged, (hab.el l).1] at hrep
    exact hrep
  refine ⟨⟨?_, ?_, ?_, fun c hc _ => hall.latches c hc, ?_, fun _ => hcomp.1, fun hne => absurd hin hne, hcomp.2⟩, hall,
    fun hidle => ?_⟩
  · rw [hctl.steady.kept .links (by decide) rfl, hvlinks, halinks]
  · rw [if_pos hin, hctl.latches _ (by simp), hfaded, hab.latches _ (by simp)]
  · rw [hctl.latches _ (by simp), hdown, hab.latches _ (by simp)]
    simp only [hin, true_and, reduceCtorEq, false_or]
  · by_cases hrun : (s.ctx l).underWay = true
    · rw [if_pos ⟨hrun, .inl hin⟩]
      obtain ⟨⟨h1, h2, h3, h4⟩, _⟩ := abortRun_under (cause := .carrier) hrun
      exact ⟨htqual.trans h1, by rw [htflows]; exact h2, by rw [htest]; exact h3, by rw [htest]; exact h4⟩
    · rw [if_neg fun h => hrun h.1]
      have hsame : a = s := abortRun_idle (by simpa using hrun)
      exact ⟨htqual.trans (congrArg State.qual hsame),
        congrArg (List.map withoutLastLink) (htflows.trans (congrArg State.flows hsame))⟩
  · have hsame : a = s := abortRun_idle (hidle.resolve_right fun h => h.1 hin)
    rw [hsame] at hrep hpre
    exact ⟨hrep, hpre⟩

/-- A link that is not in service is reported with its record changed: the clauses that its record alone decides. -/
theorem lostFrom_outside {l : Link} {clear : Bool} {ls : List Cond} {s v : State} (hin : (s.link l).state ≠ .inService)
    (hent : Entered l (lostLink l clear (s.link l) s) ls s v) :
    let r := reportLink l (s.el l) (s.inService l) v
    (r.el l = s.el l → r.share.table = s.share.table) ∧ (r.el l ≠ s.el l → (r.bucket (.pacing l)).rate = r.el l) := by
  intro r
  obtain ⟨hrep, _, _, _, hout⟩ := reportLink_entered hent (lostLink_state _ _ _ _)
  have hsin : s.inService l = false := decide_eq_false hin
  unfold Reported at hrep
  refine ⟨fun hsame => ?_, fun hne => ?_⟩
  · rw [if_pos ⟨hsame, hout.trans hsin.symm⟩] at hrep
    exact hrep.1
  · rw [if_neg fun h => hne h.1] at hrep
    exact hrep.2 hne

/-- A QUALIFYING link enters DOWN, and its run is aborted (R50). -/
theorem carrierAbsent_qualifying {l : Link} {clear : Bool} {s : State} (hq : (s.link l).state = .qualifying) :
    LostFrom l clear s (carrierAbsent l clear s) := by
  have hin : (s.link l).state ≠ .inService := by rw [hq]; decide
  obtain ⟨hent, hdown⟩ := entered_lost_qualifying (clear := clear) hq
  let v := enterDown l (updLink l (LinkUnit.carrierLost clear) s)
  let r := reportLink l (s.el l) (s.inService l) v
  have ht : carrierAbsent l clear s = abortRun l .carrier r := by
    unfold carrierAbsent
    rw [hq]
    rfl
  rw [ht]
  obtain ⟨hrep, hctl, hflows, htest, hout⟩ := reportLink_entered hent (lostLink_state _ _ _ _)
  obtain ⟨htable, hrate⟩ := lostFrom_outside hin hent
  have hab := controls_abortRun l .carrier r
  obtain ⟨_, hunpub⟩ := abortRun_unpublished (cause := .carrier) (s := r) (.inl hout)
  obtain ⟨_, _, hvlinks, hvqual, hvflows, _⟩ := hent.reads
  have hrqual : r.qual = s.qual := (hctl.steady.kept .qual (by decide) rfl : _ = _).trans hvqual
  have hrctx : r.ctx l = s.ctx l := by unfold State.ctx; rw [hrqual]
  have hpre : Controls (computed ++ [.links]) [.capacityChanged, .linkFaded l, .linkDown l] [.pacing l] s r :=
    (hent.controls.mono (by decide) (by simp) (by simp)).trans (hctl.mono (by decide) (by simp) (by simp))
  have hall : LostControls l s (abortRun l .carrier r) :=
    (hpre.mono (by decide) (by simp) (by simp)).trans (hab.mono (by decide) (by simp) (by simp))
  have hel : (abortRun l .carrier r).el l = r.el l := (hab.el l).1
  refine ⟨⟨?_, ?_, ?_, fun c hc _ => hall.latches c hc, ?_, fun h => absurd h hin, fun _ hsame => ?_, fun hne => ?_⟩, hall,
    fun hidle => ?_⟩
  · rw [hab.steady.kept .links (by decide) rfl, hctl.steady.kept .links (by decide) rfl, hvlinks]
  · rw [if_neg hin, hab.latches _ (by simp), hctl.latches _ (by simp), hent.controls.latches _ (by simp)]
  · rw [if_pos (.inl hq), hab.latches _ (by simp), hctl.latches _ (by simp), hdown]
  · by_cases hrun : (s.ctx l).underWay = true
    · rw [if_pos ⟨hrun, .inr hq⟩]
      obtain ⟨⟨h1, h2, h3, h4⟩, _⟩ := abortRun_under (cause := .carrier) (s := r) (by rw [hrctx]; exact hrun)
      rw [hrqual, hrctx] at h1
      rw [hflows, hvflows, hrctx] at h2
      rw [htest] at h4
      exact ⟨h1, h2, h3, h4⟩
    · rw [if_neg fun h => hrun h.1]
      have hsame : abortRun l .carrier r = r := abortRun_idle (by rw [hrctx]; simpa using hrun)
      rw [hsame]
      exact ⟨hrqual, congrArg (List.map withoutLastLink) (hflows.trans hvflows)⟩
  · rw [hunpub.table]
    exact htable (hel.symm.trans hsame)
  · rw [hunpub.rates, hel]
    exact hrate fun h => hne (hel.trans h)
  · have hsame : abortRun l .carrier r = r := abortRun_idle (by rw [hrctx]; exact hidle.resolve_right fun h => h.2 hq)
    rw [hsame]
    exact ⟨hrep, hpre⟩

/-- A link that is DOWN, FADED or BARRED keeps its state (R43). -/
theorem carrierAbsent_other {l : Link} {clear : Bool} {s : State} (hin : (s.link l).state ≠ .inService)
    (hq : (s.link l).state ≠ .qualifying) : LostFrom l clear s (carrierAbsent l clear s) := by
  have hent := entered_lost_other (clear := clear) hin hq
  let t := reportLink l (s.el l) (s.inService l) (updLink l (LinkUnit.carrierLost clear) s)
  have ht : carrierAbsent l clear s = t := by
    unfold carrierAbsent
    split
    · next h => exact absurd h hin
    · next h => exact absurd h hq
    · rfl
  rw [ht]
  obtain ⟨hrep, hctl, hflows, _, _⟩ := reportLink_entered hent (lostLink_state _ _ _ _)
  obtain ⟨htable, hrate⟩ := lostFrom_outside hin hent
  obtain ⟨_, _, hvlinks, hvqual, hvflows, _⟩ := hent.reads
  have hpre : Controls (computed ++ [.links]) [.capacityChanged, .linkFaded l, .linkDown l] [.pacing l] s t :=
    (hent.controls.mono (by decide) (by simp) (by simp)).trans (hctl.mono (by decide) (by simp) (by simp))
  refine ⟨⟨?_, ?_, ?_, fun c hc _ => hpre.latches c hc, ?_, fun h => absurd h hin, fun _ => htable, hrate⟩,
    hpre.mono (by decide) (by simp) (by simp), fun _ => ⟨hrep, hpre⟩⟩
  · rw [hctl.steady.kept .links (by decide) rfl, hvlinks]
  · rw [if_neg hin, hctl.latches _ (by simp), hent.controls.latches _ (by simp)]
  · rw [if_neg (by simp [hin, hq]), hctl.latches _ (by simp), hent.controls.latches _ (by simp)]
  · rw [if_neg (by simp [hin, hq])]
    exact ⟨(hctl.steady.kept .qual (by decide) rfl : _ = _).trans hvqual,
      congrArg (List.map withoutLastLink) (hflows.trans hvflows)⟩

/-- R43: a carrier-absent report. -/
theorem carrierAbsent_lost (l : Link) (clear : Bool) (s : State) : LostFrom l clear s (carrierAbsent l clear s) := by
  by_cases hin : (s.link l).state = .inService
  · exact carrierAbsent_inService hin
  by_cases hq : (s.link l).state = .qualifying
  · exact carrierAbsent_qualifying hq
  · exact carrierAbsent_other hin hq

/-- What a carrier-absent report leaves stands after the departures that follow it. -/
theorem CarrierLost.departs {l : Link} {clear : Bool} {u : LinkUnit} {s v t : State} (h : CarrierLost l clear u s v)
    (k : Departs v t) : CarrierLost l clear u s t := by
  obtain ⟨hel, _⟩ := k.el l
  have hp := k.unpublished
  have hl : ∀ c : Cond, c.ofDeparture = false → t.latch c = v.latch c := k.1 .latches rfl
  obtain ⟨hlinks, hf, hd, hkept, hrun, hcomp, htable, hrate⟩ := h
  unfold CarrierLost
  rw [hel, hl _ rfl, hl _ rfl, hp.table, hp.rates]
  refine ⟨(k.1 .links rfl : _ = _).trans hlinks, hf, hd, fun c h1 h2 => (hl c h2).trans (hkept c h1 h2), ?_,
    fun h => (hcomp h).departs k, htable, hrate⟩
  split
  · next hx =>
    rw [if_pos hx] at hrun
    exact hrun.departs k
  · next hx =>
    rw [if_neg hx] at hrun
    exact ⟨(k.1 .qual rfl : _ = _).trans hrun.1, Part.kept_trans (a := .flows) rfl hrun.2 (k.1 .flows rfl)⟩

end Sys2Proof.Machine
end

section
/-!
PROOF. The loss of a backhaul port's link, and rate notices with carrier absent (R4, R43): O36.
-/

namespace Sys2Proof.Machine

/-! ## A backhaul port cut off (R4, R19) -/

/-- What the cut of a backhaul port and the flush of its link's test queue leave. -/
theorem backhaulCut_spec (l : Link) (s : State) :
    ∃ ports free, flushTest l (cutPort (.bh l) s) = { s with
        ports, pool := { s.pool with free }
        queues := { s.queues with locals := s.queues.locals.set (.bh l) [], test := s.queues.test.set l [] } }
      ∧ (∀ q, (ports.get q).linkUp = (if q = .bh l then false else (s.port q).linkUp)
          ∧ (ports.get q).rx = (if q = .bh l then none else (s.port q).rx)
          ∧ (ports.get q).tx = if q = .bh l then none else (s.port q).tx)
      ∧ Counted [(.bh l, .linkDownDiscards, if (s.port (.bh l)).tx.isSome then 1 else 0),
          (.bh l, .linkDownDiscards, (s.localQ (.bh l)).length),
          (.bh l, .linkDownDiscards, (s.queues.test.get l).length)] s (flushTest l (cutPort (.bh l) s))
      ∧ (∀ c, c ∈ s.pool.free → c ∈ free)
      ∧ (∀ d c, d ∈ s.queues.test.get l → c ∈ d.cells → c ∈ free)
      ∧ ∀ d c, sends s (.bh l) (.pool d) → c ∈ d.cells → c ∈ free := by
  obtain ⟨ports, free, hcut, hports, hcount, hmore, hcells⟩ := cutPort_spec (.bh l) s
  let x : State := { s with
    ports, queues := { s.queues with locals := s.queues.locals.set (.bh l) [], test := s.queues.test.set l [] }
    pool := { s.pool with free := ((s.queues.test.get l).map fun d => d.cells).flatten ++ free } }
  have hflush : flushTest l (cutPort (.bh l) s) = count (.bh l) .linkDownDiscards (s.queues.test.get l).length x := by
    rw [hcut]; rfl
  refine ⟨(flushTest l (cutPort (.bh l) s)).ports, _, by rw [hflush]; rfl, fun q => ?_, ?_,
    fun c hc => List.mem_append_right _ (hmore c hc), fun d c hd hc => List.mem_append_left _ ?_,
    fun d c hd hc => List.mem_append_right _ (hcells d c hd hc)⟩
  · obtain ⟨h1, h2, h3⟩ := count_other (.bh l) q .linkDownDiscards (s.queues.test.get l).length x
    obtain ⟨k1, k2, k3⟩ := hports q
    rw [hflush]
    exact ⟨h1.trans k1, h2.trans k2, h3.trans k3⟩
  · have hsame : Counted [] (cutPort (.bh l) s) x := (Counted.refl _).kept fun q c _ => by rw [hcut]; rfl
    rw [hflush]
    exact (hcount.trans hsame).trans (count_counted _ _ _ _)
  · exact List.mem_flatten.2 ⟨_, List.mem_map.2 ⟨d, hd, rfl⟩, hc⟩

/-- The state that the carrier-absent report of a cut port finds differs from s in what moves and is counted only. -/
theorem carrierLost_beside {l : Link} {clear : Bool} {u : LinkUnit} {s t : State} {ports : PerPort PortUnit} {q : QueueSet}
    {free : List Nat} (h : CarrierLost l clear u { s.begun with ports, queues := q, pool := { s.pool with free } } t) :
    CarrierLost l clear u s t := h

theorem reported_beside {l : Link} {s t : State} {ports : PerPort PortUnit} {q : QueueSet}
    {free : List Nat} (h : Reported l { s.begun with ports, queues := q, pool := { s.pool with free } } t) :
    Reported l s t := by
  have hb : ∀ b, ({ s.begun with ports, queues := q, pool := { s.pool with free } } : State).bucket b = s.bucket b :=
    fun b => by cases b <;> rfl
  unfold Reported at h ⊢
  simp only [hb] at h
  exact h

/-- The event of a backhaul port whose link goes down (R4, R43). -/
theorem backhaulDown_event {l : Link} {s : State} (hup : (s.port (.bh l)).linkUp = true) :
    ∃ t, exec (.flowDown (.bh l)) s = .next t
      ∧ (∀ q, (t.port q).linkUp = if q = .bh l then false else (s.port q).linkUp) ∧ ReceptionOver (.bh l) s t
      ∧ (t.port (.bh l)).tx = none ∧ t.localQ (.bh l) = [] ∧ t.queues.test.get l = []
      ∧ Counted [(.bh l, .linkDownDiscards, if (s.port (.bh l)).tx.isSome then 1 else 0),
          (.bh l, .linkDownDiscards, (s.localQ (.bh l)).length),
          (.bh l, .linkDownDiscards, (s.queues.test.get l).length)] s t
      ∧ (∀ d c, d ∈ s.queues.test.get l → c ∈ d.cells → c ∈ t.pool.free)
      ∧ (∀ d c, sends s (.bh l) (.pool d) → c ∈ d.cells → c ∈ t.pool.free)
      ∧ TrafficKept { s with
          ports := s.ports.set (.bh l) { s.port (.bh l) with linkUp := false, tx := none }
          queues := { s.queues with
            locals := s.queues.locals.set (.bh l) [], test := s.queues.test.set l [] } } t
      ∧ CarrierLost l false (s.link l) s t
      ∧ Kept (computed ++ [.linkUp, .reception, .counters, .traffic, .links, .qual, .flows]) s t
      ∧ ((s.ctx l).underWay = false ∨ (s.link l).state ≠ .inService ∧ (s.link l).state ≠ .qualifying → Reported l s t
          ∧ Kept (computed ++ [.linkUp, .reception, .counters, .traffic, .links]) s t) := by
  obtain ⟨ports, free, hcut, hports, hcount, hmore, htest, hcells⟩ := backhaulCut_spec l s.begun
  let y : State := { s.begun with
    ports, pool := { s.pool with free }
    queues := { s.queues with locals := s.queues.locals.set (.bh l) [], test := s.queues.test.set l [] } }
  let u : State := carrierAbsent l false y
  have hop : linkGoesDown (.bh l) s.begun = u := by
    show carrierAbsent l false (flushTest l (cutPort (.bh l) s.begun)) = _
    rw [hcut] <;> rfl
  obtain ⟨hlost, hctl, hidle⟩ := carrierAbsent_lost l false y
  have hux : ∀ q, (u.port q).tx = if q = .bh l then none else (s.port q).tx := fun q =>
    (hctl.steady.tx q).trans (hports q).2.2
  have hlocals : ∀ q, u.localQ q = if q = .bh l then [] else s.localQ q := fun q => by
    unfold State.localQ
    rw [hctl.steady.queues]
    show (s.queues.locals.set (.bh l) []).get q = _
    rw [PerPort.get_set]
  have hsend : ∀ q g, sends u q (.store g) → sends s q (.store g) := by
    rintro q g ⟨z, hz, hi⟩
    rw [hux] at hz
    split at hz
    · cases hz
    · exact ⟨z, hz, hi⟩
  have hsuffix : ∀ q, u.localQ q <:+ s.localQ q := fun q => by
    rw [hlocals]
    split
    · exact List.nil_suffix
    · exact List.suffix_refl _
  have htold : Told s.begun u := by
    refine Told.trans (t := y) (told_same rfl rfl rfl (fun q => ?_) fun q g h => .inl ?_) hctl.told
    · show (s.queues.locals.set (.bh l) []).get q <:+ s.queues.locals.get q
      rw [PerPort.get_set]
      split
      · exact List.nil_suffix
      · exact List.suffix_refl _
    · obtain ⟨z, hz, hi⟩ := h
      rw [show (y.port q).tx = if q = .bh l then none else (s.port q).tx from (hports q).2.2] at hz
      split at hz
      · cases hz
      · exact ⟨z, hz, hi⟩
  have hy : Writes [.linkUp, .reception, .counters, .traffic] s y := port_writes s ports _ free noWork
  obtain ⟨hkept, hdep⟩ := event_writes
    (w := computed ++ [.linkUp, .reception, .counters, .traffic, .links, .qual, .flows]) hop
    ((hy.mono (by decide)).trans (hctl.steady.writes.mono (by decide))) htold hsuffix hsend
  have hulink : ∀ q, (u.port q).linkUp = if q = .bh l then false else (s.port q).linkUp := fun q =>
    ((hctl.steady.kept .linkUp (by decide) rfl : ∀ q, _) q).trans (hports q).1
  have hsilent := hdep.2.silent (.bh l) (by rw [hulink, if_pos rfl])
  have hfree : u.pool.free = free := hctl.steady.free
  refine ⟨_, if_pos hup, fun q => ?_, fun q => ?_, ?_, ?_, ?_, ?_, fun d c hd hc => ?_, fun d c hd hc => ?_, ?_,
    carrierLost_beside (hlost.departs hdep), hkept, fun hrun => ?_⟩
  · rw [hdep.1 .linkUp rfl q, hulink]
  · rw [hdep.1 .reception rfl q, hctl.steady.kept .reception (by decide) rfl q]
    exact (hports q).2.1
  · rw [hsilent.1, hux, if_pos rfl]
  · rw [hsilent.2, hlocals, if_pos rfl]
  · have hsub := hdep.2.test l
    rw [hctl.steady.queues] at hsub
    rw [show y.queues.test.get l = [] from PerLink.get_set_same _ _ _] at hsub
    exact List.suffix_nil.1 hsub
  · rw [hcut] at hcount
    exact (Counted.kept (s := s) (t := y) hcount (hctl.steady.kept .counters (by decide) rfl)).departs hdep
  · exact hdep.2.free c (by rw [hfree]; exact htest d c hd hc)
  · exact hdep.2.free c (by rw [hfree]; exact hcells d c hd hc)
  · refine TrafficKept.trans (t := u)
      (TrafficKept.of_more hctl.steady.queues (fun q => ?_) fun c hc => ?_) (fun q => ?_) hdep
    · rw [hux]
      show _ = ((s.ports.set (.bh l) _).get q).tx
      rw [PerPort.get_set]
      split <;> rfl
    · rw [hfree]; exact hmore c hc
    · rw [hulink]
      show _ = ((s.ports.set (.bh l) _).get q).linkUp
      rw [PerPort.get_set]
      split <;> rfl
  · obtain ⟨hrep, hctl'⟩ := hidle hrun
    exact ⟨reported_beside (hrep.departs hdep), (event_writes hop
      ((hy.mono (by decide)).trans (hctl'.steady.writes.mono (by decide))) htold hsuffix hsend).1⟩

/-! ## A rate notice with carrier absent (R41, R43) -/

/-- A rate notice that reaches Link Control (R41). -/
theorem receptionEnds_notice {l : Link} {stamp : Instant} {bytes : List Byte} {s : State} (h : Reaches (.bh l) bytes s)
    (hreq : isRequest bytes = false) (hn : isRateNotice bytes = true) :
    receptionEnds (.bh l) stamp bytes s = rateNotice l bytes (recorded (.bh l) bytes s) := by
  rw [receptionEnds_reaches h]
  unfold firstStage
  rw [if_neg (by simp [hreq]), if_pos hn]

/-- A link's counters and its level noted (R41): no rate, state or capacity depends on them. -/
structure Noted (l : Link) (u : LinkUnit) (s v : State) : Prop where
  entered : Entered l u [] s v
  same : u.state = (s.link l).state ∧ u.stale = (s.link l).stale ∧ u.current = (s.link l).current
    ∧ u.pending = (s.link l).pending

theorem Noted.el {l : Link} {u : LinkUnit} {s v : State} (h : Noted l u s v) :
    v.el l = s.el l ∧ v.inService l = s.inService l := by
  obtain ⟨h1, h2, h3, h4⟩ := h.same
  obtain ⟨hel, hin⟩ := h.entered.el
  rw [hel, hin]
  refine ⟨?_, ?_⟩
  · unfold State.el capacityE profileInForce
    rw [h2, h3, h4]
  · unfold State.inService
    rw [h1]

/-- The notes of a notice that carries a level (R41). -/
theorem noted_level (l : Link) (v : BitVec 8) (f : LinkCounters → LinkCounters) (s : State) :
    Noted l { s.link l with level := some v, counters := f (s.link l).counters } s (storeLevel l v (countLink l f s)) := by
  have h1 : Entered l { s.link l with counters := f (s.link l).counters } [] s (countLink l f s) := entered_setLink l _ s
  have h2 : Entered l { (countLink l f s).link l with level := some v } [] (countLink l f s)
      (storeLevel l v (countLink l f s)) := entered_setLink l _ _
  rw [h1.reads.1] at h2
  exact ⟨h1.trans h2, rfl, rfl, rfl, rfl⟩

/-- A report that a noted record leads to, as it stands from the state before the notes. -/
theorem CarrierLost.noted {l : Link} {clear : Bool} {u : LinkUnit} {s v t : State} (hn : Noted l u s v)
    (h : CarrierLost l clear (v.link l) v t) : CarrierLost l clear u s t := by
  obtain ⟨hu, hcfg, hlinks, hqual, hflows, hshare, htime⟩ := hn.entered.reads
  obtain ⟨hel, _⟩ := hn.el
  have hnow : v.now = s.now := congrArg TimeUnit.elapsed htime
  have hnowNs : v.nowNs = s.nowNs := congrArg (fun t : TimeUnit => wholeNs t.elapsed) htime
  have hlatch : ∀ c, v.latch c = s.latch c := fun c => hn.entered.controls.latches c (by simp)
  have hctx : v.ctx l = s.ctx l := by unfold State.ctx; rw [hqual]
  have hlost : lostLink l clear u v = lostLink l clear u s := by unfold lostLink; rw [hcfg, hnow]
  rw [hu] at h
  unfold CarrierLost at h ⊢
  rw [hlinks, PerLink.set_set, hlost, hlatch, hlatch, hnowNs, hcfg, hctx, hel, hshare, hqual] at h
  obtain ⟨h1, h2, h3, h4, h5, h6, h7, h8⟩ := h
  refine ⟨h1, h2, h3, fun c hc hd => (h4 c hc hd).trans (hlatch c), ?_, h6, h7, h8⟩
  split
  · next hx =>
    rw [if_pos hx] at h5
    unfold Aborted at h5 ⊢
    rw [hqual, hflows, hctx, hshare] at h5
    exact h5
  · next hx =>
    rw [if_neg hx] at h5
    refine ⟨h5.1, ?_⟩
    show t.flows.map withoutLastLink = s.flows.map withoutLastLink
    rw [← hflows]
    exact h5.2

/-- The state after a notice with carrier absent (R43). -/
theorem rateNotice_absent {l : Link} {bytes : List Byte} {cur : Bool} {v : BitVec 8} {s : State}
    (h : parseNotice (payload bytes) = some { current := cur, index := none, level := v }) :
    rateNotice l bytes s = carrierAbsent l cur (storeLevel l v (countLink l (fun k =>
      if cur = true then { k with currentTaken := k.currentTaken + 1 } else { k with pendingTaken := k.pendingTaken + 1 }) s)) := by
  unfold rateNotice
  rw [h]
  cases cur <;> rfl

/-- Settles O36: the loss of the link, and the notice with carrier absent. -/
theorem backhaulLinkLossFadesTheLink : Obligations.BackhaulLinkLossFadesTheLink := by
  refine ⟨fun l s hup hq hin => ?_, fun l s hup => ?_, fun l bytes s stamp cur v hrx hreach hreq hnotice hparse => ?_⟩
  · obtain ⟨t, hexec, h1, h2, h3, h4, h5, h6, h7, h8, h9, hlost, _, hidle⟩ := backhaulDown_event hup
    obtain ⟨hlinks, hfaded, hdown, hkept, _⟩ := hlost
    have hno : (s.ctx l).underWay = false ∨ (s.link l).state ≠ .inService ∧ (s.link l).state ≠ .qualifying := by
      by_cases hs : (s.link l).state = .inService
      · exact .inl (hin hs).1
      · exact .inr ⟨hs, hq⟩
    obtain ⟨hrep, hk⟩ := hidle hno
    refine ⟨t, hexec, h1, h2, h3, h4, h5, h6, h7, h8, h9, hrep, hk, ?_⟩
    rw [if_neg fun h => h.elim hq fun h => absurd h.2 (by have := (hin h.1).2; omega)] at hdown
    have hdownKept : ∀ c : Cond, c ∉ [Cond.capacityChanged, .linkFaded l] → c.ofDeparture = false → t.latch c = s.latch c := by
      intro c hc hd
      by_cases hcd : c = .linkDown l
      · rw [hcd]; exact hdown
      · exact hkept c (by simpa [hcd] using hc) hd
    by_cases hs : (s.link l).state = .inService
    · rw [if_pos hs]
      rw [if_pos hs] at hfaded
      refine ⟨?_, hfaded, hdownKept⟩
      rw [hlinks]
      unfold lostLink
      rw [hs]
      simp only [if_neg (show ¬(s.cfg.links.get l).holdOff = 0 by have := (hin hs).2; omega), Bool.not_false, Bool.and_true]
    · rw [if_neg hs]
      rw [if_neg hs] at hfaded
      refine ⟨?_, fun c hc hd => ?_⟩
      · rw [hlinks]
        have hrec : lostLink l false (s.link l) s = (s.link l).carrierLost false := by
          unfold lostLink
          dsimp only
          split
          · next h => exact absurd h hs
          · next h => exact absurd h hq
          · rfl
        rw [hrec]
        simp only [LinkUnit.carrierLost, Bool.not_false, Bool.and_true]
      · by_cases hcf : c = .linkFaded l
        · rw [hcf]; exact hfaded
        · exact hdownKept c (by simpa [hcf] using hc) hd
  · obtain ⟨t, hexec, h1, _, _, _, _, _, _, _, _, hlost, hk, _⟩ := backhaulDown_event hup
    exact ⟨t, hexec, h1, hlost, hk⟩
  · intro k
    let D := recorded (.bh l) bytes s.begun
    let v' := storeLevel l v (countLink l (fun k =>
      if cur = true then { k with currentTaken := k.currentTaken + 1 } else { k with pendingTaken := k.pendingTaken + 1 }) D)
    have hnoted := noted_level l v (fun k =>
      if cur = true then { k with currentTaken := k.currentTaken + 1 } else { k with pendingTaken := k.pendingTaken + 1 }) D
    have hop : receptionEnds (.bh l) stamp bytes s.begun = carrierAbsent l cur v' :=
      (receptionEnds_notice (s := s.begun) hreach hreq hnotice).trans (rateNotice_absent hparse)
    obtain ⟨hlost, hctl, _⟩ := carrierAbsent_lost l cur v'
    have hent := hnoted.entered.controls
    obtain ⟨t, hexec, hover, hcount, hdep, hkept⟩ := frame_event_steady (w := computed ++ [.links, .qual, .flows]) (steps := [])
      hrx hop ((hent.steady.mono (by decide)).trans (hctl.steady.mono (by decide))) (hent.told.trans hctl.told)
      (((Counted.refl D).kept (hent.steady.kept .counters (by decide) rfl)).kept (hctl.steady.kept .counters (by decide) rfl))
    exact ⟨t, hexec, hover, hcount, (hlost.noted hnoted).departs hdep, hkept.mono (by decide)⟩

end Sys2Proof.Machine
end

section
/-!
PROOF. The report of a link with a run under way (R40, R148), and the timers of a link (R45, R48, R50, R52): O42.
-/

namespace Sys2Proof.Machine

/-! ## Reports, with a run to check (R40, R148) -/

theorem overCapacity_computed {l : Link} {el0 : Nat} {s : State} :
    overCapacity l (reportComputed l el0 s) ↔ overCapacity l s := by
  have hc := controls_reportComputed l el0 s
  have hctx : (reportComputed l el0 s).ctx l = s.ctx l := by
    unfold State.ctx
    rw [hc.steady.kept .qual (by decide) rfl]
  unfold overCapacity
  rw [hctx, (hc.el l).1]

/-- A report leaves the state as it is, computes, or computes and aborts the run that E_L no longer carries. -/
theorem reportLink_cases (l : Link) (el0 : Nat) (svc0 : Bool) (v : State) :
    ((v.el l = el0 ∧ v.inService l = svc0) ∧ reportLink l el0 svc0 v = v)
    ∨ (¬(v.el l = el0 ∧ v.inService l = svc0) ∧ ¬(v.el l ≠ el0 ∧ v.inService l = true ∧ overCapacity l v)
        ∧ reportLink l el0 svc0 v = reportComputed l el0 v)
    ∨ ((v.el l ≠ el0 ∧ v.inService l = true ∧ overCapacity l v)
        ∧ reportLink l el0 svc0 v = abortRun l .capacity (reportComputed l el0 v)) := by
  by_cases hsame : v.el l = el0 ∧ v.inService l = svc0
  · exact .inl ⟨hsame, reportLink_same hsame⟩
  rw [reportLink_eq hsame]
  by_cases hchk : v.el l ≠ el0 ∧ v.inService l = true
  · rw [if_pos hchk]
    by_cases hover : overCapacity l v
    · exact .inr (.inr ⟨⟨hchk.1, hchk.2, hover⟩, capacityCheck_over (overCapacity_computed.2 hover)⟩)
    · exact .inr (.inl ⟨hsame, fun h => hover h.2.2, capacityCheck_under fun h => hover (overCapacity_computed.1 h)⟩)
  · rw [if_neg hchk]
    exact .inr (.inl ⟨hsame, fun h => hchk ⟨h.1, h.2.1⟩, rfl⟩)

theorem controls_reportLink (l : Link) (el0 : Nat) (svc0 : Bool) (v : State) :
    Controls (computed ++ [.flows, .qual]) [.capacityChanged] [.pacing l] v (reportLink l el0 svc0 v) := by
  have hcomp := controls_reportComputed l el0 v
  rcases reportLink_cases l el0 svc0 v with ⟨_, h⟩ | ⟨_, _, h⟩ | ⟨_, h⟩ <;> rw [h]
  · exact Controls.refl _ _ _ _
  · exact hcomp.mono (by decide) (by simp) (by simp)
  · exact (hcomp.mono (by decide) (by simp) (by simp)).trans
      ((controls_abortRun l .capacity _).mono (by decide) (by simp) (by simp))

/-- An abort for the capacity leaves the computed table computed, with the changed E_L as the pacing rate. -/
theorem abortRun_reported {l : Link} {el0 : Nat} {v : State} (hne : v.el l ≠ el0) (hin : v.inService l = true) :
    let t := abortRun l .capacity (reportComputed l el0 v)
    Computed t ∧ (t.bucket (.pacing l)).rate = v.el l := by
  obtain ⟨hcomp, _, hrate⟩ := reportComputed_spec l el0 v
  refine ⟨abortRun_computed (((controls_reportComputed l el0 v).el l).2.trans hin) hcomp, ?_⟩
  rw [(controls_abortRun l .capacity _).rates _ rfl (by simp), hrate, if_neg hne]

/-- R40: whatever a report does, its link is reported. -/
theorem reportLink_reports {l : Link} {s u : State} (hu : Unpublished s u) :
    Reported l s (reportLink l (s.el l) (s.inService l) u) := by
  obtain ⟨hel, hin⟩ := (controls_reportLink l (s.el l) (s.inService l) u).el l
  unfold Reported
  rw [hel, hin]
  rcases reportLink_cases l (s.el l) (s.inService l) u with ⟨hsame, h⟩ | ⟨hdiff, _, h⟩ | ⟨⟨hne, hsvc, _⟩, h⟩ <;> rw [h]
  · rw [if_pos hsame]
    exact ⟨hu.table, hu.allocation, hu.rates⟩
  · rw [if_neg hdiff]
    obtain ⟨hcomp, _, hrate⟩ := reportComputed_spec l (s.el l) u
    exact ⟨hcomp, fun hne => by rw [hrate, if_neg hne]⟩
  · rw [if_neg fun h => hne h.1]
    obtain ⟨hcomp, hrate⟩ := abortRun_reported hne hsvc
    exact ⟨hcomp, fun _ => hrate⟩

/-- The report of an IN_SERVICE link with a run under way, whatever event it is made in. -/
theorem reportedToRun_of {l : Link} {w : List Part} {s v t : State} (hu : Unpublished s v) (hin : v.inService l = true)
    (hsin : s.inService l = true) (hshare : v.share = s.share) (hqual : v.qual = s.qual) (hrun : (s.ctx l).underWay = true)
    (hdep : Departs (reportLink l (s.el l) (s.inService l) v) t)
    (hkeep : ∀ w', Part.linkUp ∉ w' → Part.reception ∉ w' → Steady w' v (reportLink l (s.el l) (s.inService l) v) →
      Kept (w' ++ w) s t) : ReportedToRun l w s t := by
  have hctx : v.ctx l = s.ctx l := by unfold State.ctx; rw [hqual]
  obtain ⟨hel, _⟩ := (controls_reportLink l (s.el l) (s.inService l) v).el l
  have htel : t.el l = v.el l := (hdep.el l).1.trans hel
  have hrep : Reported l s t := (reportLink_reports hu).departs hdep
  have hover : CapacityAborts l s t ↔ v.el l ≠ s.el l ∧ v.inService l = true ∧ overCapacity l v := by
    unfold CapacityAborts overCapacity
    rw [htel, hctx]
    constructor
    · rintro ⟨r, h1, h2, h3⟩
      exact ⟨h2, hin, r, h1, h3⟩
    · rintro ⟨h2, _, r, h1, h3⟩
      exact ⟨r, h1, h2, h3⟩
  refine ⟨fun hsame => ?_, fun hne => ?_, fun hne hno => ?_, fun hyes => ?_⟩
  · have hR := reportLink_same (l := l) (s := v) (el0 := s.el l) (svc0 := s.inService l)
      ⟨htel.symm.trans hsame, hin.trans hsin.symm⟩
    rw [hR] at hdep hkeep
    exact ⟨(hdep.1 .share rfl : _ = _).trans hshare, hkeep [] (by simp) (by simp) (Steady.refl _ _)⟩
  · unfold Reported at hrep
    rw [if_neg fun h => hne h.1] at hrep
    exact ⟨hrep.1, hrep.2 hne⟩
  · have hR : reportLink l (s.el l) (s.inService l) v = reportComputed l (s.el l) v := by
      rcases reportLink_cases l (s.el l) (s.inService l) v with ⟨hsame, _⟩ | ⟨_, _, h⟩ | ⟨hx, _⟩
      · exact absurd (htel.trans hsame.1) hne
      · exact h
      · exact absurd (hover.2 hx) hno
    rw [hR] at hkeep
    exact hkeep computed (by decide) (by decide) (controls_reportComputed l _ v).steady
  · obtain ⟨hne, _, hx⟩ := hover.1 hyes
    have hR : reportLink l (s.el l) (s.inService l) v = abortRun l .capacity (reportComputed l (s.el l) v) := by
      rcases reportLink_cases l (s.el l) (s.inService l) v with ⟨hsame, _⟩ | ⟨_, hnot, _⟩ | ⟨_, h⟩
      · exact absurd hsame.1 hne
      · exact absurd ⟨hne, hin, hx⟩ hnot
      · exact h
    have hk := hkeep (computed ++ [.flows, .qual]) (by decide) (by decide) (controls_reportLink l _ _ v).steady
    have hq : (reportComputed l (s.el l) v).qual = s.qual :=
      ((controls_reportComputed l (s.el l) v).steady.kept .qual (by decide) rfl : _ = _).trans hqual
    have hcx : ∀ m, (reportComputed l (s.el l) v).ctx m = s.ctx m := fun m => by unfold State.ctx; rw [hq]
    rw [hR] at hdep
    obtain ⟨⟨h1, _, h3, _⟩, _⟩ := abortRun_under (l := l) (cause := .capacity) (s := reportComputed l (s.el l) v)
      (by rw [hcx]; exact hrun)
    have htq : t.qual = _ := (hdep.1 .qual rfl : _ = _).trans h1
    have hl : t.ctx l = _ := (congrArg (fun q : Qual => q.ctx.get l) htq).trans (PerLink.get_set_same _ _ _)
    have ho : t.ctx l.other = _ := (congrArg (fun q : Qual => q.ctx.get l.other) htq).trans (PerLink.get_set_other _ _ _)
    refine ⟨by rw [hl], by rw [hl], by rw [hl], ?_, ?_, hk⟩
    · exact ho.trans (congrArg (fun q : Qual => q.ctx.get l.other) hq)
    · rw [hdep.1 .share rfl, h3]

/-! ## Records of a link that an event changes and reports -/

/-- The event of a change of a link's record that is reported with no run to check (R40). -/
theorem Entered.reported {l : Link} {u : LinkUnit} {ls : List Cond} {s v : State} {f : State → State}
    (h : Entered l u ls s.begun v) (hop : f s.begun = reportLink l (s.begun.el l) (s.begun.inService l) v)
    (hrun : u.state ≠ .inService ∨ (s.ctx l).underWay = false) :
    (event f s).links = s.links.set l u ∧ Departs (reportLink l (s.begun.el l) (s.begun.inService l) v) (event f s)
      ∧ LatchesKept (.capacityChanged :: ls) s (event f s) ∧ Reported l s (event f s)
      ∧ Kept (computed ++ [.links]) s (event f s) := by
  have hquiet : v.inService l = false ∨ (v.ctx l).underWay = false := by
    rcases hrun with hst | hidle
    · exact .inl (h.el.2.trans (decide_eq_false hst))
    · refine .inr ?_
      unfold State.ctx
      rw [h.reads.2.2.2.1]
      exact hidle
  obtain ⟨hrep, hctl⟩ := reportLink_reported (s := s.begun) h.unpublished hquiet
  have hall : Controls (computed ++ [.links]) (.capacityChanged :: ls) [.pacing l] s.begun
      (reportLink l (s.begun.el l) (s.begun.inService l) v) :=
    (h.controls.mono (by decide) (by simp +contextual) (by simp)).trans (hctl.mono (by decide) (by simp) (by simp))
  have hdep : Departs (reportLink l (s.begun.el l) (s.begun.inService l) v) (event f s) := by
    rw [← hop]
    exact event_departs f s
  refine ⟨?_, hdep, latchesKept_of (s := s.begun) hall hdep, Reported.departs (s := s) hrep hdep,
    Steady.event (by rw [hop]; exact hall.steady) (by rw [hop]; exact hall.told)⟩
  rw [show (event f s).links = _ from hdep.1 .links rfl, hctl.steady.kept .links (by decide) rfl, h.reads.2.2.1]

/-- The event of a change of the record of an IN_SERVICE link that is reported with its run under way (R40, R148). -/
theorem Entered.toRun {l : Link} {u : LinkUnit} {ls : List Cond} {w : List Part} {s v : State} {f : State → State}
    (h : Entered l u ls s.begun v) (hw : Steady w s.begun v) (hop : f s.begun = reportLink l (s.begun.el l) (s.begun.inService l) v)
    (hu : u.state = .inService) (hs : (s.link l).state = .inService) (hrun : (s.ctx l).underWay = true)
    (hup : Part.linkUp ∉ w := by decide) :
    (event f s).links = s.links.set l u ∧ Departs (reportLink l (s.begun.el l) (s.begun.inService l) v) (event f s)
      ∧ LatchesKept (.capacityChanged :: ls) s (event f s) ∧ ReportedToRun l w s (event f s) := by
  have hctl := controls_reportLink l (s.begun.el l) (s.begun.inService l) v
  have hall : Controls (computed ++ [.flows, .qual, .links]) (.capacityChanged :: ls) [.pacing l] s.begun
      (reportLink l (s.begun.el l) (s.begun.inService l) v) :=
    (h.controls.mono (by decide) (by simp +contextual) (by simp)).trans (hctl.mono (by decide) (by simp) (by simp))
  have hdep : Departs (reportLink l (s.begun.el l) (s.begun.inService l) v) (event f s) := by
    rw [← hop]
    exact event_departs f s
  obtain ⟨_, _, hlinks, hqual, _, hshare, _⟩ := h.reads
  refine ⟨?_, hdep, latchesKept_of (s := s.begun) hall hdep, ?_⟩
  · rw [show (event f s).links = _ from hdep.1 .links rfl, hctl.steady.kept .links (by decide) rfl, hlinks]
  · refine reportedToRun_of (v := v) (s := s) (Unpublished.trans (t := s.begun) (.plain rfl rfl rfl) h.unpublished) (h.el.2.trans (decide_eq_true hu)) (decide_eq_true hs) hshare
      hqual hrun hdep fun w' hup' _ hst => ?_
    refine Steady.event ?_ (by rw [hop]; exact hall.told) (fun hm => ?_)
    · rw [hop]
      exact (hw.mono (by simp +contextual)).trans (hst.mono (by simp +contextual))
    · rcases List.mem_append.1 hm with hm | hm
      · exact absurd hm hup'
      · exact absurd hm hup

/-! ## The timers of a link (R45, R48, R50, R52) -/

theorem supervision_due {l : Link} {x : Instant} {s : State} (h : (s.link l).supTimer = some x)
    (hx : reached s.now x = true) : exec (.supervisionExpiry l) s = .next (event (supervisionExpires l) s) :=
  if_pos (show timerDue s (s.link l).supTimer = true by rw [h]; exact hx)

theorem supervision_early {l : Link} {x : Instant} {s : State} (h : (s.link l).supTimer = some x)
    (hx : reached s.now x = false) : exec (.supervisionExpiry l) s = .next s :=
  if_neg (show ¬timerDue s (s.link l).supTimer = true by rw [h]; simp [timerDue, hx])

theorem pendingTimeout_due {l : Link} {x : Instant} {s : State} (h : (s.link l).pendTimer = some x)
    (hx : reached s.now x = true) : exec (.pendingTimeout l) s = .next (event (pendingExpires l) s) :=
  if_pos (show timerDue s (s.link l).pendTimer = true by rw [h]; exact hx)

theorem pendingTimeout_early {l : Link} {x : Instant} {s : State} (h : (s.link l).pendTimer = some x)
    (hx : reached s.now x = false) : exec (.pendingTimeout l) s = .next s :=
  if_neg (show ¬timerDue s (s.link l).pendTimer = true by rw [h]; simp [timerDue, hx])

theorem holdOff_due {l : Link} {x : Instant} {s : State} (h : (s.link l).holdTimer = some x)
    (hx : reached s.now x = true) : exec (.holdOffExpiry l) s = .next (event (holdOffExpires l) s) :=
  if_pos (show timerDue s (s.link l).holdTimer = true by rw [h]; exact hx)

theorem holdOff_early {l : Link} {x : Instant} {s : State} (h : (s.link l).holdTimer = some x)
    (hx : reached s.now x = false) : exec (.holdOffExpiry l) s = .next s :=
  if_neg (show ¬timerDue s (s.link l).holdTimer = true by rw [h]; simp [timerDue, hx])

/-- The record of a link that turns stale (R48). -/
def staleUnit (u : LinkUnit) : LinkUnit :=
  { u with
    stale := true, supTimer := none
    counters := { u.counters with staleOnsets := u.counters.staleOnsets + 1 } }

/-- The record of a link whose pending profile has timed out (R45). -/
def timedOutUnit (u : LinkUnit) : LinkUnit :=
  { u with
    pending := none, pendTimer := none
    counters := { u.counters with pendingTimeouts := u.counters.pendingTimeouts + 1 } }

/-- A record replaced with one condition raised. -/
theorem entered_raise (l : Link) (u : LinkUnit) (c : Cond) (s : State) : Entered l u [c] s (raise c none (s.setLink l u)) := by
  obtain ⟨x, e, h⟩ := raise_shape c none (s.setLink l u)
  exact ⟨⟨_, e, h⟩, ((controls_setLink l u s).mono (by simp) (by simp) (by simp)).trans
    ((controls_raise c none _).mono (by simp) (by simp) (by simp)),
    Unpublished.trans (t := s.setLink l u) (.plain rfl rfl rfl) (unpublished_raise _ _ _)⟩

/-- The latch that a reported event leaves, of a condition that its report does not raise. -/
theorem latch_reported {l : Link} {el0 : Nat} {svc0 : Bool} {v t : State} {c : Cond} (hc : c ≠ .capacityChanged)
    (hd : c.ofDeparture = false) (k : Departs (reportLink l el0 svc0 v) t) : t.latch c = v.latch c :=
  ((k.1 .latches rfl : ∀ c : Cond, _) c hd).trans ((controls_reportLink l el0 svc0 v).latches c (by simpa using hc))

/-- The supervision timer of an IN_SERVICE link (R48). -/
theorem turnStale_entered {l : Link} {s : State} (h : (s.link l).state = .inService) :
    let v := raise (.stale l) none (s.begun.setLink l (staleUnit (s.link l)))
    Entered l (staleUnit (s.link l)) [.stale l] s.begun v
      ∧ supervisionExpires l s.begun = reportLink l (s.el l) (s.inService l) v
      ∧ v.latch (.stale l) = (s.latch (.stale l)).occur s.nowNs none := by
  refine ⟨entered_raise l _ _ _, ?_, raise_latch_same _ _ _⟩
  unfold supervisionExpires
  rw [show (s.begun.link l).state = .inService from h] <;> rfl

/-- The supervision timer of a QUALIFYING link: it enters DOWN, and its run is aborted (R50). -/
theorem supervision_qualifying {l : Link} {s : State} (h : (s.link l).state = .qualifying) :
    supervisionExpires l s.begun
      = abortRun l .noticeLost (reportLink l (s.el l) (s.inService l) (enterDown l s.begun)) := by
  unfold supervisionExpires
  rw [show (s.begun.link l).state = .qualifying from h] <;> rfl

/-- A link that is not stale has the same E_L in DOWN as it had in QUALIFYING. -/
theorem el_down {l : Link} {s v : State} {ls : List Cond} (h : Entered l (downUnit (s.link l)) ls s v)
    (hst : (s.link l).stale = false) : v.el l = s.el l := by
  rw [h.el.1]
  unfold State.el capacityE profileInForce downUnit
  simp only [hst]

/-- The expiry of the supervision timer of a QUALIFYING link with its run under way (R48, R50). -/
theorem supervision_qualifying_event {l : Link} {s : State} (hst : (s.link l).state = .qualifying)
    (hrun : (s.ctx l).underWay = true) :
    let t := event (supervisionExpires l) s
    t.links = s.links.set l (downUnit (s.link l)) ∧ Aborted l .noticeLost s t
      ∧ t.latch (.linkDown l) = (s.latch (.linkDown l)).occur s.nowNs none
      ∧ ((s.link l).stale = false → t.share.table = s.share.table ∧ LatchesKept [.linkDown l] s t
          ∧ Kept [.links, .qual, .flows, .share, .latches] s t)
      ∧ (t.el l ≠ s.el l → (t.bucket (.pacing l)).rate = t.el l)
      ∧ LatchesKept [.capacityChanged, .linkDown l] s t ∧ Kept (computed ++ [.links, .qual, .flows]) s t := by
  intro t
  let v := enterDown l s.begun
  let r := reportLink l (s.begun.el l) (s.begun.inService l) v
  have hent : Entered l (downUnit (s.link l)) [.linkDown l] s.begun v := entered_down l s.begun
  have hsin : s.inService l = false := by
    unfold State.inService
    rw [hst] <;> rfl
  have hop : supervisionExpires l s.begun = abortRun l .noticeLost r := supervision_qualifying hst
  obtain ⟨hrep, hctl, hflows, htest, hout⟩ := reportLink_entered hent (show (downUnit (s.link l)).state ≠ _ by simp [downUnit])
  obtain ⟨_, _, hvlinks, hvqual, hvflows, _⟩ := hent.reads
  have hrqual : r.qual = s.qual := (hctl.steady.kept .qual (by decide) rfl : _ = _).trans hvqual
  have hrctx : r.ctx l = s.ctx l := by unfold State.ctx; rw [hrqual]
  obtain ⟨habq, hunpub⟩ := abortRun_unpublished (cause := .noticeLost) (s := r) (.inl hout)
  have hab := controls_abortRun l .noticeLost r
  have hpre : Controls (computed ++ [.links]) [.capacityChanged, .linkDown l] [.pacing l] s.begun r :=
    (hent.controls.mono (by decide) (by simp) (by simp)).trans (hctl.mono (by decide) (by simp) (by simp))
  have hall : Controls (computed ++ [.links, .qual, .flows]) [.capacityChanged, .linkDown l] [.pacing l] s.begun
      (abortRun l .noticeLost r) :=
    (hpre.mono (by decide) (by simp) (by simp)).trans (hab.mono (by decide) (by simp) (by simp))
  have hdep : Departs (abortRun l .noticeLost r) t := by
    rw [← hop]
    exact event_departs _ _
  have hlatchDown : v.latch (.linkDown l) = (s.latch (.linkDown l)).occur s.nowNs none :=
    (enteredAs_spec l (downUnit (s.begun.link l)) (.linkDown l) s.begun).2.1
  refine ⟨?_, Aborted.departs ?_ hdep, ?_, fun hstale => ?_, fun hne => ?_, latchesKept_of (s := s.begun) hall hdep,
    Steady.event (by rw [hop]; exact hall.steady) (by rw [hop]; exact hall.told)⟩
  · rw [show t.links = _ from hdep.1 .links rfl, hab.steady.kept .links (by decide) rfl,
      hctl.steady.kept .links (by decide) rfl, hvlinks]
  · obtain ⟨⟨h1, h2, h3, h4⟩, _⟩ := abortRun_under (cause := .noticeLost) (s := r) (by rw [hrctx]; exact hrun)
    rw [hrqual, hrctx] at h1
    rw [hflows, hvflows, hrctx] at h2
    rw [htest] at h4
    exact ⟨h1, h2, h3, h4⟩
  · rw [(hdep.1 .latches rfl : ∀ c : Cond, _) _ rfl, hab.latches _ (by simp), hctl.latches _ (by simp), hlatchDown]
  · have hR : r = v := reportLink_same
      ⟨el_down (s := s.begun) hent hstale, (hent.el.2.trans (decide_eq_false (by simp [downUnit]))).trans hsin.symm⟩
    have hnarrow : Controls [.links, .qual, .flows, .share, .latches] [.linkDown l] [] s.begun (abortRun l .noticeLost r) := by
      refine Controls.trans (t := r) ?_ (habq.mono (by decide) (by simp) (by simp))
      rw [hR]
      exact hent.controls.mono (by decide) (by simp) (by simp)
    refine ⟨?_, latchesKept_of (s := s.begun) hnarrow hdep,
      Steady.event (by rw [hop]; exact hnarrow.steady) (by rw [hop]; exact hnarrow.told)⟩
    rw [hdep.unpublished.table, hunpub.table, hR, hent.unpublished.table]
  · have hel : t.el l = r.el l := (hdep.el l).1.trans (hab.el l).1
    rw [hdep.unpublished.rates, hunpub.rates, hel]
    unfold Reported at hrep
    rw [if_neg fun h => hne (hel.trans h.1)] at hrep
    exact hrep.2 fun h => hne (hel.trans h)

/-- Settles O42, a timer at a time. -/
theorem linkTimersExpire : Obligations.LinkTimersExpire := by
  intro l s
  refine ⟨fun x hx hr hst hidle => ?_, fun x hx hr hst hrun => ?_, fun x hx hr => supervision_early hx hr,
    fun x hx hr hquiet => ?_, fun x hx hr => pendingTimeout_early hx hr, fun x hx hr hst => ?_,
    fun x hx hr => holdOff_early hx hr, fun x hx hr hst hrun => ?_, fun x hx hr hst hrun => ?_⟩
  · obtain ⟨hent, hop, hlatch⟩ := turnStale_entered hst
    obtain ⟨hlinks, hdep, hkept, hrep, hk⟩ := hent.reported hop (.inr hidle)
    exact ⟨_, supervision_due hx hr, hlinks, (latch_reported (by simp) rfl hdep).trans hlatch, hkept, hrep, hk⟩
  · exact ⟨_, supervision_due hx hr, supervision_qualifying_event hst hrun⟩
  · have hent : Entered l (timedOutUnit (s.link l)) [] s.begun _ := entered_setLink l _ _
    obtain ⟨hlinks, _, hkept, hrep, hk⟩ := hent.reported (f := pendingExpires l) rfl
      (hquiet.elim .inr fun h => .inl h)
    exact ⟨_, pendingTimeout_due hx hr, hlinks, hkept, hrep, hk⟩
  · have hent : Entered l (downUnit (s.link l)) [.linkDown l] s.begun (enterDown l s.begun) := entered_down l s.begun
    have hlatch : (enterDown l s.begun).latch (.linkDown l) = (s.latch (.linkDown l)).occur s.nowNs none :=
      (enteredAs_spec l (downUnit (s.begun.link l)) (.linkDown l) s.begun).2.1
    have hop : holdOffExpires l s.begun = reportLink l (s.el l) (s.inService l) (enterDown l s.begun) :=
      if_pos (show (s.begun.link l).state = .faded from hst)
    obtain ⟨hlinks, hdep, hkept, hrep, hk⟩ := hent.reported hop (.inl (by simp [downUnit]))
    exact ⟨_, holdOff_due hx hr, hlinks, (latch_reported (by simp) rfl hdep).trans hlatch, hkept, hrep, hk⟩
  · obtain ⟨hent, hop, hlatch⟩ := turnStale_entered hst
    obtain ⟨hlinks, hdep, hkept, hrep⟩ := hent.toRun hent.controls.steady hop hst hst hrun
    exact ⟨_, supervision_due hx hr, hlinks, (latch_reported (by simp) rfl hdep).trans hlatch, hkept, hrep⟩
  · have hent : Entered l (timedOutUnit (s.link l)) [] s.begun _ := entered_setLink l _ _
    obtain ⟨hlinks, _, hkept, hrep⟩ := hent.toRun (w := [.links]) (f := pendingExpires l)
      (controls_setLink l _ _).steady rfl hst hst hrun
    exact ⟨_, pendingTimeout_due hx hr, hlinks, hkept, hrep⟩

end Sys2Proof.Machine
end

section
/-!
PROOF. Rate notices that a link takes without a change of its state (R41, R42, R44): O33.
-/

namespace Sys2Proof.Machine

/-! ## The event of a rate notice -/

/-- A rate notice's frame as it arrives: on a backhaul port, through the acceptance checks (R5, R7, 12.2). -/
structure NoticeArrives (l : Link) (bytes : List Byte) (s : State) : Prop where
  reception : ∃ stamp, (s.port (.bh l)).rx = some stamp
  reaches : Reaches (.bh l) bytes s
  request : isRequest bytes = false
  notice : isRateNotice bytes = true

/-- The reception of a rate notice is over, and its frame is counted (R3, R5). -/
structure NoticeReceived (l : Link) (bytes : List Byte) (s t : State) : Prop where
  run : exec (.frameReceived (.bh l) bytes) s = .next t
  ended : ReceptionOver (.bh l) s t
  counted : Counted [(.bh l, .framesReceived, 1), (.bh l, .bytesReceived, bytes.length)] s t

/-- What the operation of a rate notice writes and raises is what its event does. -/
theorem NoticeArrives.event {l : Link} {bytes : List Byte} {s u : State} {w : List Part} {ls : List Cond}
    {bs : List BucketId} (h : NoticeArrives l bytes s) (hop : rateNotice l bytes (recorded (.bh l) bytes s.begun) = u)
    (hc : Controls w ls bs (recorded (.bh l) bytes s.begun) u) (hcount : Part.counters ∉ w := by decide)
    (hrec : Part.reception ∉ w := by decide) (hup : Part.linkUp ∉ w := by decide) :
    ∃ t, NoticeReceived l bytes s t ∧ Departs u t ∧ LatchesKept ls s t
      ∧ ∀ w', Part.reception ∉ w' → Part.linkUp ∉ w' → Steady w' (recorded (.bh l) bytes s.begun) u →
          Kept (.reception :: .counters :: w') s t := by
  obtain ⟨⟨stamp, hrx⟩, hreach, hreq, hnotice⟩ := h
  have hends : receptionEnds (.bh l) stamp bytes s.begun = u :=
    (receptionEnds_notice (s := s.begun) hreach hreq hnotice).trans hop
  have hcounted : Counted [] (recorded (.bh l) bytes s.begun) u :=
    (Counted.refl _).kept (hc.steady.kept .counters hcount rfl)
  obtain ⟨t, hexec, hover, hcnt, hdep, _⟩ := frame_event_steady (steps := []) hrx hends hc.steady hc.told hcounted hrec hup
  refine ⟨t, ⟨hexec, hover, hcnt⟩, hdep, (latchesKept_of hc hdep : LatchesKept ls (recorded (.bh l) bytes s.begun) t), fun w' h1 h2 hst => ?_⟩
  obtain ⟨t', hexec', _, _, _, hkept⟩ := frame_event_steady (steps := []) hrx hends hst hc.told hcounted h1 h2
  rw [hexec] at hexec'
  cases hexec'
  exact hkept

/-- A notice that replaces the link's record, and is reported with no run to check (R40). -/
theorem NoticeArrives.reported {l : Link} {bytes : List Byte} {s v : State} {u : LinkUnit} {ls : List Cond}
    (h : NoticeArrives l bytes s) (hent : Entered l u ls (recorded (.bh l) bytes s.begun) v)
    (hop : rateNotice l bytes (recorded (.bh l) bytes s.begun) = reportLink l (s.el l) (s.inService l) v)
    (hrun : u.state ≠ .inService ∨ (s.ctx l).underWay = false) :
    ∃ t, NoticeReceived l bytes s t ∧ t.links = s.links.set l u
      ∧ Departs (reportLink l (s.el l) (s.inService l) v) t
      ∧ LatchesKept (.capacityChanged :: ls) s t ∧ Reported l s t
      ∧ Kept (computed ++ [.reception, .counters, .links]) s t := by
  let D := recorded (.bh l) bytes s.begun
  have hquiet : v.inService l = false ∨ (v.ctx l).underWay = false := by
    rcases hrun with hst | hidle
    · exact .inl (hent.el.2.trans (decide_eq_false hst))
    · refine .inr ?_
      unfold State.ctx
      rw [hent.reads.2.2.2.1]
      exact hidle
  obtain ⟨hrep, hctl⟩ : Reported l D (reportLink l (s.el l) (s.inService l) v)
      ∧ Controls computed [.capacityChanged] [.pacing l] v (reportLink l (s.el l) (s.inService l) v) :=
    reportLink_reported (s := D) hent.unpublished hquiet
  have hall : Controls (computed ++ [.links]) (.capacityChanged :: ls) [.pacing l] D
      (reportLink l (s.el l) (s.inService l) v) :=
    (hent.controls.mono (by decide) (by simp +contextual) (by simp)).trans (hctl.mono (by decide) (by simp) (by simp))
  obtain ⟨t, hrcv, hdep, hlatch, hkeep⟩ := h.event hop hall
  refine ⟨t, hrcv, ?_, hdep, hlatch, Reported.departs (s := s) hrep hdep,
    (hkeep _ (by decide) (by decide) hall.steady).mono (by decide)⟩
  rw [hdep.1 .links rfl, hctl.steady.kept .links (by decide) rfl, hent.reads.2.2.1] <;> rfl

/-- A notice that replaces the record of an IN_SERVICE link, and is reported with its run under way (R40, R148). -/
theorem NoticeArrives.toRun {l : Link} {bytes : List Byte} {s v : State} {u : LinkUnit} {ls : List Cond}
    (h : NoticeArrives l bytes s) (hent : Entered l u ls (recorded (.bh l) bytes s.begun) v)
    (hop : rateNotice l bytes (recorded (.bh l) bytes s.begun) = reportLink l (s.el l) (s.inService l) v)
    (hu : u.state = .inService) (hs : (s.link l).state = .inService) (hrun : (s.ctx l).underWay = true) :
    ∃ t, NoticeReceived l bytes s t ∧ t.links = s.links.set l u
      ∧ Departs (reportLink l (s.el l) (s.inService l) v) t
      ∧ LatchesKept (.capacityChanged :: ls) s t ∧ ReportedToRun l [.reception, .counters, .links, .latches] s t := by
  let D := recorded (.bh l) bytes s.begun
  have hctl := controls_reportLink l (s.el l) (s.inService l) v
  have hall : Controls (computed ++ [.flows, .qual, .links]) (.capacityChanged :: ls) [.pacing l] D
      (reportLink l (s.el l) (s.inService l) v) :=
    (hent.controls.mono (by decide) (by simp +contextual) (by simp)).trans (hctl.mono (by decide) (by simp) (by simp))
  obtain ⟨t, hrcv, hdep, hlatch, hkeep⟩ := h.event hop hall
  obtain ⟨_, _, hlinks, hqual, _, hshare, _⟩ := hent.reads
  refine ⟨t, hrcv, ?_, hdep, hlatch, ?_⟩
  · rw [hdep.1 .links rfl, hctl.steady.kept .links (by decide) rfl, hlinks] <;> rfl
  · refine reportedToRun_of (v := v) (s := s) (Unpublished.trans (t := D) (.plain rfl rfl rfl) hent.unpublished)
      (hent.el.2.trans (decide_eq_true hu)) (decide_eq_true hs) hshare hqual hrun hdep fun w' hup hrec hst => ?_
    refine (hkeep (w' ++ [.links, .latches]) (by simpa using hrec) (by simpa using hup)
      ((hent.controls.steady.mono (by simp +contextual)).trans (hst.mono (by simp +contextual)))).mono fun a ha => ?_
    simp only [List.mem_cons, List.mem_append, List.not_mem_nil, or_false] at ha ⊢
    tauto

/-! ## Notices with carrier present (R42, R44, R46) -/

/-- The record after a CURRENT notice with carrier present (R41, R42). -/
def noticedUnit (l : Link) (i : Fin 16) (v : BitVec 8) (s : State) : LinkUnit :=
  { s.link l with
    carrier := true, current := i, pending := none, pendTimer := none, stale := false, level := some v
    supTimer := match (s.link l).state with
                | .qualifying | .inService => some (afterMs s.now (s.cfg.links.get l).supervision)
                | _ => (s.link l).supTimer
    counters := { (s.link l).counters with currentTaken := (s.link l).counters.currentTaken + 1 } }

/-- The record after a PENDING notice with carrier present (R41, R44). -/
def announcedUnit (l : Link) (i : Fin 16) (v : BitVec 8) (s : State) : LinkUnit :=
  { s.link l with
    pending := some i, pendTimer := some (afterMs s.now (s.cfg.links.get l).pendingTimeout), level := some v
    counters := { (s.link l).counters with pendingTaken := (s.link l).counters.pendingTaken + 1 } }

/-- A record replaced with the check of an index (R46). -/
theorem entered_raiseUnknown (l : Link) (u : LinkUnit) (i : Fin 16) (s : State) :
    let v := raiseUnknown l i (s.setLink l u)
    Entered l u [.profileUnknown l] s v
      ∧ v.latch (.profileUnknown l) = (if (tget (s.cfg.profiles.get l) i).valid = true then s.latch (.profileUnknown l)
          else (s.latch (.profileUnknown l)).occur s.nowNs none) := by
  intro v
  by_cases hv : (tget (s.cfg.profiles.get l) i).valid = true
  · have hsame : v = s.setLink l u :=
      if_neg (show ¬(!(tget (s.cfg.profiles.get l) i).valid) = true by simp [hv])
    rw [hsame, if_pos hv]
    exact ⟨(entered_setLink l u s).mono (by simp), rfl⟩
  · have hrise : v = raise (.profileUnknown l) none (s.setLink l u) :=
      if_pos (show (!(tget (s.cfg.profiles.get l) i).valid) = true by simpa using hv)
    rw [hrise, if_neg hv]
    exact ⟨entered_raise l u _ s, raise_latch_same _ _ _⟩

/-- The state that a CURRENT notice with carrier present reports (R42). -/
def noticed (l : Link) (i : Fin 16) (v : BitVec 8) (s : State) : State :=
  raiseUnknown l i ((storeLevel l v (countLink l (fun c => { c with currentTaken := c.currentTaken + 1 }) s)).setLink l
    (noticedUnit l i v s))

/-- The state that a PENDING notice with carrier present reports (R44). -/
def announced (l : Link) (i : Fin 16) (v : BitVec 8) (s : State) : State :=
  raiseUnknown l i ((storeLevel l v (countLink l (fun c => { c with pendingTaken := c.pendingTaken + 1 }) s)).setLink l
    (announcedUnit l i v s))

theorem entered_after_noted {l : Link} {i : Fin 16} {u₀ u : LinkUnit} {s a : State} (hn : Noted l u₀ s a) :
    let v := raiseUnknown l i (a.setLink l u)
    Entered l u [.profileUnknown l] s v
      ∧ v.latch (.profileUnknown l) = (if (tget (s.cfg.profiles.get l) i).valid = true then s.latch (.profileUnknown l)
          else (s.latch (.profileUnknown l)).occur s.nowNs none) := by
  obtain ⟨hent, hlatch⟩ := entered_raiseUnknown l u i a
  obtain ⟨_, hcfg, _, _, _, _, htime⟩ := hn.entered.reads
  have hnow : a.nowNs = s.nowNs := congrArg (fun t : TimeUnit => wholeNs t.elapsed) htime
  rw [hcfg, hnow, hn.entered.controls.latches _ (by simp)] at hlatch
  exact ⟨(hn.entered.mono (by simp)).trans hent, hlatch⟩

theorem noticed_entered (l : Link) (i : Fin 16) (v : BitVec 8) (s : State) :
    Entered l (noticedUnit l i v s) [.profileUnknown l] s (noticed l i v s)
      ∧ (noticed l i v s).latch (.profileUnknown l)
          = (if (tget (s.cfg.profiles.get l) i).valid = true then s.latch (.profileUnknown l)
             else (s.latch (.profileUnknown l)).occur s.nowNs none) :=
  entered_after_noted (noted_level l v _ s)

theorem announced_entered (l : Link) (i : Fin 16) (v : BitVec 8) (s : State) :
    Entered l (announcedUnit l i v s) [.profileUnknown l] s (announced l i v s)
      ∧ (announced l i v s).latch (.profileUnknown l)
          = (if (tget (s.cfg.profiles.get l) i).valid = true then s.latch (.profileUnknown l)
             else (s.latch (.profileUnknown l)).occur s.nowNs none) :=
  entered_after_noted (noted_level l v _ s)

/-- A CURRENT notice with carrier present (R42): its report, and the state machine that it drives. -/
theorem rateNotice_current {l : Link} {bytes : List Byte} {i : Fin 16} {v : BitVec 8} {s : State}
    (h : parseNotice (payload bytes) = some { current := true, index := some i, level := v }) :
    rateNotice l bytes s
      = (let s1 := reportLink l (s.el l) (s.inService l) (noticed l i v s)
         match (s1.link l).state with
         | .down => admission l s1
         | .faded => enterInService l s1
         | _ => s1) := by
  have hn := noted_level l v (fun c => { c with currentTaken := c.currentTaken + 1 }) s
  let a := storeLevel l v (countLink l (fun c => { c with currentTaken := c.currentTaken + 1 }) s)
  have hunit : LinkUnit.currentTaken i (afterMs a.now (a.cfg.links.get l).supervision) (a.link l) = noticedUnit l i v s := by
    rw [hn.entered.reads.1] <;> rfl
  have hrep : withReport l (fun s => raiseUnknown l i
      (updLink l (LinkUnit.currentTaken i (afterMs s.now (s.cfg.links.get l).supervision)) s)) a
      = reportLink l (s.el l) (s.inService l) (noticed l i v s) := by
    show reportLink l (a.el l) (a.inService l) (raiseUnknown l i
      (a.setLink l (LinkUnit.currentTaken i (afterMs a.now (a.cfg.links.get l).supervision) (a.link l)))) = _
    rw [hn.el.1, hn.el.2, hunit] <;> rfl
  have hop : rateNotice l bytes s = currentPresent l i a := by
    unfold rateNotice
    rw [h] <;> rfl
  rw [hop]
  unfold currentPresent
  rw [hrep] <;> rfl

/-- A PENDING notice with carrier present, taken while the record's carrier is present (R44). -/
theorem rateNotice_pending {l : Link} {bytes : List Byte} {i : Fin 16} {v : BitVec 8} {s : State}
    (h : parseNotice (payload bytes) = some { current := false, index := some i, level := v })
    (hc : (s.link l).carrier = true) :
    rateNotice l bytes s = reportLink l (s.el l) (s.inService l) (announced l i v s) := by
  have hn := noted_level l v (fun c => { c with pendingTaken := c.pendingTaken + 1 }) s
  let a := storeLevel l v (countLink l (fun c => { c with pendingTaken := c.pendingTaken + 1 }) s)
  have hop : rateNotice l bytes s = pendingPresent l i a := by
    unfold rateNotice
    rw [h]
    exact if_pos hc
  rw [hop]
  show reportLink l (a.el l) (a.inService l) (raiseUnknown l i (a.setLink l { a.link l with
    pending := some i, pendTimer := some (afterMs a.now (a.cfg.links.get l).pendingTimeout) })) = _
  rw [hn.el.1, hn.el.2, hn.entered.reads.1] <;> rfl

/-- A notice that is only counted (R41, R44). -/
theorem NoticeArrives.counts {l : Link} {bytes : List Byte} {s : State} {f : LinkCounters → LinkCounters}
    (h : NoticeArrives l bytes s)
    (hop : ∀ d : State, d.link l = s.link l → rateNotice l bytes d = countLink l f d) :
    ∃ t, NoticeReceived l bytes s t
      ∧ t.links = s.links.set l { s.link l with counters := f (s.link l).counters }
      ∧ Kept [.reception, .counters, .links] s t := by
  let D := recorded (.bh l) bytes s.begun
  have hc := controls_setLink l { s.link l with counters := f (s.link l).counters } D
  obtain ⟨t, hrcv, hdep, _, hkeep⟩ := h.event (hop D rfl) hc
  exact ⟨t, hrcv, hdep.1 .links rfl, hkeep _ (by decide) (by decide) hc.steady⟩

/-- Settles O33, by the kind of the notice. -/
theorem currentNoticeUpdatesTheLink : Obligations.CurrentNoticeUpdatesTheLink := by
  refine ⟨fun l bytes s stamp i v hrx hreach hreq hnotice hparse hdown hfaded hidle => ?_,
    fun l bytes s stamp i v hrx hreach hreq hnotice hparse hin hrun => ?_,
    fun l bytes s stamp i v hrx hreach hreq hnotice hparse => ⟨fun hc hidle => ?_, fun hc => ?_⟩,
    fun l bytes s stamp hrx hreach hreq hnotice hparse => ?_⟩
  · have harr : NoticeArrives l bytes s := ⟨⟨stamp, hrx⟩, hreach, hreq, hnotice⟩
    let D := recorded (.bh l) bytes s.begun
    obtain ⟨hent, hprof⟩ := noticed_entered l i v D
    have hunit : noticedUnit l i v D = { s.link l with
        carrier := true, current := i, pending := none, pendTimer := none, stale := false, level := some v
        supTimer := if (s.link l).state = .barred then (s.link l).supTimer
                    else some (afterMs s.now (s.cfg.links.get l).supervision)
        counters := { (s.link l).counters with currentTaken := (s.link l).counters.currentTaken + 1 } } := by
      unfold noticedUnit
      rw [show D.link l = s.link l from rfl]
      cases hst : (s.link l).state <;> first | exact absurd hst hdown | exact absurd hst hfaded | rfl
    have hop : rateNotice l bytes D = reportLink l (s.el l) (s.inService l) (noticed l i v D) := by
      rw [rateNotice_current hparse]
      have hst : ((reportLink l (D.el l) (D.inService l) (noticed l i v D)).link l).state = (s.link l).state := by
        unfold State.link
        rw [(controls_reportLink l _ _ _).steady.kept .links (by decide) rfl, hent.reads.2.2.1, PerLink.get_set_same] <;> rfl
      dsimp only
      rw [hst]
      cases hs : (s.link l).state <;> first | exact absurd hs hdown | exact absurd hs hfaded | rfl
    obtain ⟨t, hrcv, hlinks, hdep, hlatch, hrep, hkept⟩ := harr.reported hent hop
      ((Classical.em ((s.link l).state = .inService)).elim (fun h => .inr (hidle h)) fun h => .inl h)
    exact ⟨t, hrcv.run, hrcv.ended, hrcv.counted, hlinks.trans (by rw [hunit]),
      (latch_reported (by simp) rfl hdep).trans hprof, hlatch, hrep, hkept⟩
  · have harr : NoticeArrives l bytes s := ⟨⟨stamp, hrx⟩, hreach, hreq, hnotice⟩
    let D := recorded (.bh l) bytes s.begun
    obtain ⟨hent, hprof⟩ := noticed_entered l i v D
    have hop : rateNotice l bytes D = reportLink l (s.el l) (s.inService l) (noticed l i v D) := by
      rw [rateNotice_current hparse]
      have hst : ((reportLink l (D.el l) (D.inService l) (noticed l i v D)).link l).state = .inService := by
        unfold State.link
        rw [(controls_reportLink l _ _ _).steady.kept .links (by decide) rfl, hent.reads.2.2.1, PerLink.get_set_same]
        exact hin
      dsimp only
      rw [hst] <;> rfl
    have hunit : noticedUnit l i v D = { s.link l with
        carrier := true, current := i, pending := none, pendTimer := none, stale := false, level := some v
        supTimer := some (afterMs s.now (s.cfg.links.get l).supervision)
        counters := { (s.link l).counters with currentTaken := (s.link l).counters.currentTaken + 1 } } := by
      unfold noticedUnit
      rw [show D.link l = s.link l from rfl, hin] <;> rfl
    obtain ⟨t, hrcv, hlinks, hdep, hlatch, hrep⟩ := harr.toRun hent hop hin hin hrun
    exact ⟨t, hrcv.run, hrcv.ended, hrcv.counted, hlinks.trans (by rw [hunit]),
      (latch_reported (by simp) rfl hdep).trans hprof, hlatch, hrep⟩
  · have harr : NoticeArrives l bytes s := ⟨⟨stamp, hrx⟩, hreach, hreq, hnotice⟩
    let D := recorded (.bh l) bytes s.begun
    obtain ⟨hent, hprof⟩ := announced_entered l i v D
    obtain ⟨t, hrcv, hlinks, hdep, hlatch, hrep, hkept⟩ := harr.reported hent (rateNotice_pending (s := D) hparse hc)
      ((Classical.em ((s.link l).state = .inService)).elim (fun h => .inr (hidle h)) fun h => .inl h)
    exact ⟨t, hrcv.run, hrcv.ended, hrcv.counted, hlinks,
      (latch_reported (by simp) rfl hdep).trans hprof, hlatch, hrep, hkept⟩
  · have harr : NoticeArrives l bytes s := ⟨⟨stamp, hrx⟩, hreach, hreq, hnotice⟩
    obtain ⟨t, hrcv, hlinks, hkept⟩ := harr.counts (f := fun c => { c with pendingIgnored := c.pendingIgnored + 1 })
      fun d hd => by
        unfold rateNotice
        rw [hparse]
        exact if_neg (show ¬(d.link l).carrier = true by rw [hd, hc]; simp)
    exact ⟨t, hrcv.run, hrcv.ended, hrcv.counted, hlinks, hkept⟩
  · have harr : NoticeArrives l bytes s := ⟨⟨stamp, hrx⟩, hreach, hreq, hnotice⟩
    obtain ⟨t, hrcv, hlinks, hkept⟩ := harr.counts (f := fun c => { c with malformed := c.malformed + 1 })
      fun d _ => by
        unfold rateNotice
        rw [hparse] <;> rfl
    exact ⟨t, hrcv.run, hrcv.ended, hrcv.counted, hlinks, hkept⟩

end Sys2Proof.Machine
end

section
/-!
PROOF. Starts of runs (R143 to R145): what a start leaves, begun or refused.
-/

namespace Sys2Proof.Machine

/-! ## Phase ends to come -/

/-- A phase of 1 to 60,000 ms that starts now has not ended. -/
theorem reached_afterMs_now (t : Instant) (ms : Nat) (h0 : 0 < ms) (h1 : ms ≤ 60000) : reached t (afterMs t ms) = false := by
  have hsub : t - afterMs t ms = -BitVec.ofNat 80 (ms * 1000000 * 65536) := by
    unfold afterMs afterNs msNs
    exact sub_add_cancel_left _ _
  unfold reached
  have hlt : ms * 1000000 * 65536 < 2 ^ 80 := by omega
  rw [hsub, BitVec.toNat_neg, BitVec.toNat_ofNat, Nat.mod_eq_of_lt hlt, decide_eq_false_iff_not,
    Nat.mod_eq_of_lt (by omega)]
  omega

/-! ## Steps begun (R145, R148) -/

/-- The context of a step that begins (R145). -/
def Context.begins (i : Fin 32) (r : StepRecord) (now : Instant) (c : Context) : Context :=
  { c.dropCounts with
    state := .settle, current := some i, step := some r, phaseEnd := some (afterMs now r.settle)
    gen := startGenerator r now, nextSeq := 0 }

theorem reportTestRate_reads (l : Link) (r : Nat) (s : State) :
    (reportTestRate l r s).qual = s.qual ∧ (reportTestRate l r s).links = s.links ∧ (reportTestRate l r s).cfg = s.cfg
      ∧ (reportTestRate l r s).flows = s.flows ∧ (reportTestRate l r s).time = s.time
      ∧ (reportTestRate l r s).share.testRate = s.share.testRate.set l r := by
  have h := (controls_reportTestRate l r s).steady
  refine ⟨h.kept .qual (by decide) rfl, h.kept .links (by decide) rfl, h.kept .config (by decide) rfl, ?_,
    h.kept .time (by decide) rfl, by rw [reportTestRate_share]⟩
  by_cases hr : s.share.testRate.get l = r
  · rw [(reportTestRate_same hr).1]
  by_cases hin : s.inService l = true
  · rw [reportTestRate_inside hr hin]
    obtain ⟨d, e, x, hs, _⟩ := recompute_shape (rateHeld l r s)
    rw [hs] <;> rfl
  · rw [reportTestRate_outside (by simpa using hin)] <;> rfl

/-- A step whose rate E_L carries, or whose run is not in service, begins without an abort (R148). -/
theorem stepStart_carried {l : Link} {i : Fin 32} {s : State}
    (h : (s.ctx l).inService = true → (tget s.cfg.steps i).kind = .load → (tget s.cfg.steps i).rate ≤ s.el l) :
    stepStart l i s = reportTestRate l (stepRate (tget s.cfg.steps i))
      (s.setCtx l ((s.ctx l).begins i (tget s.cfg.steps i) s.now)) := by
  let a := s.setCtx l ((s.ctx l).begins i (tget s.cfg.steps i) s.now)
  show capacityCheck l (reportTestRate l (stepRate (tget s.cfg.steps i)) a) = _
  obtain ⟨hqual, hlinks, hcfg, _⟩ := reportTestRate_reads l (stepRate (tget s.cfg.steps i)) a
  have hctx : (reportTestRate l (stepRate (tget s.cfg.steps i)) a).ctx l = (s.ctx l).begins i (tget s.cfg.steps i) s.now := by
    unfold State.ctx
    rw [hqual]
    exact PerLink.get_set_same _ _ _
  refine capacityCheck_under ?_
  rintro ⟨r, hr, hin, hk, _, hel⟩
  rw [hctx] at hr hin
  cases hr
  rw [(el_congr (s := a) hcfg hlinks l).1] at hel
  exact absurd (h hin hk) (Nat.not_le.2 hel)

/-! ## Starts (R143, R144) -/

/-- A run begun on a link, before the test rate of its first step is reported (R143 to R145). -/
def startedHeld (l : Link) (first last : Fin 32) (n : Nat) (s : State) : State :=
  { s with
    flows := placeEntry n (testEntry (testKeyOf l s.cfg)) s.flows
    qual := { s.qual with
      ctx := s.qual.ctx.set l (startedContext l s.cfg (s.ctx l) s.now (s.inService l) first last n)
      results := emptyResults first last s.qual.results } }

theorem startedHeld_ctx (l : Link) (first last : Fin 32) (n : Nat) (s : State) :
    (startedHeld l first last n s).ctx l = startedContext l s.cfg (s.ctx l) s.now (s.inService l) first last n :=
  PerLink.get_set_same _ _ _

/-- The run number stepped and the in-service flag taken, before the checks of a start (R143). -/
def startAsked (l : Link) (s : State) : State :=
  s.setCtx l { s.ctx l with runNo := (s.ctx l).runNo + 1, inService := s.inService l }

theorem startAsked_ctx (l : Link) (s : State) :
    (startAsked l s).ctx l = { s.ctx l with runNo := (s.ctx l).runNo + 1, inService := s.inService l } :=
  PerLink.get_set_same _ _ _

/-- A start whose programme, key and slot are there begins its run. -/
theorem startRun_begins {l : Link} {first last : Fin 32} {n : Nat} {s : State}
    (h : Startable l s.cfg s.flows first last n) :
    startRun l s = endPhases l (capacityCheck l
      (reportTestRate l (stepRate (tget s.cfg.steps first)) (startedHeld l first last n s))) := by
  obtain ⟨hidx, hprog, hkey, hslot⟩ := h
  let a := startAsked l s
  have hinst : installTest (testKeyOf l s.cfg) a
      = (.installed n, { a with flows := placeEntry n (testEntry (testKeyOf l s.cfg)) s.flows }) := by
    unfold installTest
    rw [show findKey (testKeyOf l s.cfg) a.flows = none from hkey, show lowestFree a.flows = some n from hslot] <;> rfl
  let b : State := { a with
    flows := placeEntry n (testEntry (testKeyOf l s.cfg)) s.flows
    qual := { a.qual with results := emptyResults first last a.qual.results } }
  let c : Context := { b.ctx l with
    slot := some n, testKey := some (testKeyOf l s.cfg), first := some first, last := some last, cause := .none }
  have hrun : startRun l s = endPhases l (stepStart l first (b.setCtx l c)) := by
    unfold startRun
    dsimp only
    have h1 : ((s.setCtx l { s.ctx l with runNo := (s.ctx l).runNo + 1, inService := s.inService l }).cfg.links.get l).startIndex
        = some first := hidx
    rw [h1]
    dsimp only
    have h2 : programmeLast (s.setCtx l { s.ctx l with
        runNo := (s.ctx l).runNo + 1, inService := s.inService l }).cfg.steps first = some last := hprog
    rw [h2]
    dsimp only
    have h3 : installTest { port := .bh l, vlan := some ((s.setCtx l { s.ctx l with
        runNo := (s.ctx l).runNo + 1, inService := s.inService l }).cfg.links.get l).testVlan }
        (s.setCtx l { s.ctx l with runNo := (s.ctx l).runNo + 1, inService := s.inService l }) = _ := hinst
    rw [h3] <;> rfl
  have hctx : (b.setCtx l c).ctx l = c := PerLink.get_set_same _ _ _
  have hbctx : b.ctx l = { s.ctx l with runNo := (s.ctx l).runNo + 1, inService := s.inService l } := startAsked_ctx l s
  have hheld : (b.setCtx l c).setCtx l (((b.setCtx l c).ctx l).begins first (tget s.cfg.steps first) s.now)
      = startedHeld l first last n s := by
    have hc : c.begins first (tget s.cfg.steps first) s.now
        = startedContext l s.cfg (s.ctx l) s.now (s.inService l) first last n := by
      show Context.begins _ _ _ { b.ctx l with
        slot := some n, testKey := some (testKeyOf l s.cfg), first := some first, last := some last, cause := .none } = _
      rw [hbctx] <;> rfl
    rw [hctx, hc]
    show ({ b with qual := { b.qual with ctx := ((s.qual.ctx.set l _).set l c).set l _ } } : State) = _
    rw [PerLink.set_set, PerLink.set_set] <;> rfl
  rw [hrun]
  exact congrArg (fun t => endPhases l (capacityCheck l (reportTestRate l (stepRate (tget s.cfg.steps first)) t))) hheld

/-- With a first step that E_L carries, nothing is aborted (R148). -/
theorem startRun_startable {l : Link} {first last : Fin 32} {n : Nat} {s : State}
    (h : Startable l s.cfg s.flows first last n)
    (hcap : s.inService l = true → (tget s.cfg.steps first).kind = .load → (tget s.cfg.steps first).rate ≤ s.el l) :
    startRun l s = endPhases l (reportTestRate l (stepRate (tget s.cfg.steps first)) (startedHeld l first last n s)) := by
  obtain ⟨hqual, hlinks, hcfg, _⟩ :=
    reportTestRate_reads l (stepRate (tget s.cfg.steps first)) (startedHeld l first last n s)
  rw [startRun_begins h, capacityCheck_under]
  rintro ⟨r, hr, hin, hk, _, hel⟩
  have hctx : (reportTestRate l (stepRate (tget s.cfg.steps first)) (startedHeld l first last n s)).ctx l
      = startedContext l s.cfg (s.ctx l) s.now (s.inService l) first last n := by
    unfold State.ctx
    rw [hqual]
    exact startedHeld_ctx l first last n s
  rw [hctx] at hr hin
  cases hr
  rw [(el_congr (s := startedHeld l first last n s) hcfg hlinks l).1] at hel
  exact absurd (hcap hin hk) (Nat.not_le.2 hel)

/-- A start whose first SETTLE lasts leaves its first step in SETTLE. -/
theorem startRun_settles {l : Link} {first last : Fin 32} {n : Nat} {s : State}
    (h : Startable l s.cfg s.flows first last n) (h0 : 0 < (tget s.cfg.steps first).settle)
    (h1 : (tget s.cfg.steps first).settle ≤ 10000)
    (hcap : s.inService l = true → (tget s.cfg.steps first).kind = .load → (tget s.cfg.steps first).rate ≤ s.el l) :
    startRun l s = reportTestRate l (stepRate (tget s.cfg.steps first)) (startedHeld l first last n s) := by
  rw [startRun_startable h hcap]
  obtain ⟨hqual, _, _, _, htime, _⟩ := reportTestRate_reads l (stepRate (tget s.cfg.steps first)) (startedHeld l first last n s)
  refine endPhases_early (x := afterMs s.now (tget s.cfg.steps first).settle) ?_ ?_
  · unfold State.ctx
    rw [hqual]
    exact congrArg Context.phaseEnd (startedHeld_ctx l first last n s)
  · unfold State.now
    rw [htime]
    exact reached_afterMs_now _ _ h0 (by omega)

/-! ## Refused starts (R143) -/

/-- A link's context after a refused start, and nothing else. -/
def refusedHeld (l : Link) (cause : Cause) (s : State) : State :=
  { s with qual := { s.qual with ctx := s.qual.ctx.set l (refusedContext (s.ctx l) (s.inService l) cause) } }

theorem refuseStart_asked {l : Link} {cause : Cause} {s : State} :
    refuseStart l cause (startAsked l s)
      = if s.inService l then raise (.retestFailed l) none (refusedHeld l cause s)
        else if (s.link l).state = .qualifying then enterBarred l cause (refusedHeld l cause s)
        else refusedHeld l cause s := by
  have hheld : (startAsked l s).setCtx l (((startAsked l s).ctx l).ended .failed cause) = refusedHeld l cause s := by
    rw [startAsked_ctx]
    show ({ s with qual := { s.qual with ctx := (s.qual.ctx.set l _).set l _ } } : State) = _
    rw [PerLink.set_set] <;> rfl
  have hunf : refuseStart l cause (startAsked l s)
      = if (refusedHeld l cause s).inService l then raise (.retestFailed l) none (refusedHeld l cause s)
        else if ((refusedHeld l cause s).link l).state = .qualifying then enterBarred l cause (refusedHeld l cause s)
        else refusedHeld l cause s := by
    rw [← hheld] <;> rfl
  exact hunf

/-- A start refused for its programme, its key or a full table. -/
theorem startRun_refused {l : Link} {cause : Cause} {s : State} (h : startRefusal l s.cfg s.flows = some cause) :
    startRun l s = refuseStart l cause (startAsked l s) := by
  unfold startRefusal at h
  unfold startRun
  dsimp only
  split at h
  · next hidx =>
    cases h
    have h1 : ((s.setCtx l { s.ctx l with runNo := (s.ctx l).runNo + 1, inService := s.inService l }).cfg.links.get l).startIndex
        = none := hidx
    rw [h1] <;> rfl
  · next first hidx =>
    have h1 : ((s.setCtx l { s.ctx l with runNo := (s.ctx l).runNo + 1, inService := s.inService l }).cfg.links.get l).startIndex
        = some first := hidx
    rw [h1]
    dsimp only
    split at h
    · next hprog =>
      cases h
      have h2 : programmeLast (s.setCtx l { s.ctx l with
          runNo := (s.ctx l).runNo + 1, inService := s.inService l }).cfg.steps first = none := Option.isNone_iff_eq_none.1 hprog
      rw [h2] <;> rfl
    · next hprog =>
      obtain ⟨last, hlast⟩ := Option.ne_none_iff_exists'.1 fun hn => hprog (Option.isNone_iff_eq_none.2 hn)
      have h2 : programmeLast (s.setCtx l { s.ctx l with
          runNo := (s.ctx l).runNo + 1, inService := s.inService l }).cfg.steps first = some last := hlast
      rw [h2]
      dsimp only
      have hinst : ∀ a : State, a.flows = s.flows → installTest (testKeyOf l s.cfg) a
          = if (findKey (testKeyOf l s.cfg) s.flows).isSome then (.keyInUse, a)
            else match lowestFree s.flows with
              | none => (.tableFull, a)
              | some n => (.installed n, { a with flows := placeEntry n (testEntry (testKeyOf l s.cfg)) a.flows }) := by
        intro a ha
        unfold installTest
        rw [ha]
        cases findKey (testKeyOf l s.cfg) s.flows <;> rfl
      have h3 : installTest { port := .bh l, vlan := some ((s.setCtx l { s.ctx l with
          runNo := (s.ctx l).runNo + 1, inService := s.inService l }).cfg.links.get l).testVlan }
          (s.setCtx l { s.ctx l with runNo := (s.ctx l).runNo + 1, inService := s.inService l }) = _ := hinst (startAsked l s) rfl
      rw [h3]
      split at h
      · next hk =>
        cases h
        rw [if_pos hk] <;> rfl
      · next hk =>
        rw [if_neg hk]
        split at h
        · next hfull =>
          cases h
          rw [Option.isNone_iff_eq_none.1 hfull] <;> rfl
        · cases h

/-- A start is refused, or finds its programme, its key and its slot. -/
theorem startRefusal_none {l : Link} {c : Classes} {flows : List (Nat × FlowEntry)} (h : startRefusal l c flows = none) :
    ∃ first last n, Startable l c flows first last n := by
  unfold startRefusal at h
  split at h
  · cases h
  · next first hidx =>
    split at h
    · cases h
    next hprog =>
    split at h
    · cases h
    next hkey =>
    split at h
    · cases h
    next hfree =>
    obtain ⟨last, hlast⟩ := Option.ne_none_iff_exists'.1 fun hn => hprog (Option.isNone_iff_eq_none.2 hn)
    obtain ⟨n, hn⟩ := Option.ne_none_iff_exists'.1 fun hn => hfree (Option.isNone_iff_eq_none.2 hn)
    exact ⟨first, last, n, hidx, hlast, by simpa using hkey, hn⟩

end Sys2Proof.Machine
end

section
/-!
PROOF. Runs begun and refused, outside and in service (R49, R143, R144), and RETEST (R55): O17.
-/

namespace Sys2Proof.Machine

/-! ## Rounds of phase ends (R145) -/

theorem runPhases_early {l : Link} {s : State} {x : Instant} (n : Nat) (h : (s.ctx l).phaseEnd = some x)
    (hr : reached s.now x = false) : runPhases n l s = s := by
  cases n with
  | zero => rfl
  | succ n =>
    unfold runPhases
    simp only [h]
    split
    · next e r i he _ _ =>
      cases he
      rw [hr]
      simp
    · rfl

theorem runPhases_over {l : Link} {s : State} (n : Nat) (h : (s.ctx l).phaseEnd = none) : runPhases n l s = s := by
  cases n with
  | zero => rfl
  | succ n =>
    unfold runPhases
    simp only [h]

theorem runPhases_due {l : Link} {s : State} {x : Instant} {r : StepRecord} {i : Fin 32} (n : Nat)
    (hx : (s.ctx l).phaseEnd = some x) (hr : (s.ctx l).step = some r) (hi : (s.ctx l).current = some i)
    (hu : (s.ctx l).underWay = true) (hd : reached s.now x = true) :
    runPhases (n + 1) l s = runPhases n l (nextPhase l x r i s) := by
  rw [runPhases]
  simp only [hx, hr, hi, hu, hd, Bool.and_self, if_true]

theorem afterMs_zero (t : Instant) : afterMs t 0 = t := by
  unfold afterMs afterNs msNs
  simp

theorem reached_self (t : Instant) : reached t t = true := by
  unfold reached
  simp

/-! ## Entry into QUALIFYING (R54) -/

/-- The record of a link that enters QUALIFYING (R47, R53, R54). -/
def qualifyingUnit (l : Link) (u : LinkUnit) (s : State) : LinkUnit :=
  { u with
    state := .qualifying, barCause := .none
    supTimer := some (u.supTimer.getD (afterMs s.now (s.cfg.links.get l).supervision)) }

theorem enterQualifying_eq (l : Link) (s : State) :
    enterQualifying l s = kickBackhaul (s.setLink l (qualifyingUnit l (s.link l) s)) := by
  have hsup : ∀ u : LinkUnit, (match u.supTimer with
      | some t => some t
      | none => some (afterMs s.now (s.cfg.links.get l).supervision))
      = some (u.supTimer.getD (afterMs s.now (s.cfg.links.get l).supervision)) := fun u => by
    cases u.supTimer <;> rfl
  unfold enterQualifying startSupervision updLink
  dsimp only
  have hread : (s.setLink l { s.link l with state := .qualifying, barCause := .none }).link l
      = { s.link l with state := .qualifying, barCause := .none } := PerLink.get_set_same _ _ _
  rw [hread]
  unfold qualifyingUnit
  rw [← hsup]
  show kickBackhaul { s with links := (s.links.set l _).set l _ } = _
  rw [PerLink.set_set] <;> rfl

theorem entered_qualifying (l : Link) (s : State) :
    Entered l (qualifyingUnit l (s.link l) s) [] s (enterQualifying l s) := by
  rw [enterQualifying_eq]
  exact ⟨⟨_, _, rfl⟩, ((controls_setLink l _ s).mono (by simp) (by simp) (by simp)).trans
    ((controls_kickBackhaul _).mono (by simp) (by simp) (by simp)), .plain rfl rfl rfl⟩

/-! ## Runs begun (R143 to R145) -/

theorem controls_startedHeld (l : Link) (first last : Fin 32) (n : Nat) (s : State) :
    Controls [.qual, .flows] [] [] s (startedHeld l first last n s) :=
  .plain (run_steady s _ _) rfl rfl rfl rfl

/-- What a run whose first SETTLE lasts leaves: its context, results emptied, its entry and its test rate. -/
structure RunBegun (l : Link) (first last : Fin 32) (n : Nat) (s t : State) : Prop where
  ctx : t.ctx l = startedContext l s.cfg (s.ctx l) s.now (s.inService l) first last n
  other : t.ctx l.other = s.ctx l.other
  results : ∀ i, tget t.qual.results i = if first ≤ i ∧ i ≤ last then none else tget s.qual.results i
  flows : t.flows = placeEntry n (testEntry (testKeyOf l s.cfg)) s.flows
  rate : t.share.testRate = s.share.testRate.set l (stepRate (tget s.cfg.steps first))
  links : t.links = s.links
  cfg : t.cfg = s.cfg

theorem tget_emptyResults (first last : Fin 32) (v : Vector (Option StepResult) 32) (i : Fin 32) :
    tget (emptyResults first last v) i = if first ≤ i ∧ i ≤ last then none else tget v i := by
  unfold emptyResults tget
  exact Vector.getElem_ofFn _

theorem runBegun_reported (l : Link) (first last : Fin 32) (n : Nat) (s : State) :
    RunBegun l first last n s (reportTestRate l (stepRate (tget s.cfg.steps first)) (startedHeld l first last n s)) := by
  obtain ⟨hqual, hlinks, hcfg, hflows, _, hrate⟩ :=
    reportTestRate_reads l (stepRate (tget s.cfg.steps first)) (startedHeld l first last n s)
  refine ⟨?_, ?_, fun i => ?_, hflows, hrate, hlinks, hcfg⟩
  · unfold State.ctx
    rw [hqual]
    exact PerLink.get_set_same _ _ _
  · unfold State.ctx
    rw [hqual]
    exact PerLink.get_set_other _ _ _
  · rw [hqual]
    exact tget_emptyResults _ _ _ _

theorem RunBegun.departs {l : Link} {first last : Fin 32} {n : Nat} {s u t : State} (h : RunBegun l first last n s u)
    (k : Departs u t) :
    t.ctx l = startedContext l s.cfg (s.ctx l) s.now (s.inService l) first last n ∧ t.ctx l.other = s.ctx l.other
      ∧ (∀ i, tget t.qual.results i = if first ≤ i ∧ i ≤ last then none else tget s.qual.results i)
      ∧ t.flows.map withoutLastLink = (placeEntry n (testEntry (testKeyOf l s.cfg)) s.flows).map withoutLastLink
      ∧ t.share.testRate = s.share.testRate.set l (stepRate (tget s.cfg.steps first)) := by
  have hqual : t.qual = u.qual := k.1 .qual rfl
  have hflows : t.flows.map withoutLastLink = u.flows.map withoutLastLink := k.1 .flows rfl
  refine ⟨?_, ?_, fun i => ?_, by rw [hflows, h.flows], by rw [show t.share = _ from k.1 .share rfl, h.rate]⟩
  · rw [← h.ctx]
    unfold State.ctx
    rw [hqual]
  · rw [← h.other]
    unfold State.ctx
    rw [hqual]
  · rw [hqual, h.results]

/-- Outside service a run begins without a computation. -/
theorem startRun_outside {l : Link} {first last : Fin 32} {n : Nat} {s : State} (hout : s.inService l = false)
    (h : Startable l s.cfg s.flows first last n) (h0 : 0 < (tget s.cfg.steps first).settle)
    (h1 : (tget s.cfg.steps first).settle ≤ 10000) :
    RunBegun l first last n s (startRun l s) ∧ Controls [.qual, .flows, .share] [] [] s (startRun l s)
      ∧ Unpublished s (startRun l s) := by
  have hrun := startRun_settles h h0 h1 fun hin => absurd hin (by simp [hout])
  obtain ⟨hc, hp⟩ := reportTestRate_unpublished (l := l) (r := stepRate (tget s.cfg.steps first))
    (s := startedHeld l first last n s) (.inl hout)
  rw [hrun]
  refine ⟨runBegun_reported _ _ _ _ _,
    ((controls_startedHeld l first last n s).mono (by simp) (by simp) (by simp)).trans
      (hc.mono (by simp) (by simp) (by simp)), Unpublished.trans (t := startedHeld l first last n s) (.plain rfl rfl rfl) hp⟩

/-- A refused start in QUALIFYING bars the link (R53, R143). -/
theorem startRun_barred {l : Link} {cause : Cause} {s : State} (hq : (s.link l).state = .qualifying)
    (h : startRefusal l s.cfg s.flows = some cause) :
    startRun l s = enteredAs l (barredUnit cause (s.link l)) (.linkBarred l) (refusedHeld l cause s) := by
  have hout : s.inService l = false := by
    unfold State.inService
    rw [hq] <;> rfl
  rw [startRun_refused h, refuseStart_asked, hout, if_neg (by simp), if_pos hq]
  exact enterBarred_outside (s := refusedHeld l cause s) hout

theorem controls_refusedHeld (l : Link) (cause : Cause) (s : State) : Controls [.qual] [] [] s (refusedHeld l cause s) :=
  .plain (qual_steady s _) rfl rfl rfl rfl

/-! ## RETEST (R55) -/

theorem retestCommand_named {body : List Field} {l : Link} {s : State} (hb : commandLink body = some l) :
    retestCommand body s = answer (retestLink l s) := by
  unfold retestCommand
  rw [hb]

theorem retestLink_barred {l : Link} {s : State} (h : (s.link l).state = .barred) (hc : (s.link l).carrier = true) :
    retestLink l s = (.ok, qualify l s) := by
  unfold retestLink
  rw [h]
  exact if_pos hc

theorem retestLink_idle {l : Link} {s : State} (h : (s.link l).state = .inService) (hi : (s.ctx l).underWay = false) :
    retestLink l s = (.ok, startRun l s) := by
  unfold retestLink
  rw [h]
  exact if_neg (by simp [hi])

theorem controls_qualifying (l : Link) (s : State) : Controls [.links] [] [] s (enterQualifying l s) := by
  rw [enterQualifying_eq]
  exact (controls_setLink l _ s).trans ((controls_kickBackhaul _).mono (by simp) (by simp) (by simp))

/-- What a start finds in a link that has just entered QUALIFYING. -/
theorem enterQualifying_reads (l : Link) (s : State) :
    let a := enterQualifying l s
    a.cfg = s.cfg ∧ a.flows = s.flows ∧ a.ctx l = s.ctx l ∧ a.now = s.now ∧ a.inService l = false
      ∧ a.links = s.links.set l (qualifyingUnit l (s.link l) s) ∧ (a.link l).state = .qualifying := by
  intro a
  have h := entered_qualifying l s
  obtain ⟨hu, hcfg, hlinks, hqual, hflows, _, htime⟩ := h.reads
  refine ⟨hcfg, hflows, ?_, congrArg TimeUnit.elapsed htime, h.el.2, hlinks, ?_⟩
  · unfold State.ctx
    rw [hqual]
  · rw [hu] <;> rfl

/-- A run asked for outside service, whose first SETTLE lasts, leaves the link QUALIFYING with its run begun (R49). -/
theorem qualify_begun {l : Link} {first last : Fin 32} {n : Nat} {s : State} (h : Startable l s.cfg s.flows first last n)
    (h0 : 0 < (tget s.cfg.steps first).settle) (h1 : (tget s.cfg.steps first).settle ≤ 10000) :
    RunBegun l first last n (enterQualifying l s) (qualify l s)
      ∧ startedContext l (enterQualifying l s).cfg ((enterQualifying l s).ctx l) (enterQualifying l s).now
            ((enterQualifying l s).inService l) first last n
          = startedContext l s.cfg (s.ctx l) s.now false first last n
      ∧ Controls [.links, .qual, .flows, .share] [] [] s (qualify l s) ∧ Unpublished s (qualify l s) := by
  obtain ⟨hcfg, hflows, hctx, hnow, hout, _, _⟩ := enterQualifying_reads l s
  have hent := entered_qualifying l s
  obtain ⟨hbegun, hc, hp⟩ := startRun_outside (s := enterQualifying l s) (first := first) (last := last) (n := n) hout
    (by rw [hcfg, hflows]; exact h) (by rw [hcfg]; exact h0) (by rw [hcfg]; exact h1)
  refine ⟨hbegun, by rw [hcfg, hctx, hnow, hout], ?_, hent.unpublished.trans hp⟩
  exact ((controls_qualifying l s).mono (by simp) (by simp) (by simp)).trans (hc.mono (by simp) (by simp) (by simp))

/-- A run asked for outside service whose start is refused leaves the link BARRED (R49, R53, R143). -/
theorem qualify_refused {l : Link} {cause : Cause} {s : State} (h : startRefusal l s.cfg s.flows = some cause) :
    let t := qualify l s
    t.qual = { s.qual with ctx := s.qual.ctx.set l (refusedContext (s.ctx l) false cause) }
      ∧ t.links = s.links.set l { s.link l with state := .barred, barCause := cause, supTimer := none }
      ∧ t.latch (.linkBarred l) = (s.latch (.linkBarred l)).occur s.nowNs none
      ∧ Controls [.links, .latches, .qual] [.linkBarred l] [] s t ∧ Unpublished s t := by
  intro t
  let a := enterQualifying l s
  obtain ⟨hcfg, hflows, hctx, _, hout, hlinks, hstate⟩ := enterQualifying_reads l s
  have hent := entered_qualifying l s
  obtain ⟨hunit, _, _, hqual, _, _, htime⟩ := hent.reads
  have ht : t = enteredAs l (barredUnit cause (a.link l)) (.linkBarred l) (refusedHeld l cause a) :=
    startRun_barred (s := a) hstate (by rw [hcfg, hflows]; exact h)
  obtain ⟨hl, _, _, hq, _⟩ := enteredAs_links l (barredUnit cause (a.link l)) (.linkBarred l) (refusedHeld l cause a)
  obtain ⟨_, hlatch, hp⟩ := enteredAs_spec l (barredUnit cause (a.link l)) (.linkBarred l) (refusedHeld l cause a)
  have hnow : a.nowNs = s.nowNs := congrArg (fun t : TimeUnit => wholeNs t.elapsed) htime
  have hheld := controls_refusedHeld l cause a
  rw [ht]
  refine ⟨?_, ?_, ?_, ?_, ?_⟩
  · rw [hq]
    show ({ a.qual with ctx := a.qual.ctx.set l (refusedContext (a.ctx l) (a.inService l) cause) } : Qual) = _
    rw [hqual, hctx, hout]
  · rw [hl]
    show a.links.set l (barredUnit cause (a.link l)) = _
    rw [hlinks, PerLink.set_set, hunit] <;> rfl
  · rw [hlatch]
    show (a.latch (.linkBarred l)).occur a.nowNs none = _
    rw [hnow, hent.controls.latches _ (by simp)]
  · exact ((hent.controls.mono (by simp) (by simp) (by simp)).trans (hheld.mono (by simp) (by simp) (by simp))).trans
      ((controls_enteredAs l _ (.linkBarred l) _).mono (by simp) (by simp) (by simp))
  · exact hent.unpublished.trans (Unpublished.trans (t := refusedHeld l cause a) (.plain rfl rfl rfl) hp)

/-! ## RETEST settled (R55) -/

/-- RETEST of a BARRED link whose run can start (R55). -/
theorem retest_barred {h : Header} {sel : Selector} {body : List Field} {s : State} {l : Link} {first last : Fin 32} {n : Nat}
    (ha : Accepts h s) (hk : sel.kind.toNat ≤ 3) (hb : commandLink body = some l) (hst : (s.link l).state = .barred)
    (hc : (s.link l).carrier = true) (hs : Startable l s.cfg s.flows first last n)
    (h0 : 0 < (tget s.cfg.steps first).settle) (h1 : (tget s.cfg.steps first).settle ≤ 10000) :
    ∃ t, exec (.retest h sel body) s = .next t
      ∧ t.ctx l = startedContext l s.cfg (s.ctx l) s.now false first last n ∧ t.ctx l.other = s.ctx l.other
      ∧ (∀ i, tget t.qual.results i = if first ≤ i ∧ i ≤ last then none else tget s.qual.results i)
      ∧ t.flows.map withoutLastLink = (placeEntry n (testEntry (testKeyOf l s.cfg)) s.flows).map withoutLastLink
      ∧ t.share.testRate = s.share.testRate.set l (stepRate (tget s.cfg.steps first))
      ∧ Answered h 4 0x103 sel .ok s t ∧ t.links = s.links.set l (qualifyingUnit l (s.link l) s)
      ∧ t.share.table = s.share.table ∧ Kept [.locals, .links, .qual, .flows, .share] s t := by
  have hop : retestCommand body s.begun = ({ status := .ok, body := [], after := .nothing }, qualify l s.begun) := by
    rw [retestCommand_named hb, retestLink_barred (s := s.begun) hst hc] <;> rfl
  obtain ⟨hrun, hctx0, hc', hp⟩ := qualify_begun (s := s.begun) hs h0 h1
  obtain ⟨hcfg, hflows, hctxq, hnow, hout, hlinks, _⟩ := enterQualifying_reads l s.begun
  obtain ⟨hdep, hans, hkept⟩ := Steady.request (op := fun _ => retestCommand) (kind := 4) (code := 0x103) ha hk hop
    hc'.told hc'.steady
  obtain ⟨k1, k2, k3, k4, k5⟩ := hrun.departs hdep
  have hqual : (enterQualifying l s.begun).qual = s.qual := (entered_qualifying l s.begun).reads.2.2.2.1
  have hshare : (enterQualifying l s.begun).share = s.share := (entered_qualifying l s.begun).reads.2.2.2.2.2.1
  refine ⟨_, rfl, k1.trans hctx0, k2.trans ?_, fun i => (k3 i).trans (by rw [hqual]), ?_, ?_, hans, ?_, ?_, hkept⟩
  · unfold State.ctx
    rw [hqual]
  · rw [hcfg, hflows] at k4
    exact k4
  · rw [hshare, hcfg] at k5
    exact k5
  · rw [show _ = _ from hdep.1 .links rfl, hrun.links, hlinks] <;> rfl
  · rw [hdep.unpublished.table, hp.table] <;> rfl

end Sys2Proof.Machine
end

section
/-!
PROOF. RETEST settled (R55, R143 to R145): O17.
-/

namespace Sys2Proof.Machine

theorem controls_setCtx (l : Link) (c : Context) (s : State) : Controls [.qual] [] [] s (s.setCtx l c) :=
  .plain (qual_steady s _) rfl rfl rfl rfl

theorem setCtx_ctx (l : Link) (c : Context) (s : State) : (s.setCtx l c).ctx l = c := PerLink.get_set_same _ _ _

/-! ## Phases that end at their own start (R145) -/

/-- A LOAD or PROBE step whose SETTLE ends now goes on to MEASURE. -/
theorem endPhases_toMeasure {l : Link} {s : State} {x : Instant} {r : StepRecord} {i : Fin 32}
    (hx : (s.ctx l).phaseEnd = some x) (hr : (s.ctx l).step = some r) (hi : (s.ctx l).current = some i)
    (hst : (s.ctx l).state = .settle) (hd : reached s.now x = true) (hk : r.kind ≠ .wait)
    (hm : reached s.now (afterMs x r.measure) = false) :
    endPhases l s = s.setCtx l { s.ctx l with state := .measure, phaseEnd := some (afterMs x r.measure) } := by
  have hu : (s.ctx l).underWay = true := by
    unfold Context.underWay
    rw [hst] <;> rfl
  have hnext : nextPhase l x r i s
      = s.setCtx l { s.ctx l with state := .measure, phaseEnd := some (afterMs x r.measure) } := by
    unfold nextPhase
    rw [hst]
    exact if_neg hk
  unfold endPhases
  rw [runPhases_due 99 hx hr hi hu hd, hnext]
  exact runPhases_early 99 (by rw [setCtx_ctx]) hm

/-- RECOVER begins (R145, R148), and lasts. -/
theorem endPhases_toRecover {l : Link} {s : State} {x : Instant} {r : StepRecord} {i : Fin 32}
    (hx : (s.ctx l).phaseEnd = some x) (hr : (s.ctx l).step = some r) (hi : (s.ctx l).current = some i)
    (hst : (s.ctx l).state = .settle ∧ r.kind = .wait ∨ (s.ctx l).state = .measure) (hd : reached s.now x = true)
    (hm : reached s.now (afterMs x r.recover) = false) : endPhases l s = toRecover l x r s := by
  have hu : (s.ctx l).underWay = true := by
    unfold Context.underWay
    rcases hst with ⟨h, _⟩ | h <;> rw [h] <;> rfl
  have hnext : nextPhase l x r i s = toRecover l x r s := by
    unfold nextPhase
    rcases hst with ⟨h, hk⟩ | h
    · rw [h]
      exact if_pos hk
    · rw [h]
  have hreads := reportTestRate_reads l 0
    (s.setCtx l { s.ctx l with state := .recover, phaseEnd := some (afterMs x r.recover), gen := .none })
  unfold endPhases
  rw [runPhases_due 99 hx hr hi hu hd, hnext]
  refine runPhases_early 99 (x := afterMs x r.recover) ?_ ?_
  · unfold State.ctx toRecover
    rw [hreads.1]
    exact congrArg Context.phaseEnd (setCtx_ctx l _ s)
  · unfold State.now toRecover
    rw [hreads.2.2.2.2.1]
    exact hm

/-! ## RETEST of a link whose first SETTLE is over at once -/

/-- The state of a RETEST on a BARRED link, before the phases that end at once. -/
def retested (l : Link) (first last : Fin 32) (n : Nat) (s : State) : State :=
  reportTestRate l (stepRate (tget s.cfg.steps first)) (startedHeld l first last n (enterQualifying l s))

theorem retested_spec {l : Link} {first last : Fin 32} {n : Nat} {s : State} (h : Startable l s.cfg s.flows first last n) :
    let x := retested l first last n s
    qualify l s = endPhases l x
      ∧ x.ctx l = startedContext l s.cfg (s.ctx l) s.now false first last n
      ∧ x.share.testRate.get l = stepRate (tget s.cfg.steps first) ∧ x.now = s.now ∧ x.inService l = false
      ∧ Controls [.links, .qual, .flows, .share] [] [] s x := by
  intro x
  obtain ⟨hcfg, hflows, hctx, hnow, hout, hlinks, _⟩ := enterQualifying_reads l s
  let a := enterQualifying l s
  have hreads := reportTestRate_reads l (stepRate (tget s.cfg.steps first)) (startedHeld l first last n a)
  obtain ⟨hqual, hxlinks, hxcfg, _, htime, hrate⟩ := hreads
  refine ⟨?_, ?_, ?_, ?_, ?_, ?_⟩
  · have hrun := startRun_startable (s := a) (first := first) (last := last) (n := n) (by rw [hcfg, hflows]; exact h)
      fun hin => absurd hin (by rw [hout]; simp)
    rw [hcfg] at hrun
    exact hrun
  · refine (congrArg (fun q : Qual => q.ctx.get l) hqual).trans ((startedHeld_ctx l first last n a).trans ?_)
    rw [hcfg, hctx, hnow, hout]
  · exact (congrArg (fun v : PerLink Nat => v.get l) hrate).trans (PerLink.get_set_same _ _ _)
  · exact (congrArg TimeUnit.elapsed htime).trans hnow
  · exact (el_congr (s := startedHeld l first last n a) hxcfg hxlinks l).2.trans hout
  · have hheld := controls_startedHeld l first last n a
    have hrep := (reportTestRate_unpublished (l := l) (r := stepRate (tget s.cfg.steps first))
      (s := startedHeld l first last n a) (.inl hout)).1
    exact ((controls_qualifying l s).mono (by simp) (by simp) (by simp)).trans
      ((hheld.mono (by simp) (by simp) (by simp)).trans (hrep.mono (by simp) (by simp) (by simp)))

/-- The request of a RETEST on a BARRED link that ends in a state u. -/
theorem retest_request {h : Header} {sel : Selector} {body : List Field} {s u : State} {l : Link}
    (ha : Accepts h s) (hk : sel.kind.toNat ≤ 3) (hb : commandLink body = some l) (hst : (s.link l).state = .barred)
    (hc : (s.link l).carrier = true) (hq : qualify l s.begun = u)
    (hu : Controls [.links, .qual, .flows, .share] [] [] s.begun u) :
    ∃ t, exec (.retest h sel body) s = .next t ∧ Departs u t ∧ Answered h 4 0x103 sel .ok s t := by
  have hop : retestCommand body s.begun = ({ status := .ok, body := [], after := .nothing }, u) := by
    rw [retestCommand_named hb, retestLink_barred (s := s.begun) hst hc, ← hq] <;> rfl
  obtain ⟨hdep, hans, _⟩ := Steady.request (op := fun _ => retestCommand) (kind := 4) (code := 0x103) ha hk hop
    hu.told hu.steady
  exact ⟨_, rfl, hdep, hans⟩

theorem ctx_departs {l : Link} {c : Context} {u t : State} (h : u.ctx l = c) (k : Departs u t) : t.ctx l = c := by
  rw [← h]
  unfold State.ctx
  rw [show t.qual = u.qual from k.1 .qual rfl]

theorem retest_measures {h : Header} {sel : Selector} {body : List Field} {s : State} {l : Link} {first last : Fin 32}
    {n : Nat} (ha : Accepts h s) (hk : sel.kind.toNat ≤ 3) (hb : commandLink body = some l)
    (hst : (s.link l).state = .barred) (hc : (s.link l).carrier = true) (hs : Startable l s.cfg s.flows first last n)
    (h0 : (tget s.cfg.steps first).settle = 0) (hkind : (tget s.cfg.steps first).kind ≠ .wait)
    (h1 : 0 < (tget s.cfg.steps first).measure) (h2 : (tget s.cfg.steps first).measure ≤ 60000) :
    ∃ t, exec (.retest h sel body) s = .next t
      ∧ t.ctx l = { startedContext l s.cfg (s.ctx l) s.now false first last n with
          state := .measure, phaseEnd := some (afterMs s.now (tget s.cfg.steps first).measure) }
      ∧ t.share.testRate.get l = stepRate (tget s.cfg.steps first) ∧ Answered h 4 0x103 sel .ok s t := by
  let x := retested l first last n s.begun
  obtain ⟨hq, hctx, hrate, hnow, _, hcon⟩ := retested_spec (s := s.begun) hs
  have hend : (x.ctx l).phaseEnd = some s.now := by
    rw [hctx]
    show some (afterMs s.now (tget s.cfg.steps first).settle) = _
    rw [h0, afterMs_zero]
  let y := x.setCtx l { x.ctx l with state := .measure, phaseEnd := some (afterMs s.now (tget s.cfg.steps first).measure) }
  have hy : endPhases l x = y := endPhases_toMeasure (r := tget s.cfg.steps first) (i := first) hend (by rw [hctx] <;> rfl)
    (by rw [hctx] <;> rfl) (by rw [hctx] <;> rfl) (by rw [hnow]; exact reached_self _) hkind
    (by rw [hnow]; exact reached_afterMs_now _ _ h1 h2)
  obtain ⟨t, hexec, hdep, hans⟩ := retest_request ha hk hb hst hc (hq.trans hy)
    (hcon.trans ((controls_setCtx l _ x).mono (by simp) (by simp) (by simp)))
  refine ⟨t, hexec, ?_, ?_, hans⟩
  · rw [ctx_departs (setCtx_ctx l _ x) hdep, hctx] <;> rfl
  · rw [show t.share = _ from hdep.1 .share rfl]
    exact hrate

theorem retest_recovers {h : Header} {sel : Selector} {body : List Field} {s : State} {l : Link} {first last : Fin 32}
    {n : Nat} (ha : Accepts h s) (hk : sel.kind.toNat ≤ 3) (hb : commandLink body = some l)
    (hst : (s.link l).state = .barred) (hc : (s.link l).carrier = true) (hs : Startable l s.cfg s.flows first last n)
    (h0 : (tget s.cfg.steps first).settle = 0) (hkind : (tget s.cfg.steps first).kind = .wait)
    (h1 : 0 < (tget s.cfg.steps first).recover) (h2 : (tget s.cfg.steps first).recover ≤ 10000) :
    ∃ t, exec (.retest h sel body) s = .next t
      ∧ t.ctx l = { startedContext l s.cfg (s.ctx l) s.now false first last n with
          state := .recover, phaseEnd := some (afterMs s.now (tget s.cfg.steps first).recover) }
      ∧ t.share.testRate.get l = 0 ∧ Answered h 4 0x103 sel .ok s t := by
  let x := retested l first last n s.begun
  obtain ⟨hq, hctx, hrate, hnow, hout, hcon⟩ := retested_spec (s := s.begun) hs
  have hend : (x.ctx l).phaseEnd = some s.now := by
    rw [hctx]
    show some (afterMs s.now (tget s.cfg.steps first).settle) = _
    rw [h0, afterMs_zero]
  have hy : endPhases l x = toRecover l s.now (tget s.cfg.steps first) x :=
    endPhases_toRecover (i := first) hend (by rw [hctx] <;> rfl) (by rw [hctx] <;> rfl)
      (.inl ⟨by rw [hctx] <;> rfl, hkind⟩) (by rw [hnow]; exact reached_self _)
      (by rw [hnow]; exact reached_afterMs_now _ _ h1 (by omega))
  let c : Context :=
    { x.ctx l with state := .recover, phaseEnd := some (afterMs s.now (tget s.cfg.steps first).recover), gen := .none }
  have hreads := reportTestRate_reads l 0 (x.setCtx l c)
  have hrep := (reportTestRate_unpublished (l := l) (r := 0) (s := x.setCtx l c) (.inl hout)).1
  obtain ⟨t, hexec, hdep, hans⟩ := retest_request ha hk hb hst hc (hq.trans hy)
    (hcon.trans (((controls_setCtx l c x).mono (by simp) (by simp) (by simp)).trans
      (hrep.mono (by simp) (by simp) (by simp))))
  refine ⟨t, hexec, ?_, ?_, hans⟩
  · have hread : (toRecover l s.now (tget s.cfg.steps first) x).ctx l = c := by
      show (reportTestRate l 0 (x.setCtx l c)).qual.ctx.get l = c
      rw [hreads.1]
      exact setCtx_ctx l c x
    rw [ctx_departs hread hdep]
    have hgen : startGenerator (tget s.cfg.steps first) s.now = .none := by
      unfold startGenerator
      rw [hkind]
    show ({ x.ctx l with state := .recover, phaseEnd := _, gen := .none } : Context) = _
    rw [hctx, ← hgen] <;> rfl
  · rw [show t.share = _ from hdep.1 .share rfl]
    show (reportTestRate l 0 (x.setCtx l c)).share.testRate.get l = 0
    rw [hreads.2.2.2.2.2, PerLink.get_set_same]

/-! ## RETEST of an IN_SERVICE link -/

/-- RETEST of an IN_SERVICE link with no run under way, whose run can start and is carried (R55, R148). -/
theorem retest_inService {h : Header} {sel : Selector} {body : List Field} {s : State} {l : Link} {first last : Fin 32}
    {n : Nat} (ha : Accepts h s) (hk : sel.kind.toNat ≤ 3) (hb : commandLink body = some l)
    (hst : (s.link l).state = .inService) (hi : (s.ctx l).underWay = false) (hs : Startable l s.cfg s.flows first last n)
    (h0 : 0 < (tget s.cfg.steps first).settle) (h1 : (tget s.cfg.steps first).settle ≤ 10000)
    (hcap : (tget s.cfg.steps first).kind = .load → (tget s.cfg.steps first).rate ≤ s.el l) :
    ∃ t, exec (.retest h sel body) s = .next t
      ∧ t.ctx l = startedContext l s.cfg (s.ctx l) s.now true first last n ∧ t.ctx l.other = s.ctx l.other
      ∧ (∀ i, tget t.qual.results i = if first ≤ i ∧ i ≤ last then none else tget s.qual.results i)
      ∧ t.flows.map withoutLastLink = (placeEntry n (testEntry (testKeyOf l s.cfg)) s.flows).map withoutLastLink
      ∧ t.share.testRate = s.share.testRate.set l (stepRate (tget s.cfg.steps first))
      ∧ Answered h 4 0x103 sel .ok s t
      ∧ (stepRate (tget s.cfg.steps first) ≠ s.share.testRate.get l → OneComputation s t)
      ∧ Kept (computed ++ [.locals, .qual, .flows]) s t := by
  have hin : s.inService l = true := decide_eq_true hst
  let y := startedHeld l first last n s.begun
  let x := reportTestRate l (stepRate (tget s.cfg.steps first)) y
  have hop : retestCommand body s.begun = ({ status := .ok, body := [], after := .nothing }, x) := by
    rw [retestCommand_named hb, retestLink_idle (s := s.begun) hst hi,
      startRun_settles (s := s.begun) hs h0 h1 fun _ => hcap] <;> rfl
  have hc : Controls (computed ++ [.qual, .flows]) [.capacityChanged] [] s.begun x :=
    ((controls_startedHeld l first last n s.begun).mono (by simp) (by simp) (by simp)).trans
      ((controls_reportTestRate l _ y).mono (by decide) (by simp) (by simp))
  obtain ⟨hdep, hans, hkept⟩ := Steady.request (op := fun _ => retestCommand) (kind := 4) (code := 0x103) ha hk hop
    hc.told hc.steady
  obtain ⟨k1, k2, k3, k4, k5⟩ := (runBegun_reported l first last n s.begun).departs hdep
  refine ⟨_, rfl, k1.trans ?_, k2, k3, k4, k5, hans, fun hne => ?_, hkept.mono (by decide)⟩
  · show startedContext l s.cfg (s.ctx l) s.now (s.inService l) first last n = _
    rw [hin]
  · have hx : x = recompute (rateHeld l (stepRate (tget s.cfg.steps first)) y) :=
      reportTestRate_inside (s := y) (fun h => hne h.symm) hin
    rw [hx] at hdep
    have hquiet : Quiet s (rateHeld l (stepRate (tget s.cfg.steps first)) y) :=
      ⟨rfl, fun _ => rfl, fun b => by cases b <;> exact ⟨rfl, rfl⟩, fun _ => rfl, rfl⟩
    exact (hquiet.computed hdep).1

/-- RETEST of an IN_SERVICE link with no run under way whose start is refused (R55, R143). -/
theorem retest_failed {h : Header} {sel : Selector} {body : List Field} {s : State} {l : Link} {cause : Cause}
    (ha : Accepts h s) (hk : sel.kind.toNat ≤ 3) (hb : commandLink body = some l)
    (hst : (s.link l).state = .inService) (hi : (s.ctx l).underWay = false)
    (hs : startRefusal l s.cfg s.flows = some cause) :
    ∃ t, exec (.retest h sel body) s = .next t
      ∧ t.qual = { s.qual with ctx := s.qual.ctx.set l (refusedContext (s.ctx l) true cause) }
      ∧ t.latch (.retestFailed l) = (s.latch (.retestFailed l)).occur s.nowNs none ∧ LatchesKept [.retestFailed l] s t
      ∧ Kept [.locals, .qual, .latches] s t ∧ Answered h 4 0x103 sel .ok s t := by
  have hin : s.begun.inService l = true := decide_eq_true hst
  let x := raise (.retestFailed l) none (refusedHeld l cause s.begun)
  have hop : retestCommand body s.begun = ({ status := .ok, body := [], after := .nothing }, x) := by
    rw [retestCommand_named hb, retestLink_idle (s := s.begun) hst hi, startRun_refused (s := s.begun) hs,
      refuseStart_asked, if_pos hin] <;> rfl
  have hc : Controls [.qual, .latches] [.retestFailed l] [] s.begun x :=
    ((controls_refusedHeld l cause s.begun).mono (by simp) (by simp) (by simp)).trans
      ((controls_raise (.retestFailed l) none _).mono (by simp) (by simp) (by simp))
  obtain ⟨hdep, hans, hkept⟩ := Steady.request (op := fun _ => retestCommand) (kind := 4) (code := 0x103) ha hk hop
    hc.told hc.steady
  refine ⟨_, rfl, ?_, ?_, (latchesKept_of (s := s.begun) hc hdep :), hkept, hans⟩
  · have hqual : x.qual = (refusedHeld l cause s.begun).qual := (controls_raise _ _ _).steady.kept .qual (by decide) rfl
    rw [show _ = x.qual from hdep.1 .qual rfl, hqual]
    show ({ s.qual with ctx := s.qual.ctx.set l (refusedContext (s.ctx l) (s.begun.inService l) cause) } : Qual) = _
    rw [hin]
  · rw [(hdep.1 .latches rfl : ∀ c : Cond, _) _ rfl]
    exact raise_latch_same _ _ _

/-- RETEST that is answered without a start (R55). -/
theorem retest_unchanged {h : Header} {sel : Selector} {body : List Field} {s : State} {l : Link} {st : Status}
    (ha : Accepts h s) (hk : sel.kind.toNat ≤ 3) (hb : commandLink body = some l)
    (hst : retestLink l s.begun = (st, s.begun)) :
    ∃ t, exec (.retest h sel body) s = .next t ∧ Kept [.locals] s t ∧ Answered h 4 0x103 sel st s t := by
  have hop : retestCommand body s.begun = ({ status := st, body := [], after := .nothing }, s.begun) := by
    rw [retestCommand_named hb, hst] <;> rfl
  exact ⟨_, rfl, request_unchanged (op := fun _ => retestCommand) ha hk hop⟩

/-- Settles O17, by the state of the link and the outcome of the start. -/
theorem retestStartsARun : Obligations.RetestStartsARun := by
  refine ⟨fun h sel body s l first last n ha hk hb hst hidx hprog hkey hslot h0 h1 hcap => ?_,
    fun h sel body s l ha hk hb => ⟨fun hbusy => ?_, fun hin hbar => ?_⟩,
    fun h sel body s l first last n ha hk hb hst hc hs => ?_,
    fun h sel body s l cause ha hk hb hs => ⟨fun hst hc => ?_, fun hst hi => ?_⟩⟩
  · have hs : Startable l s.cfg s.flows first last n := ⟨hidx, hprog, hkey, hslot⟩
    rcases hst with ⟨hst, hc⟩ | ⟨hst, hi⟩
    · obtain ⟨t, hexec, k1, k2, k3, k4, k5, hans, hlinks, htable, hkept⟩ := retest_barred ha hk hb hst hc hs h0 h1
      refine ⟨t, hexec, k1.trans ?_, k2, k3, k4, ?_, ?_, hans, ?_⟩
      · rw [hst] <;> rfl
      · rw [k5, PerLink.get_set_same]
      · rw [k5, PerLink.get_set_other]
      · rw [if_pos hst]
        exact ⟨hlinks, htable, hkept⟩
    · obtain ⟨t, hexec, k1, k2, k3, k4, k5, hans, hone, hkept⟩ := retest_inService ha hk hb hst hi hs h0 h1 (hcap hst)
      refine ⟨t, hexec, k1.trans ?_, k2, k3, k4, ?_, ?_, hans, ?_⟩
      · rw [hst] <;> rfl
      · rw [k5, PerLink.get_set_same]
      · rw [k5, PerLink.get_set_other]
      · rw [if_neg (by rw [hst]; decide)]
        exact ⟨hone, hkept⟩
  · refine retest_unchanged ha hk hb ?_
    unfold retestLink
    rw [show (s.begun.link l).state = .inService from hbusy.1]
    exact if_pos hbusy.2
  · refine retest_unchanged ha hk hb ?_
    unfold retestLink
    split
    · next hst => exact if_neg fun hc => hbar ⟨hst, hc⟩
    · next hst => exact absurd hst hin
    · rfl
  · intro r h0
    exact ⟨fun hkind h1 h2 => retest_measures ha hk hb hst hc hs h0 hkind h1 h2,
      fun hkind h1 h2 => retest_recovers ha hk hb hst hc hs h0 hkind h1 h2⟩
  · obtain ⟨hqual, hlinks, hlatch, hcon, _⟩ := qualify_refused (s := s.begun) hs
    have hop : retestCommand body s.begun = ({ status := .ok, body := [], after := .nothing }, qualify l s.begun) := by
      rw [retestCommand_named hb, retestLink_barred (s := s.begun) hst hc] <;> rfl
    obtain ⟨hdep, hans, hkept⟩ := Steady.request (op := fun _ => retestCommand) (kind := 4) (code := 0x103) ha hk hop
      hcon.told hcon.steady
    refine ⟨_, rfl, (hdep.1 .qual rfl : _ = _).trans hqual, (hdep.1 .links rfl : _ = _).trans hlinks, ?_,
      (latchesKept_of (s := s.begun) hcon hdep :), hkept.mono (by simp), hans⟩
    exact ((hdep.1 .latches rfl : ∀ c : Cond, _) _ rfl).trans hlatch
  · exact retest_failed ha hk hb hst hi hs

end Sys2Proof.Machine
end

section
/-!
PROOF. A CURRENT notice that admits a link or starts its run (R42, R49, R52): O34.
-/

namespace Sys2Proof.Machine

/-! ## A CURRENT notice on a link that is not in service -/

/-- The state in which the state machine finds a link after a CURRENT notice with carrier present (R42). -/
def afterCurrent (l : Link) (i : Fin 16) (v : BitVec 8) (s : State) : State :=
  reportLink l (s.el l) (s.inService l) (noticed l i v s)

/-- What that state is, of a link that is not in service. -/
structure CurrentTaken (l : Link) (i : Fin 16) (v : BitVec 8) (s x : State) : Prop where
  links : x.links = s.links.set l (noticedUnit l i v s)
  cfg : x.cfg = s.cfg
  qual : x.qual = s.qual
  flows : x.flows = s.flows
  startup : x.startup = s.startup
  time : x.time = s.time
  rates : x.share.testRate = s.share.testRate
  out : x.inService l = false
  reported : Reported l s x
  controls : Controls (computed ++ [.links]) [.capacityChanged, .profileUnknown l] [.pacing l] s x

theorem afterCurrent_taken {l : Link} {i : Fin 16} {v : BitVec 8} {s : State} (h : (s.link l).state ≠ .inService) :
    CurrentTaken l i v s (afterCurrent l i v s) := by
  obtain ⟨hent, _⟩ := noticed_entered l i v s
  obtain ⟨hrep, hctl, hflows, htest, hout⟩ := reportLink_entered hent h
  have hall : Controls (computed ++ [.links]) [.capacityChanged, .profileUnknown l] [.pacing l] s (afterCurrent l i v s) :=
    (hent.controls.mono (by decide) (by simp) (by simp)).trans (hctl.mono (by decide) (by simp) (by simp))
  exact ⟨(hctl.steady.kept .links (by decide) rfl : _ = _).trans hent.reads.2.2.1, hall.steady.kept .config (by decide) rfl,
    hall.steady.kept .qual (by decide) rfl, hflows.trans hent.reads.2.2.2.2.1, hall.steady.kept .startup (by decide) rfl,
    hall.steady.kept .time (by decide) rfl, htest, hout, hrep, hall⟩

theorem CurrentTaken.link {l : Link} {i : Fin 16} {v : BitVec 8} {s x : State} (h : CurrentTaken l i v s x) :
    x.link l = noticedUnit l i v s := by
  unfold State.link
  rw [h.links, PerLink.get_set_same]

/-- Where the state machine goes on from a CURRENT notice (R49, R52). -/
theorem rateNotice_drives {l : Link} {bytes : List Byte} {i : Fin 16} {v : BitVec 8} {s : State}
    (hp : parseNotice (payload bytes) = some { current := true, index := some i, level := v })
    (hst : (s.link l).state = .faded ∨ (s.link l).state = .down) :
    rateNotice l bytes s = (if (s.link l).state = .down then admission l (afterCurrent l i v s)
      else enterInService l (afterCurrent l i v s)) := by
  have hout : (s.link l).state ≠ .inService := by rcases hst with h | h <;> rw [h] <;> decide
  have hx : ((afterCurrent l i v s).link l).state = (s.link l).state := by
    rw [(afterCurrent_taken hout).link] <;> rfl
  rw [rateNotice_current hp]
  show (match ((afterCurrent l i v s).link l).state with
    | .down => admission l (afterCurrent l i v s)
    | .faded => enterInService l (afterCurrent l i v s)
    | _ => afterCurrent l i v s) = _
  rw [hx]
  rcases hst with h | h <;> rw [h] <;> rfl

theorem admittedDirectly_iff {l : Link} {s : State} :
    admittedDirectly l s = true
      ↔ (s.cfg.links.get l).startIndex = none ∨ s.startup.straps.bringup = false ∧ (s.link l).admitted = false := by
  unfold admittedDirectly
  simp

/-! ## Admission (R49, R52) -/

/-- The link in service after the notice: its record, the computation, and its pacing rate. -/
theorem notice_admits {l : Link} {bytes : List Byte} {i : Fin 16} {v : BitVec 8} {s : State} (harr : NoticeArrives l bytes s)
    (hst : (s.link l).state ≠ .inService)
    (hop : rateNotice l bytes (recorded (.bh l) bytes s.begun)
      = enterInService l (afterCurrent l i v (recorded (.bh l) bytes s.begun))) :
    ∃ t, NoticeReceived l bytes s t
      ∧ t.links = s.links.set l (admittedUnit l (afterCurrent l i v (recorded (.bh l) bytes s.begun)))
      ∧ t.latch (.linkAdmitted l) = (s.latch (.linkAdmitted l)).occur s.nowNs none
      ∧ LatchesKept [.capacityChanged, .profileUnknown l, .linkAdmitted l] s t ∧ Reported l s t ∧ Computed t
      ∧ Kept (computed ++ [.reception, .counters, .links]) s t := by
  let D := recorded (.bh l) bytes s.begun
  let x := afterCurrent l i v D
  have hx : CurrentTaken l i v D x := afterCurrent_taken hst
  have heq : enterInService l x = recompute (admitting l x) := enterInService_eq_recompute hx.out
  have hadm : Controls [.links, .latches] [.linkAdmitted l] [] x (admitting l x) :=
    controls_enteredAs l (admittedUnit l x) (.linkAdmitted l) x
  have hrec := controls_recompute (admitting l x)
  have hall : Controls (computed ++ [.links]) [.capacityChanged, .profileUnknown l, .linkAdmitted l] [.pacing l] D
      (recompute (admitting l x)) :=
    ((hx.controls.mono (by decide) (by simp) (by simp)).trans (hadm.mono (by decide) (by simp) (by simp))).trans
      (hrec.mono (by decide) (by simp) (by simp))
  obtain ⟨t, hrcv, hdep, hlatch, hkeep⟩ := harr.event (hop.trans heq) hall
  have hcomp : Computed t := (recompute_computed _).departs hdep
  obtain ⟨helr, hinr⟩ := hrec.el l
  have hin : t.inService l = true := ((hdep.el l).2.trans hinr).trans (admitting_inService l x)
  have hel : t.el l = x.el l := ((hdep.el l).1.trans helr).trans (admitting_el l x)
  have hsin : s.inService l = false := decide_eq_false hst
  refine ⟨t, hrcv, ?_, ?_, hlatch, ?_, hcomp, (hkeep _ (by decide) (by decide) hall.steady).mono (by decide)⟩
  · rw [hdep.1 .links rfl, hrec.steady.kept .links (by decide) rfl, admitting_links, hx.links, PerLink.set_set] <;> rfl
  · rw [(hdep.1 .latches rfl : ∀ c : Cond, _) _ rfl, hrec.latches _ (by simp), admitting_latch,
      hx.controls.latches _ (by simp), show x.nowNs = s.nowNs from congrArg (fun t : TimeUnit => wholeNs t.elapsed) hx.time]
    rfl
  · unfold Reported
    rw [if_neg fun h => absurd (hin.symm.trans (h.2.trans hsin)) (by simp)]
    refine ⟨hcomp, fun hne => ?_⟩
    rw [hdep.unpublished.rates, hrec.rates _ rfl (by simp), hadm.rates _ rfl (by simp), hel]
    have hrep := hx.reported
    unfold Reported at hrep
    rw [if_neg fun h => hne (hel.trans h.1)] at hrep
    exact hrep.2 fun h => hne (hel.trans h)

/-- The record of the admitted link, from the record before the notice. -/
theorem admittedUnit_noticed {l : Link} {i : Fin 16} {v : BitVec 8} {s x : State} (h : CurrentTaken l i v s x)
    (hst : (s.link l).state = .faded ∨ (s.link l).state = .down) :
    admittedUnit l x = { s.link l with
      state := .inService, admitted := true, barCause := .none, holdTimer := none
      carrier := true, current := i, pending := none, pendTimer := none, stale := false, level := some v
      supTimer := some ((s.link l).supTimer.getD (afterMs s.now (s.cfg.links.get l).supervision))
      counters := { (s.link l).counters with currentTaken := (s.link l).counters.currentTaken + 1 } } := by
  unfold admittedUnit
  rw [h.link, h.cfg, show x.now = s.now from congrArg TimeUnit.elapsed h.time]
  unfold noticedUnit
  rcases hst with h | h <;> rw [h]

/-! ## Reports that stand (R40) -/

/-- What a computation reads of the links. -/
theorem computeTable_reads {s t : State} (hc : t.cfg = s.cfg) (hl : ∀ k, t.el k = s.el k ∧ t.inService k = s.inService k)
    (hs : t.share = s.share) (ht : t.time = s.time) (hd : ∀ i, (t.tenant i).demand = (s.tenant i).demand) :
    computeTable t = { computeTable s with computations := t.share.table.computations + 1 } := by
  have hi : shareInput t = shareInput s := by
    funext i
    unfold shareInput State.tenantCfg
    rw [hc, hd]
  have ha : ∀ k, allocLink t k = allocLink s k := fun k => by
    unfold allocLink State.xl
    rw [(hl k).1, (hl k).2, hc, hs]
  unfold computeTable
  simp only [hi, ha, hc, hd, State.tenantCfg, State.nowNs, ht]

/-- A report stands while nothing is published and no capacity changes. -/
theorem Reported.of_reads {l : Link} {w : List Part} {s x y : State} (h : Reported l s x) (hst : Steady w x y)
    (hp : Unpublished x y) (hl : ∀ k, y.el k = x.el k ∧ y.inService k = x.inService k) (hc : Part.config ∉ w := by decide)
    (ht : Part.time ∉ w := by decide) (hs : Part.share ∉ w := by decide) (hd : Part.demand ∉ w := by decide) :
    Reported l s y := by
  have htable := computeTable_reads (hst.kept .config hc rfl) hl (hst.kept .share hs rfl) (hst.kept .time ht rfl)
    fun i => ((hst.kept .demand hd rfl : ∀ i, _) i).2
  unfold Reported at h ⊢
  rw [(hl l).1, (hl l).2]
  split
  · next hx =>
    rw [if_pos hx] at h
    exact ⟨hp.table.trans h.1, fun i => (hp.allocation i).trans (h.2.1 i), fun b => (hp.rates b).trans (h.2.2 b)⟩
  · next hx =>
    rw [if_neg hx] at h
    obtain ⟨⟨h1, h2, h3, h4⟩, h5⟩ := h
    refine ⟨⟨recounted h1 htable hp.table, fun i => ?_, fun i => ?_, ?_⟩, fun hne => (hp.rates _).trans (h5 hne)⟩
    · rw [hp.allocation, hp.table]; exact h2 i
    · rw [hp.rates, hp.table]; exact h3 i
    · rw [hp.rates, hp.table]; exact h4

/-- A change of one link's record leaves the other link's capacity. -/
theorem el_other {l : Link} {u : LinkUnit} {s t : State} (hl : t.links = s.links.set l u) (hc : t.cfg = s.cfg) :
    t.el l.other = s.el l.other ∧ t.inService l.other = s.inService l.other := by
  unfold State.el State.inService State.link
  rw [hl, hc, PerLink.get_set_other]
  exact ⟨rfl, rfl⟩

theorem Link.eq_or_other (l k : Link) : k = l ∨ k = l.other := by cases l <;> cases k <;> simp [Link.other]

/-! ## A run asked for by a notice (R49, R143) -/

/-- The record of a link that a CURRENT notice has just been taken for, in DOWN. -/
theorem noticedUnit_down {l : Link} {i : Fin 16} {v : BitVec 8} {s : State} (h : (s.link l).state = .down) :
    noticedUnit l i v s = { s.link l with
      carrier := true, current := i, pending := none, pendTimer := none, stale := false, level := some v
      counters := { (s.link l).counters with currentTaken := (s.link l).counters.currentTaken + 1 } } := by
  unfold noticedUnit
  rw [h]

/-- Settles O34: the link admitted, its run begun, and its start refused. -/
theorem currentNoticeAdmitsTheLink : Obligations.CurrentNoticeAdmitsTheLink := by
  refine ⟨fun l bytes s stamp i v hrx hreach hreq hnotice hparse hst => ?_,
    fun l bytes s stamp i v hrx hreach hreq hnotice hparse hdown hidx hnot => ?_⟩
  · have harr : NoticeArrives l bytes s := ⟨⟨stamp, hrx⟩, hreach, hreq, hnotice⟩
    let D := recorded (.bh l) bytes s.begun
    have hstate : (s.link l).state = .faded ∨ (s.link l).state = .down := hst.imp_right And.left
    have hout : (s.link l).state ≠ .inService := by rcases hstate with h | h <;> rw [h] <;> decide
    have hx : CurrentTaken l i v D (afterCurrent l i v D) := afterCurrent_taken hout
    have hop : rateNotice l bytes D = enterInService l (afterCurrent l i v D) := by
      rw [rateNotice_drives (s := D) hparse hstate]
      rcases hst with hf | ⟨hd, hdirect⟩
      · exact if_neg (by rw [show (D.link l).state = .faded from hf]; decide)
      · refine (if_pos hd).trans (if_pos (admittedDirectly_iff.2 ?_))
        rw [hx.cfg, hx.startup, hx.link]
        exact hdirect
    obtain ⟨t, hrcv, hlinks, hlatch, hkept, hrep, hcomp, hk⟩ := notice_admits harr hout hop
    exact ⟨t, hrcv.run, hrcv.ended, hlinks.trans (by rw [admittedUnit_noticed hx hstate] <;> rfl), hlatch, hkept, hrep, hcomp, hk⟩
  · have harr : NoticeArrives l bytes s := ⟨⟨stamp, hrx⟩, hreach, hreq, hnotice⟩
    let D := recorded (.bh l) bytes s.begun
    let x := afterCurrent l i v D
    have hout : (s.link l).state ≠ .inService := by rw [hdown]; decide
    have hx : CurrentTaken l i v D x := afterCurrent_taken hout
    have hunit : x.link l = _ := hx.link.trans (noticedUnit_down hdown)
    have hop : rateNotice l bytes D = qualify l x := by
      rw [rateNotice_drives (s := D) hparse (.inr hdown)]
      refine (if_pos hdown).trans (if_neg fun h => ?_)
      rcases admittedDirectly_iff.1 h with h | ⟨h1, h2⟩
      · rw [hx.cfg] at h
        exact hidx h
      · rw [hx.startup] at h1
        rw [hunit] at h2
        rcases hnot with h | h
        · exact absurd (h1.symm.trans h) (by simp)
        · exact absurd (h2.symm.trans h) (by simp)
    have hctx : ∀ k, x.ctx k = s.ctx k := fun k => by unfold State.ctx; rw [hx.qual] <;> rfl
    have hnow : x.now = s.now := congrArg TimeUnit.elapsed hx.time
    have hsin : s.inService l = false := decide_eq_false hout
    intro taken
    refine ⟨fun first last n hs h0 h1 => ?_, fun cause hs => ?_⟩
    · obtain ⟨hbegun, hctx0, hcon, hp⟩ := qualify_begun (s := x) (first := first) (last := last) (n := n)
        (by rw [hx.cfg, hx.flows]; exact hs) (by rw [hx.cfg]; exact h0) (by rw [hx.cfg]; exact h1)
      have hall : Controls (computed ++ [.links, .qual, .flows]) [.capacityChanged, .profileUnknown l] [.pacing l] D
          (qualify l x) :=
        (hx.controls.mono (by decide) (by simp) (by simp)).trans (hcon.mono (by decide) (by simp) (by simp))
      obtain ⟨t, hrcv, hdep, hlatch, hkeep⟩ := harr.event hop hall
      obtain ⟨k1, k2, k3, k4, k5⟩ := hbegun.departs hdep
      obtain ⟨qcfg, qflows, _, _, _, qlinks, _⟩ := enterQualifying_reads l x
      obtain ⟨qunit, _, _, qqual, _, qshare, _⟩ := (entered_qualifying l x).reads
      have hel : t.el l = x.el l := by
        rw [(hdep.el l).1, (el_congr (hbegun.cfg.trans rfl) hbegun.links l).1, (entered_qualifying l x).el.1]
        rfl
      refine ⟨t, hrcv.run, hrcv.ended, hrcv.counted, ?_, k1.trans ?_, k2.trans ?_, fun j => (k3 j).trans ?_, ?_, ?_,
        fun hsame => ?_, fun hne => ?_, hlatch, (hkeep _ (by decide) (by decide) hall.steady).mono (by decide)⟩
      · rw [hdep.1 .links rfl, hbegun.links, qlinks, hx.links, PerLink.set_set, hunit]
        unfold qualifyingUnit
        rw [hx.cfg, hnow] <;> rfl
      · rw [hctx0, hx.cfg, hctx, hnow] <;> rfl
      · unfold State.ctx
        rw [qqual, hx.qual] <;> rfl
      · rw [qqual, hx.qual] <;> rfl
      · rw [qcfg, qflows, hx.cfg, hx.flows] at k4
        exact k4
      · rw [qshare, qcfg, hx.rates, hx.cfg] at k5
        exact k5
      · rw [hdep.unpublished.table, hp.table]
        have hrep := hx.reported
        unfold Reported at hrep
        rw [if_pos ⟨hel.symm.trans hsame, hx.out.trans hsin.symm⟩] at hrep
        exact hrep.1
      · rw [hdep.unpublished.rates, hp.rates, hel]
        have hrep := hx.reported
        unfold Reported at hrep
        rw [if_neg fun h => hne (hel.trans h.1)] at hrep
        exact hrep.2 fun h => hne (hel.trans h)
    · obtain ⟨hqual, hlinks, hbar, hcon, hp⟩ := qualify_refused (s := x) (l := l) (cause := cause)
        (by rw [hx.cfg, hx.flows]; exact hs)
      have hall : Controls (computed ++ [.links, .qual]) [.capacityChanged, .profileUnknown l, .linkBarred l] [.pacing l] D
          (qualify l x) :=
        (hx.controls.mono (by decide) (by simp) (by simp)).trans (hcon.mono (by decide) (by simp) (by simp))
      obtain ⟨t, hrcv, hdep, hlatch, hkeep⟩ := harr.event hop hall
      refine ⟨t, hrcv.run, hrcv.ended, hrcv.counted, ?_, ?_, ?_, hlatch, ?_,
        (hkeep _ (by decide) (by decide) hall.steady).mono (by decide)⟩
      · rw [hdep.1 .links rfl, hlinks, hx.links, PerLink.set_set, hunit] <;> rfl
      · rw [hdep.1 .qual rfl, hqual, hx.qual, hctx] <;> rfl
      · rw [(hdep.1 .latches rfl : ∀ c : Cond, _) _ rfl, hbar, hx.controls.latches _ (by simp),
          show x.nowNs = s.nowNs from congrArg (fun t : TimeUnit => wholeNs t.elapsed) hx.time] <;> rfl
      · refine Reported.departs (hx.reported.of_reads hcon.steady hp fun k => ?_) hdep
        have hcfg : (qualify l x).cfg = x.cfg := hcon.steady.kept .config (by decide) rfl
        rcases Link.eq_or_other l k with rfl | rfl
        · have hlink : (qualify k x).link k = { x.link k with state := .barred, barCause := cause, supTimer := none } := by
            unfold State.link
            rw [hlinks, PerLink.get_set_same] <;> rfl
          have hxout : decide ((x.link k).state = .inService) = false := hx.out
          unfold State.el State.inService
          rw [hlink, hcfg, hxout]
          exact ⟨rfl, rfl⟩
        · exact el_other hlinks hcfg

end Sys2Proof.Machine
end

section
/-!
PROOF. Phases, verdicts and the end of a run (R145, R150, R151): O47.
-/

namespace Sys2Proof.Machine

/-! ## The judgement of a step (R150) -/

/-- The loss of a step in ppm, as R150 counts it. -/
def Context.lossPpm (c : Context) : Nat :=
  if c.sent = 0 then 1000000 else (c.sent.toNat - c.returned.toNat) * 1000000 / c.sent.toNat

/-- A step passes (R150): a WAIT step always, another one by its loss, its greatest round trip and its variation. -/
def Passes (c : Context) (r : StepRecord) : Prop :=
  r.kind = .wait ∨ (c.sent ≠ 0 ∧ c.lossPpm ≤ r.maxLoss
    ∧ (r.maxRoundTrip = 0 ∨ ∃ m, c.maxRt = some m ∧ m ≤ r.maxRoundTrip * 1000)
    ∧ (r.maxVariation = 0 ∨ ∃ lo hi, c.minRt = some lo ∧ c.maxRt = some hi ∧ hi - lo ≤ r.maxVariation * 1000))

theorem sent_eq_zero (c : Context) : c.sent.toNat = 0 ↔ c.sent = 0 :=
  ⟨fun h => BitVec.eq_of_toNat_eq h, fun h => by rw [h] <;> rfl⟩

theorem lossOf_eq (c : Context) : lossOf c.sent.toNat c.returned.toNat = c.lossPpm := by
  unfold lossOf Context.lossPpm
  simp only [sent_eq_zero]

theorem withinLimit_iff (limit : Nat) (v : Option Nat) :
    withinLimit limit v = true ↔ limit = 0 ∨ ∃ m, v = some m ∧ m ≤ limit * 1000 := by
  cases v <;> simp [withinLimit]

theorem variationOf_iff (c : Context) (n : Nat) :
    (∃ m, variationOf c = some m ∧ m ≤ n) ↔ ∃ lo hi, c.minRt = some lo ∧ c.maxRt = some hi ∧ hi - lo ≤ n := by
  unfold variationOf
  cases c.minRt <;> cases c.maxRt <;> simp

/-- What the result of a step says (R142, R150). -/
theorem judge_spec (l : Link) (c : Context) (r : StepRecord) (t : Ns) :
    let res := judge l c r t
    res.link = l ∧ res.runNo = c.runNo ∧ res.kind = r.kind ∧ (res.pass = true ↔ Passes c r) ∧ res.writtenAt = t
      ∧ (r.kind ≠ .wait → res.sent = c.sent ∧ res.returned = c.returned ∧ res.loss = c.lossPpm
          ∧ res.minRt = c.minRt ∧ res.maxRt = c.maxRt) := by
  have hmeasured : ∀ k : StepKind, k ≠ .wait → ((decide (0 < c.sent.toNat) && decide (lossOf c.sent.toNat c.returned.toNat ≤ r.maxLoss)
      && withinLimit r.maxRoundTrip c.maxRt && withinLimit r.maxVariation (variationOf c)) = true
        ↔ k = .wait ∨ (c.sent ≠ 0 ∧ c.lossPpm ≤ r.maxLoss
          ∧ (r.maxRoundTrip = 0 ∨ ∃ m, c.maxRt = some m ∧ m ≤ r.maxRoundTrip * 1000)
          ∧ (r.maxVariation = 0 ∨ ∃ lo hi, c.minRt = some lo ∧ c.maxRt = some hi ∧ hi - lo ≤ r.maxVariation * 1000))) := by
    intro k hk
    simp only [Bool.and_eq_true, decide_eq_true_eq, lossOf_eq, withinLimit_iff, variationOf_iff, Nat.pos_iff_ne_zero, ne_eq,
      sent_eq_zero, hk, false_or, and_assoc]
  unfold judge Passes
  cases hk : r.kind with
  | wait => simp
  | load => exact ⟨rfl, rfl, rfl, hmeasured _ (by decide), rfl, fun _ => ⟨rfl, rfl, lossOf_eq c, rfl, rfl⟩⟩
  | probe => exact ⟨rfl, rfl, rfl, hmeasured _ (by decide), rfl, fun _ => ⟨rfl, rfl, lossOf_eq c, rfl, rfl⟩⟩

/-! ## The end of a run (R151) -/

/-- The context of a run that has ended by its verdict (R151). -/
def Context.concluded (passed : Bool) (c : Context) : Context :=
  if passed then c.ended .passed c.cause else c.ended .failed .stepFailed

/-- A run ended, with the condition of its end (R151, R152). -/
def endHeld (l : Link) (passed : Bool) (s : State) : State :=
  raise (.qualifyDone l) none { s with
    qual := { s.qual with ctx := s.qual.ctx.set l ((s.ctx l).concluded passed) }, flows := withoutTest l s }

theorem endRun_eq {l : Link} {passed : Bool} {s : State} (h : s.share.testRate.get l = 0) :
    endRun l passed s
      = if (s.ctx l).inService then
          if passed then endHeld l passed s else raise (.retestFailed l) none (endHeld l passed s)
        else if (s.link l).state = .qualifying then
          if passed then enterInService l (endHeld l passed s) else enterBarred l .stepFailed (endHeld l passed s)
        else endHeld l passed s := by
  have hheld : raise (.qualifyDone l) none (reportTestRate l 0
      (removeTest (s.ctx l).slot (s.setCtx l ((s.ctx l).concluded passed)))) = endHeld l passed s := by
    rw [removeTest_eq, (reportTestRate_same (by exact h)).1] <;> rfl
  have hlink : (endHeld l passed s).link l = s.link l := by
    obtain ⟨x, e, hx⟩ := raise_shape (.qualifyDone l) none { s with
      qual := { s.qual with ctx := s.qual.ctx.set l ((s.ctx l).concluded passed) }, flows := withoutTest l s }
    unfold endHeld
    rw [hx] <;> rfl
  have hunf : endRun l passed s
      = if (s.ctx l).inService then
          if passed then endHeld l passed s else raise (.retestFailed l) none (endHeld l passed s)
        else if ((endHeld l passed s).link l).state = .qualifying then
          if passed then enterInService l (endHeld l passed s) else enterBarred l .stepFailed (endHeld l passed s)
        else endHeld l passed s := by
    rw [← hheld] <;> rfl
  rw [hunf, hlink]

/-- What a run ended leaves, whatever follows for its link. -/
structure RunEnded (l : Link) (passed : Bool) (s u : State) : Prop where
  ctx : u.qual = { s.qual with ctx := s.qual.ctx.set l ((s.ctx l).concluded passed) }
  flows : u.flows = withoutTest l s
  rates : u.share.testRate = s.share.testRate
  done : u.latch (.qualifyDone l) = (s.latch (.qualifyDone l)).occur s.nowNs none

theorem endHeld_spec (l : Link) (passed : Bool) (s : State) :
    RunEnded l passed s (endHeld l passed s)
      ∧ Controls [.qual, .flows, .latches] [.qualifyDone l] [] s (endHeld l passed s)
      ∧ Unpublished s (endHeld l passed s) ∧ (endHeld l passed s).share = s.share
      ∧ (endHeld l passed s).links = s.links ∧ (endHeld l passed s).cfg = s.cfg ∧ (endHeld l passed s).time = s.time := by
  let y : State := { s with
    qual := { s.qual with ctx := s.qual.ctx.set l ((s.ctx l).concluded passed) }, flows := withoutTest l s }
  have hy : Controls [.qual, .flows] [] [] s y := .plain (run_steady s _ _) rfl rfl rfl rfl
  obtain ⟨x, e, hx⟩ := raise_shape (.qualifyDone l) none y
  have hu : endHeld l passed s = raise (.qualifyDone l) none y := rfl
  refine ⟨⟨?_, ?_, ?_, raise_latch_same _ _ _⟩, (hy.mono (by simp) (by simp) (by simp)).trans
    ((controls_raise _ none y).mono (by simp) (by simp) (by simp)),
    Unpublished.trans (t := y) (.plain rfl rfl rfl) (unpublished_raise _ _ _), ?_, ?_, ?_, ?_⟩ <;> rw [hu, hx]

theorem RunEnded.mono {l : Link} {passed : Bool} {s u v : State} (h : RunEnded l passed s u) (hq : v.qual = u.qual)
    (hf : v.flows = u.flows) (hr : v.share.testRate = u.share.testRate)
    (hd : v.latch (.qualifyDone l) = u.latch (.qualifyDone l)) : RunEnded l passed s v :=
  ⟨hq.trans h.ctx, hf.trans h.flows, hr.trans h.rates, hd.trans h.done⟩

/-- The state that an entry into IN_SERVICE leaves beside its link. -/
theorem enterInService_beside {l : Link} {s : State} (h : s.inService l = false) :
    (enterInService l s).qual = s.qual ∧ (enterInService l s).flows = s.flows
      ∧ (enterInService l s).share.testRate = s.share.testRate
      ∧ Controls (computed ++ [.links]) [.capacityChanged, .linkAdmitted l] [] s (enterInService l s) := by
  rw [enterInService_eq_recompute h]
  obtain ⟨d, e, x, hx, _⟩ := recompute_shape (admitting l s)
  obtain ⟨_, _, hshare, hqual, hflows⟩ := enteredAs_links l (admittedUnit l s) (.linkAdmitted l) s
  have hadm : Controls [.links, .latches] [.linkAdmitted l] [] s (admitting l s) := controls_enteredAs l _ _ s
  refine ⟨?_, ?_, ?_, (hadm.mono (by decide) (by simp) (by simp)).trans
    ((controls_recompute _).mono (by decide) (by simp) (by simp))⟩
  · rw [hx]; exact hqual
  · rw [hx]; exact hflows
  · rw [hx]
    show (admitting l s).share.testRate = _
    rw [show (admitting l s).share = s.share from hshare]

/-- Whatever the end of a run leads to for its link, the run is ended. -/
theorem endRun_ended {l : Link} {passed : Bool} {s : State} (h : s.share.testRate.get l = 0) :
    RunEnded l passed s (endRun l passed s)
      ∧ Controls (computed ++ [.qual, .flows, .links])
          [.capacityChanged, .qualifyDone l, .retestFailed l, .linkAdmitted l, .linkBarred l] [] s (endRun l passed s) := by
  obtain ⟨hend, hcon, _, hshare, hlinks, _, _⟩ := endHeld_spec l passed s
  have hwide : Controls (computed ++ [.qual, .flows, .links])
      [.capacityChanged, .qualifyDone l, .retestFailed l, .linkAdmitted l, .linkBarred l] [] s (endHeld l passed s) :=
    hcon.mono (by decide) (by simp) (by simp)
  rw [endRun_eq h]
  split
  · split
    · exact ⟨hend, hwide⟩
    · obtain ⟨x, e, hx⟩ := raise_shape (.retestFailed l) none (endHeld l passed s)
      exact ⟨hend.mono (by rw [hx]) (by rw [hx]) (by rw [hx]) (raise_latch_other _ _ _ _ (by simp)),
        hwide.trans ((controls_raise _ none _).mono (by decide) (by simp) (by simp))⟩
  · split
    · next hq =>
      have hout : (endHeld l passed s).inService l = false := by
        unfold State.inService State.link
        rw [hlinks]
        exact decide_eq_false fun hc => by rw [show (s.links.get l).state = .qualifying from hq] at hc; cases hc
      split
      · obtain ⟨h1, h2, h3, h4⟩ := enterInService_beside hout
        exact ⟨hend.mono h1 h2 h3 (h4.latches _ (by simp)), hwide.trans (h4.mono (by decide) (by simp) (by simp))⟩
      · rw [enterBarred_outside hout]
        obtain ⟨_, _, hsh, h1, h2⟩ := enteredAs_links l (barredUnit .stepFailed ((endHeld l passed s).link l)) (.linkBarred l)
          (endHeld l passed s)
        have h4 := controls_enteredAs l (barredUnit .stepFailed ((endHeld l passed s).link l)) (.linkBarred l)
          (endHeld l passed s)
        exact ⟨hend.mono h1 h2 (by rw [hsh]) (h4.latches _ (by simp)), hwide.trans (h4.mono (by decide) (by simp) (by simp))⟩
    · exact ⟨hend, hwide⟩

/-! ## The event of a phase end (R145) -/

theorem phaseEnd_due {l : Link} {s : State} {x : Instant} {r : StepRecord} {i : Fin 32}
    (hx : (s.ctx l).phaseEnd = some x) (hr : (s.ctx l).step = some r) (hi : (s.ctx l).current = some i)
    (hu : (s.ctx l).underWay = true) (hd : reached s.now x = true) :
    exec (.phaseEnd l) s = .next (event (endPhases l) s) := by
  have hdue : phaseDue l s = true := by
    unfold phaseDue
    simp only [hx, hr, hi, hu, hd, Bool.and_self]
  exact if_pos hdue

theorem phaseEnd_early {l : Link} {s : State} {x : Instant} {r : StepRecord} {i : Fin 32}
    (hx : (s.ctx l).phaseEnd = some x) (hr : (s.ctx l).step = some r) (hi : (s.ctx l).current = some i)
    (hd : reached s.now x = false) : exec (.phaseEnd l) s = .next s := by
  have hdue : phaseDue l s = false := by
    unfold phaseDue
    simp only [hx, hr, hi, hd, Bool.and_false]
  exact if_neg (by simp [hdue])

/-- The event of an operation that controls links and runs: what it leaves, and what it keeps. -/
theorem controls_event {w : List Part} {ls : List Cond} {bs : List BucketId} {f : State → State} {s u : State}
    (hop : f s.begun = u) (hc : Controls w ls bs s.begun u) (hup : Part.linkUp ∈ w → Part.traffic ∈ w := by decide) :
    Departs u (event f s) ∧ LatchesKept ls s (event f s) ∧ Kept w s (event f s) := by
  subst hop
  have hdep : Departs (f s.begun) (event f s) := event_departs f s
  exact ⟨hdep, (latchesKept_of (s := s.begun) hc hdep :), Steady.event hc.steady hc.told hup⟩

/-- RECOVER begun: the context, and the test rate at 0 (R145, R148). -/
theorem toRecover_spec (l : Link) (x : Instant) (r : StepRecord) (s : State) :
    let u := toRecover l x r s
    u.qual = { s.qual with ctx := s.qual.ctx.set l { s.ctx l with
        state := .recover, phaseEnd := some (afterMs x r.recover), gen := .none } }
      ∧ u.flows = s.flows ∧ u.links = s.links ∧ u.cfg = s.cfg ∧ u.time = s.time
      ∧ u.share.testRate = s.share.testRate.set l 0
      ∧ Controls (computed ++ [.qual]) [.capacityChanged] [] s u := by
  let c : Context := { s.ctx l with state := .recover, phaseEnd := some (afterMs x r.recover), gen := .none }
  obtain ⟨h1, h2, h3, h4, h5, h6⟩ := reportTestRate_reads l 0 (s.setCtx l c)
  exact ⟨h1, h4, h2, h3, h5, h6, ((controls_setCtx l c s).mono (by decide) (by simp) (by simp)).trans
    ((controls_reportTestRate l 0 _).mono (by decide) (by simp) (by simp))⟩

/-! ## Verdicts (R150, R151) -/

/-- The result of a step written (R142, R150). -/
def judged (l : Link) (i : Fin 32) (r : StepRecord) (s : State) : State :=
  { s with qual := { s.qual with results := tset s.qual.results i (some (judge l (s.ctx l) r s.nowNs)) } }

theorem controls_judged (l : Link) (i : Fin 32) (r : StepRecord) (s : State) :
    Controls [.qual] [] [] s (judged l i r s) := .plain (qual_steady s _) rfl rfl rfl rfl

theorem verdict_next {l : Link} {i : Fin 32} {r : StepRecord} {s : State} (hp : Passes (s.ctx l) r)
    (hl : (s.ctx l).last ≠ some i) : verdict l i r s = stepStart l (i + 1) (judged l i r s) := by
  have hpass : (judge l (s.ctx l) r s.nowNs).pass = true := (judge_spec l (s.ctx l) r s.nowNs).2.2.2.1.2 hp
  unfold verdict
  dsimp only
  rw [if_pos hpass, if_neg hl] <;> rfl

open Classical in
theorem verdict_end {l : Link} {i : Fin 32} {r : StepRecord} {s : State}
    (h : ¬Passes (s.ctx l) r ∨ (s.ctx l).last = some i) :
    verdict l i r s = endRun l (decide (Passes (s.ctx l) r)) (judged l i r s) := by
  have hiff := (judge_spec l (s.ctx l) r s.nowNs).2.2.2.1
  unfold verdict
  dsimp only
  by_cases hp : Passes (s.ctx l) r
  · rw [if_pos (hiff.2 hp), if_pos (h.resolve_left fun hn => hn hp), decide_eq_true hp] <;> rfl
  · rw [if_neg fun hc => hp (hiff.1 hc), decide_eq_false hp] <;> rfl

/-- At the end of RECOVER a run that fails, or whose last step it was, ends (R150, R151). -/
theorem runPhases_ends {l : Link} {s : State} {x : Instant} {r : StepRecord} {i : Fin 32} (n : Nat)
    (hx : (s.ctx l).phaseEnd = some x) (hr : (s.ctx l).step = some r) (hi : (s.ctx l).current = some i)
    (hst : (s.ctx l).state = .recover) (hd : reached s.now x = true) (hz : s.share.testRate.get l = 0) (passed : Bool)
    (hp : passed = true ↔ Passes (s.ctx l) r) (h : ¬Passes (s.ctx l) r ∨ (s.ctx l).last = some i) :
    runPhases (n + 1) l s = endRun l passed (judged l i r s) := by
  classical
  have hu : (s.ctx l).underWay = true := by
    unfold Context.underWay
    rw [hst] <;> rfl
  have hnext : nextPhase l x r i s = verdict l i r s := by
    unfold nextPhase
    rw [hst]
  have hpass : decide (Passes (s.ctx l) r) = passed := by
    cases passed <;> simpa using hp
  rw [runPhases_due n hx hr hi hu hd, hnext, verdict_end h, hpass]
  obtain ⟨hend, _⟩ := endRun_ended (l := l) (passed := passed) (s := judged l i r s) hz
  refine runPhases_over n ?_
  unfold State.ctx
  rw [hend.ctx, PerLink.get_set_same]
  unfold Context.concluded
  split <;> rfl

/-- The result record and the context that the end of a run leaves (R142, R150, R151). -/
theorem concluded_departs {l : Link} {i : Fin 32} {r : StepRecord} {s a u t : State} {passed : Bool}
    (hend : RunEnded l passed (judged l i r a) u) (hdep : Departs u t) (hlatch : a.latch (.qualifyDone l) = s.latch (.qualifyDone l))
    (hnow : a.nowNs = s.nowNs) (hp : passed = true ↔ Passes (a.ctx l) r) :
    (∃ res, t.qual.results = tset a.qual.results i (some res) ∧ res.link = l ∧ res.runNo = (a.ctx l).runNo
        ∧ res.kind = r.kind ∧ (res.pass = true ↔ Passes (a.ctx l) r) ∧ res.writtenAt = s.nowNs
        ∧ (r.kind ≠ .wait → res.sent = (a.ctx l).sent ∧ res.returned = (a.ctx l).returned ∧ res.loss = (a.ctx l).lossPpm
            ∧ res.minRt = (a.ctx l).minRt ∧ res.maxRt = (a.ctx l).maxRt))
      ∧ t.ctx l.other = a.ctx l.other
      ∧ (Passes (a.ctx l) r → t.ctx l = (a.ctx l).ended .passed (a.ctx l).cause)
      ∧ (¬Passes (a.ctx l) r → t.ctx l = (a.ctx l).ended .failed .stepFailed)
      ∧ t.flows.map withoutLastLink = (withoutTest l a).map withoutLastLink
      ∧ t.latch (.qualifyDone l) = (s.latch (.qualifyDone l)).occur s.nowNs none := by
  have hqual : t.qual = u.qual := hdep.1 .qual rfl
  obtain ⟨j1, j2, j3, j4, j5, j6⟩ := judge_spec l (a.ctx l) r a.nowNs
  have hctx : t.ctx l = (a.ctx l).concluded passed := by
    unfold State.ctx
    rw [hqual, hend.ctx, PerLink.get_set_same] <;> rfl
  refine ⟨⟨judge l (a.ctx l) r a.nowNs, ?_, j1, j2, j3, j4, j5.trans hnow, j6⟩, ?_, fun h => ?_, fun h => ?_, ?_, ?_⟩
  · rw [hqual, hend.ctx] <;> rfl
  · unfold State.ctx
    rw [hqual, hend.ctx, PerLink.get_set_other] <;> rfl
  · rw [hctx, hp.2 h] <;> rfl
  · rw [hctx, Bool.eq_false_iff.2 fun hc => h (hp.1 hc)] <;> rfl
  · rw [show t.flows.map withoutLastLink = _ from hdep.1 .flows rfl, hend.flows] <;> rfl
  · rw [(hdep.1 .latches rfl : ∀ c : Cond, _) _ rfl, hend.done]
    show (a.latch (.qualifyDone l)).occur a.nowNs none = _
    rw [hlatch, hnow]

/-- What the end of a run does to its link (R50, R151), in the event of its verdict. -/
theorem ended_link {l : Link} {i : Fin 32} {r : StepRecord} {s : State} {f : State → State} {passed : Bool}
    (hz : s.share.testRate.get l = 0) (hop : f s.begun = endRun l passed (judged l i r s.begun)) :
    let t := event f s
    (if (s.ctx l).inService = true then
        (passed = false → t.latch (.retestFailed l) = (s.latch (.retestFailed l)).occur s.nowNs none)
        ∧ (passed = true → LatchesKept [.qualifyDone l] s t)
        ∧ LatchesKept [.qualifyDone l, .retestFailed l] s t ∧ Kept [.qual, .flows, .latches] s t
       else (s.link l).state = .qualifying →
        (passed = true → OneComputation s t
          ∧ t.links = s.links.set l { s.link l with
              state := .inService, admitted := true, barCause := .none, holdTimer := none
              supTimer := some ((s.link l).supTimer.getD (afterMs s.now (s.cfg.links.get l).supervision)) }
          ∧ t.latch (.linkAdmitted l) = (s.latch (.linkAdmitted l)).occur s.nowNs none
          ∧ LatchesKept [.qualifyDone l, .linkAdmitted l, .capacityChanged] s t
          ∧ Kept (computed ++ [.qual, .flows, .links]) s t)
        ∧ (passed = false →
          t.links = s.links.set l { s.link l with state := .barred, barCause := .stepFailed, supTimer := none }
          ∧ t.latch (.linkBarred l) = (s.latch (.linkBarred l)).occur s.nowNs none
          ∧ LatchesKept [.qualifyDone l, .linkBarred l] s t ∧ Kept [.qual, .flows, .links, .latches] s t)) := by
  intro t
  let j := judged l i r s.begun
  let y := endHeld l passed j
  obtain ⟨_, hycon, hyp, hyshare, hylinks, hycfg, hytime⟩ := endHeld_spec l passed j
  have hy : Controls [.qual, .flows, .latches] [.qualifyDone l] [] s.begun y :=
    ((controls_judged l i r s.begun).mono (by simp) (by simp) (by simp)).trans hycon
  have hend := endRun_eq (l := l) (passed := passed) (s := j) hz
  have hnow : y.nowNs = s.nowNs := congrArg (fun t : TimeUnit => wholeNs t.elapsed) hytime
  have hylink : y.link l = s.link l := congrArg (fun v : PerLink LinkUnit => v.get l) hylinks
  split
  · next hin =>
    rw [if_pos (show (j.ctx l).inService = true from hin)] at hend
    cases passed with
    | true =>
      have hu := hop.trans (hend.trans (if_pos rfl))
      obtain ⟨_, hlatch, hkept⟩ := controls_event hu hy
      exact ⟨nofun, fun _ => hlatch, fun c hc hd => hlatch c (by simp at hc ⊢; tauto) hd, hkept⟩
    | false =>
      have hu := hop.trans (hend.trans (if_neg (by simp)))
      have hall : Controls [.qual, .flows, .latches] [.qualifyDone l, .retestFailed l] [] s.begun
          (raise (.retestFailed l) none y) :=
        (hy.mono (by simp) (by simp) (by simp)).trans ((controls_raise _ none y).mono (by simp) (by simp) (by simp))
      obtain ⟨hdep, hlatch, hkept⟩ := controls_event hu hall
      refine ⟨fun _ => ?_, nofun, hlatch, hkept⟩
      rw [(hdep.1 .latches rfl : ∀ c : Cond, _) _ rfl, raise_latch_same]
      show (y.latch (.retestFailed l)).occur y.nowNs none = _
      rw [hnow, hy.latches _ (by simp)] <;> rfl
  · next hin =>
    intro hq
    rw [if_neg (show ¬(j.ctx l).inService = true from hin), if_pos (show (j.link l).state = .qualifying from hq)] at hend
    have hout : y.inService l = false := by
      unfold State.inService
      rw [hylink, hq] <;> rfl
    cases passed with
    | true =>
      have hu := hop.trans (hend.trans (if_pos rfl))
      obtain ⟨_, _, _, hadm⟩ := enterInService_beside hout
      have hall : Controls (computed ++ [.qual, .flows, .links]) [.qualifyDone l, .linkAdmitted l, .capacityChanged] []
          s.begun (enterInService l y) :=
        (hy.mono (by decide) (by simp) (by simp)).trans (hadm.mono (by decide) (by simp) (by simp))
      obtain ⟨hdep, hlatch, hkept⟩ := controls_event hu hall
      obtain ⟨hlinks, hone, _, _, _, hadmitted, _⟩ := enterInService_departs hout hdep
      refine ⟨fun _ => ⟨?_, ?_, ?_, hlatch, hkept⟩, nofun⟩
      · have htable : y.share.table = s.share.table := congrArg (fun x => x.table) hyshare
        have hcap : y.latch .capacityChanged = s.latch .capacityChanged := hy.latches _ (by simp)
        unfold OneComputation at hone ⊢
        rw [htable, hcap, hnow] at hone
        exact hone
      · rw [show t.links = _ from hlinks]
        unfold admittedUnit
        rw [hylinks, hylink, hycfg, show y.now = s.now from congrArg TimeUnit.elapsed hytime] <;> rfl
      · rw [show t.latch _ = _ from hadmitted, hnow, hy.latches _ (by simp)] <;> rfl
    | false =>
      have hu := hop.trans (hend.trans ((if_neg (by simp)).trans (enterBarred_outside hout)))
      have hbar := controls_enteredAs l (barredUnit .stepFailed (y.link l)) (.linkBarred l) y
      have hall : Controls [.qual, .flows, .links, .latches] [.qualifyDone l, .linkBarred l] [] s.begun
          (enteredAs l (barredUnit .stepFailed (y.link l)) (.linkBarred l) y) :=
        (hy.mono (by simp) (by simp) (by simp)).trans (hbar.mono (by simp) (by simp) (by simp))
      obtain ⟨hdep, hlatch, hkept⟩ := controls_event hu hall
      refine ⟨nofun, fun _ => ⟨?_, ?_, hlatch, hkept⟩⟩
      · rw [show t.links = _ from hdep.1 .links rfl, (enteredAs_links _ _ _ _).1, hylinks, hylink] <;> rfl
      · rw [(hdep.1 .latches rfl : ∀ c : Cond, _) _ rfl, (enteredAs_spec _ _ _ _).2.1, hnow, hy.latches _ (by simp)] <;> rfl

end Sys2Proof.Machine
end

section
/-!
PROOF. The phases of a step follow each other (R145, R148, R150, R151): O47.
-/

namespace Sys2Proof.Machine

/-- A step that ends and is passed is followed by the next one (R150). -/
theorem phaseEnd_nextStep {l : Link} {s : State} {x : Instant} {r : StepRecord} {i : Fin 32}
    (hx : (s.ctx l).phaseEnd = some x) (hr : (s.ctx l).step = some r) (hi : (s.ctx l).current = some i)
    (hd : reached s.now x = true) (hst : (s.ctx l).state = .recover) (hp : Passes (s.ctx l) r)
    (hl : (s.ctx l).last ≠ some i) (h0 : 0 < (tget s.cfg.steps (i + 1)).settle)
    (h1 : (tget s.cfg.steps (i + 1)).settle ≤ 10000)
    (hcap : (s.ctx l).inService = true → (tget s.cfg.steps (i + 1)).kind = .load →
      (tget s.cfg.steps (i + 1)).rate ≤ s.el l) :
    ∃ t, exec (.phaseEnd l) s = .next t
      ∧ t.ctx l = (s.ctx l).begins (i + 1) (tget s.cfg.steps (i + 1)) s.now
      ∧ t.ctx l.other = s.ctx l.other ∧ t.share.testRate = s.share.testRate.set l (stepRate (tget s.cfg.steps (i + 1)))
      ∧ (∃ res, t.qual.results = tset s.qual.results i (some res) ∧ res.link = l ∧ res.runNo = (s.ctx l).runNo
          ∧ res.kind = r.kind ∧ res.pass = true ∧ res.writtenAt = s.nowNs)
      ∧ LatchesKept [.capacityChanged] s t ∧ Kept (computed ++ [.qual]) s t := by
  have hu : (s.ctx l).underWay = true := by
    unfold Context.underWay
    rw [hst] <;> rfl
  let j := judged l i r s.begun
  let nx := tget s.cfg.steps (i + 1)
  let c := (s.ctx l).begins (i + 1) nx s.now
  let u := reportTestRate l (stepRate nx) (j.setCtx l c)
  obtain ⟨hqual, _, _, _, htime, hrate⟩ := reportTestRate_reads l (stepRate nx) (j.setCtx l c)
  have hstep : stepStart l (i + 1) j = u := stepStart_carried (s := j) hcap
  have hnext : nextPhase l x r i s.begun = u := by
    have hn : nextPhase l x r i s.begun = verdict l i r s.begun := by
      unfold nextPhase
      rw [show (s.begun.ctx l).state = .recover from hst]
    rw [hn, verdict_next (s := s.begun) hp hl]
    exact hstep
  have huctx : u.ctx l = c := by
    unfold State.ctx
    rw [hqual]
    exact setCtx_ctx l c j
  have hop : endPhases l s.begun = u := by
    unfold endPhases
    rw [runPhases_due (s := s.begun) 99 hx hr hi hu hd, hnext]
    refine runPhases_early (x := afterMs s.now nx.settle) 99 (by rw [huctx] <;> rfl) ?_
    unfold State.now
    rw [htime]
    exact reached_afterMs_now _ _ h0 (Nat.le_trans h1 (by omega))
  have hall : Controls (computed ++ [.qual]) [.capacityChanged] [] s.begun u :=
    ((((controls_judged l i r s.begun).trans (controls_setCtx l c j)).mono (by decide) (by simp) (by simp))).trans
      ((controls_reportTestRate l (stepRate nx) _).mono (by decide) (by simp) (by simp))
  obtain ⟨hdep, hlatch, hkept⟩ := controls_event hop hall
  have htqual : (event (endPhases l) s).qual = (j.setCtx l c).qual := (hdep.1 .qual rfl : _ = _).trans hqual
  obtain ⟨j1, j2, j3, j4, j5, _⟩ := judge_spec l (s.ctx l) r s.nowNs
  refine ⟨_, phaseEnd_due hx hr hi hu hd, ctx_departs huctx hdep, ?_, ?_, ⟨judge l (s.ctx l) r s.nowNs, ?_, j1, j2, j3,
    j4.2 hp, j5⟩, hlatch, hkept⟩
  · unfold State.ctx
    rw [htqual]
    exact PerLink.get_set_other _ _ _
  · rw [show (event (endPhases l) s).share = _ from hdep.1 .share rfl, hrate] <;> rfl
  · rw [htqual] <;> rfl

/-- RECOVER of 0 ms: the phase before it ends with the verdict (R145, R150). -/
theorem endPhases_concludes {l : Link} {s : State} {x : Instant} {r : StepRecord} {i : Fin 32}
    (hx : (s.ctx l).phaseEnd = some x) (hr : (s.ctx l).step = some r) (hi : (s.ctx l).current = some i)
    (hst : (s.ctx l).state = .settle ∧ r.kind = .wait ∨ (s.ctx l).state = .measure) (hd : reached s.now x = true)
    (h0 : r.recover = 0) (passed : Bool) (hp : passed = true ↔ Passes (s.ctx l) r)
    (h : ¬Passes (s.ctx l) r ∨ (s.ctx l).last = some i) :
    endPhases l s = endRun l passed (judged l i r (toRecover l x r s)) := by
  have hu : (s.ctx l).underWay = true := by
    unfold Context.underWay
    rcases hst with ⟨h, _⟩ | h <;> rw [h] <;> rfl
  have hnext : nextPhase l x r i s = toRecover l x r s := by
    unfold nextPhase
    rcases hst with ⟨h, hk⟩ | h
    · rw [h]
      exact if_pos hk
    · rw [h]
  obtain ⟨hqual, _, _, _, htime, hrate, _⟩ := toRecover_spec l x r s
  have hctx : (toRecover l x r s).ctx l
      = { s.ctx l with state := .recover, phaseEnd := some (afterMs x r.recover), gen := .none } := by
    unfold State.ctx
    rw [hqual, PerLink.get_set_same] <;> rfl
  unfold endPhases
  rw [runPhases_due 99 hx hr hi hu hd, hnext]
  refine runPhases_ends (x := x) 98 ?_ (by rw [hctx]; exact hr) (by rw [hctx]; exact hi) (by rw [hctx]) ?_ ?_ passed
    (by rw [hctx]; exact hp) (by rw [hctx]; exact h)
  · rw [hctx, h0, afterMs_zero]
  · unfold State.now
    rw [htime]
    exact hd
  · rw [hrate, PerLink.get_set_same]

/-- Settles O47, by the phase that ends. -/
theorem phasesFollowEachOther : Obligations.PhasesFollowEachOther := by
  intro l s x r i hx hr hi
  refine ⟨fun hd => phaseEnd_early hx hr hi hd, fun hd hst hk hm => ?_, fun hd hst hm => ?_, fun hd hst hz => ?_,
    fun hd hst hk h0 hm => ?_, fun hd hst h0 => ?_⟩
  · have hu : (s.ctx l).underWay = true := by
      unfold Context.underWay
      rw [hst] <;> rfl
    have hop := endPhases_toMeasure (s := s.begun) hx hr hi hst hd hk hm
    obtain ⟨hdep, _, hkept⟩ := controls_event hop (controls_setCtx l _ s.begun)
    exact ⟨_, phaseEnd_due hx hr hi hu hd, hkept, hdep.1 .qual rfl⟩
  · have hu : (s.ctx l).underWay = true := by
      unfold Context.underWay
      rcases hst with ⟨h, _⟩ | h <;> rw [h] <;> rfl
    have hop := endPhases_toRecover (s := s.begun) hx hr hi hst hd hm
    obtain ⟨hqual, _, _, _, _, hrate, hcon⟩ := toRecover_spec l x r s.begun
    obtain ⟨hdep, hlatch, hkept⟩ := controls_event hop hcon
    refine ⟨_, phaseEnd_due hx hr hi hu hd, (hdep.1 .qual rfl : _ = _).trans hqual, ?_, ?_⟩
    · rw [show (event (endPhases l) s).share = _ from hdep.1 .share rfl]
      exact hrate
    let y := s.begun.setCtx l
      { s.ctx l with state := .recover, phaseEnd := some (afterMs x r.recover), gen := .none }
    by_cases hc : s.share.testRate.get l ≠ 0 ∧ s.inService l = true
    · rw [if_pos hc]
      have hrec : toRecover l x r s.begun = recompute (rateHeld l 0 y) := reportTestRate_inside (s := y) hc.1 hc.2
      rw [hrec] at hdep
      have hquiet : Quiet s (rateHeld l 0 y) :=
        ⟨rfl, fun _ => rfl, fun b => by cases b <;> exact ⟨rfl, rfl⟩, fun _ => rfl, rfl⟩
      exact ⟨(hquiet.computed hdep).1, hlatch, hkept⟩
    · rw [if_neg hc]
      obtain ⟨hrep, hp⟩ := reportTestRate_unpublished (l := l) (r := 0) (s := y) (by
        by_cases hz : s.share.testRate.get l = 0
        · exact .inr hz
        · exact .inl (Bool.eq_false_iff.2 fun hin => hc ⟨hz, hin⟩))
      have hall : Controls [.qual, .share] [] [] s.begun (toRecover l x r s.begun) :=
        ((controls_setCtx l _ s.begun).mono (by simp) (by simp) (by simp)).trans (hrep.mono (by simp) (by simp) (by simp))
      obtain ⟨_, _, hkept'⟩ := controls_event hop hall
      refine ⟨?_, hkept'⟩
      rw [hdep.unpublished.table]
      exact hp.table
  · intro c loss pass nx
    have hpass : pass ↔ Passes c r := Iff.rfl
    refine ⟨fun hp hl h0 h1 hcap => phaseEnd_nextStep hx hr hi hd hst hp hl h0 h1 hcap, fun hend => ?_⟩
    classical
    have hu : (s.ctx l).underWay = true := by
      unfold Context.underWay
      rw [hst] <;> rfl
    let passed : Bool := decide (Passes (s.ctx l) r)
    have hpd : passed = true ↔ Passes (s.ctx l) r := decide_eq_true_iff
    have hpf : passed = false ↔ ¬Passes (s.ctx l) r := decide_eq_false_iff_not
    have hop : endPhases l s.begun = endRun l passed (judged l i r s.begun) :=
      runPhases_ends (s := s.begun) 99 hx hr hi hst hd hz passed hpd hend
    obtain ⟨hended, hcon⟩ := endRun_ended (l := l) (passed := passed) (s := judged l i r s.begun) hz
    have hdep : Departs (endRun l passed (judged l i r s.begun)) (event (endPhases l) s) := by
      rw [← hop]
      exact event_departs _ _
    obtain ⟨k1, k2, k3, k4, k5, k6⟩ := concluded_departs (s := s) (a := s.begun) hended hdep rfl rfl hpd
    refine ⟨_, phaseEnd_due hx hr hi hu hd, k1, k2, k3, k4, k5, k6, ?_⟩
    have hlink := ended_link hz hop
    split
    · next hin =>
      rw [if_pos hin] at hlink
      obtain ⟨h1, h2, h3, h4⟩ := hlink
      exact ⟨fun hp => h1 (hpf.2 hp), fun hp => h2 (hpd.2 hp), h3, h4⟩
    · next hin =>
      rw [if_neg hin] at hlink
      exact fun hq => ⟨fun hp => (hlink hq).1 (hpd.2 hp), fun hp => (hlink hq).2 (hpf.2 hp)⟩
  · have hu : (s.ctx l).underWay = true := by
      unfold Context.underWay
      rw [hst] <;> rfl
    let y := s.begun.setCtx l { s.ctx l with state := .measure, phaseEnd := some (afterMs x r.measure) }
    have hyctx : y.ctx l = { s.ctx l with state := .measure, phaseEnd := some (afterMs x r.measure) } := setCtx_ctx _ _ _
    have hyend : (y.ctx l).phaseEnd = some x := by
      rw [hyctx, h0, afterMs_zero]
    have hyu : (y.ctx l).underWay = true := by rw [hyctx] <;> rfl
    have hnext1 : nextPhase l x r i s.begun = y := by
      unfold nextPhase
      rw [show (s.begun.ctx l).state = .settle from hst]
      exact if_neg hk
    have hnext2 : nextPhase l x r i y = toRecover l x r y := by
      unfold nextPhase
      rw [hyctx]
    obtain ⟨hqual, _, _, _, htime, hrate, hcon⟩ := toRecover_spec l x r y
    have hop : endPhases l s.begun = toRecover l x r y := by
      unfold endPhases
      rw [runPhases_due (s := s.begun) 99 hx hr hi hu hd, hnext1,
        runPhases_due (s := y) 98 hyend (by rw [hyctx]; exact hr) (by rw [hyctx]; exact hi) hyu hd, hnext2]
      refine runPhases_early (x := afterMs x r.recover) 98 ?_ ?_
      · unfold State.ctx
        rw [hqual, PerLink.get_set_same]
      · unfold State.now
        rw [htime]
        exact hm
    obtain ⟨hdep, _, _⟩ := controls_event hop
      (((controls_setCtx l _ s.begun).mono (by decide) (by simp) (by simp)).trans hcon)
    refine ⟨_, phaseEnd_due hx hr hi hu hd, ?_, ?_⟩
    · rw [show (event (endPhases l) s).qual = _ from hdep.1 .qual rfl, hqual, hyctx]
      show ({ s.qual with ctx := (s.qual.ctx.set l _).set l _ } : Qual) = _
      rw [PerLink.set_set]
    · rw [show (event (endPhases l) s).share = _ from hdep.1 .share rfl, hrate] <;> rfl
  · intro c loss pass hend
    classical
    have hu : (s.ctx l).underWay = true := by
      unfold Context.underWay
      rcases hst with ⟨h, _⟩ | h <;> rw [h] <;> rfl
    let passed : Bool := decide (Passes (s.ctx l) r)
    have hpd : passed = true ↔ Passes (s.ctx l) r := decide_eq_true_iff
    let a := toRecover l x r s.begun
    have hop : endPhases l s.begun = endRun l passed (judged l i r a) :=
      endPhases_concludes (s := s.begun) hx hr hi hst hd h0 passed hpd hend
    obtain ⟨hqual, hflows, _, _, htime, hrate, hacon⟩ := toRecover_spec l x r s.begun
    have hactx : a.ctx l = { s.ctx l with state := .recover, phaseEnd := some (afterMs x r.recover), gen := .none } := by
      show a.qual.ctx.get l = _
      rw [hqual, PerLink.get_set_same] <;> rfl
    have haother : a.ctx l.other = s.ctx l.other := by
      show a.qual.ctx.get l.other = _
      rw [hqual, PerLink.get_set_other] <;> rfl
    have hz : a.share.testRate.get l = 0 := by
      rw [show a.share.testRate = _ from hrate, PerLink.get_set_same]
    obtain ⟨hended, _⟩ := endRun_ended (l := l) (passed := passed) (s := judged l i r a) hz
    have hdep : Departs (endRun l passed (judged l i r a)) (event (endPhases l) s) := by
      rw [← hop]
      exact event_departs _ _
    obtain ⟨⟨res, r1, r2, r3, r4, r5, r6, r7⟩, k2, k3, k4, k5, k6⟩ := concluded_departs (s := s) (a := a) hended hdep
      (hacon.latches _ (by simp)) (congrArg (fun t : TimeUnit => wholeNs t.elapsed) htime) (by rw [hactx]; exact hpd)
    rw [hactx] at r3 r5 r7 k3 k4
    refine ⟨_, phaseEnd_due hx hr hi hu hd, ⟨res, r1.trans ?_, r2, r3, r4, r5, r6, r7⟩, k2.trans haother, ?_, k3, k4,
      k5.trans ?_, k6⟩
    · rw [show a.qual.results = s.qual.results from (congrArg Qual.results hqual).trans rfl]
    · rw [show (event (endPhases l) s).share = _ from hdep.1 .share rfl, hended.rates]
      exact hrate
    · unfold withoutTest
      rw [hactx, show a.flows = s.flows from hflows]

end Sys2Proof.Machine
end

section
/-!
PROOF. Resets that assert reset-out (R160, R176): O51 and O21.
-/

namespace Sys2Proof.Machine

/-! ## What a reset cuts short, and what it keeps (R169, R176) -/

theorem cutErase_beside (job : StoreJob) (s : State) :
    ∃ slots info n, cutErase job s = { s with store := { s.store with slots, info }, freeCount := n } := by
  cases job with
  | eraseSlot k => exact ⟨_, s.store.info, _, rfl⟩
  | eraseInfo => exact ⟨s.store.slots, _, _, rfl⟩
  | saveSlot k b c => exact ⟨s.store.slots, s.store.info, s.freeCount, rfl⟩
  | invalidateSlot k => exact ⟨s.store.slots, s.store.info, s.freeCount, rfl⟩
  | writeInfo a b => exact ⟨s.store.slots, s.store.info, s.freeCount, rfl⟩

theorem cutProgram_beside (job : StoreJob) (total n : Nat) (s : State) :
    ∃ slots info n', cutProgram job total n s = { s with store := { s.store with slots, info }, freeCount := n' } := by
  cases job with
  | eraseSlot k => exact ⟨s.store.slots, s.store.info, s.freeCount, rfl⟩
  | eraseInfo => exact ⟨s.store.slots, s.store.info, s.freeCount, rfl⟩
  | saveSlot k b c => exact ⟨_, s.store.info, _, rfl⟩
  | invalidateSlot k => exact ⟨_, s.store.info, _, rfl⟩
  | writeInfo a b => exact ⟨s.store.slots, _, _, rfl⟩

/-- A reset ends the operation under way: bytes of the store are left, and nothing else of the device is touched. -/
theorem cutOp_beside (s : State) :
    ∃ slots info n, cutOp s = { s with store := { s.store with slots, info, op := none }, freeCount := n } := by
  unfold cutOp
  split
  · next o _ =>
    cases o.phase with
    | erase =>
      obtain ⟨x, z, n, h⟩ := cutErase_beside o.job s
      exact ⟨x, z, n, by simp only [h]; rfl⟩
    | program =>
      obtain ⟨x, z, n, h⟩ := cutProgram_beside o.job o.total (o.done + 1) s
      exact ⟨x, z, n, by simp only [h]; rfl⟩
    | recovery => exact ⟨s.store.slots, s.store.info, s.freeCount, rfl⟩
  · next h => exact ⟨s.store.slots, s.store.info, s.freeCount, by rw [← h]⟩

/-- The page keeps its bytes unless its own erase or program is cut short (R169). -/
theorem cutOp_info {s : State} (h : ∀ o, s.store.op = some o → jobSlot o.job ≠ none ∨ o.phase = .recovery) :
    (cutOp s).store.info = s.store.info := by
  unfold cutOp
  split
  · next o ho =>
    rcases h o ho with hj | hp
    · cases hphase : o.phase <;> cases hjob : o.job <;> first | rfl | exact absurd (by rw [hjob] <;> rfl) hj
    · rw [hp] <;> rfl
  · rfl

theorem mem_cellsWithout (retired : List Nat) (c : Nat) :
    c ∈ cellsWithout retired ↔ c < 8192 ∧ c / 256 ∉ retired := by
  unfold cellsWithout allCells
  rw [List.mem_filter, List.mem_range, Bool.not_eq_true', ← Bool.not_eq_true, List.contains_iff_mem]

/-- A pool that holds every cell of no retired group. -/
theorem mem_free_of_whole {x : Pool} {retired : List Nat} (h : x = { free := cellsWithout retired, retired }) (c : Nat) :
    c ∈ x.free ↔ c < 8192 ∧ c / 256 ∉ x.retired := by
  subst h
  dsimp only
  exact mem_cellsWithout retired c

theorem hardReset_pool (k : ResetKind) (s : State) :
    (hardReset k s).pool = { free := cellsWithout (if k = .powerOn then [] else (cutOp s).pool.retired)
                             retired := if k = .powerOn then [] else (cutOp s).pool.retired } := rfl

/-- What a reset leaves, from any state with the store, the retired groups and the cause record of s. -/
theorem hardReset_after {k : ResetKind} {s y : State} (hstore : y.store = s.store) (hretired : y.pool.retired = s.pool.retired)
    (hcauses : y.startup.causes = s.startup.causes) (hpending : y.pending = s.pending) :
    AfterReset k s (hardReset k y) := by
  obtain ⟨_, _, n, hcut⟩ := cutOp_beside y
  have hret : (hardReset k y).pool.retired = if k = .powerOn then [] else s.pool.retired := by
    show (if k = .powerOn then [] else (cutOp y).pool.retired) = _
    rw [hcut, ← hretired]
  have hslots : ∀ j, tget (hardReset k y).store.slots j = tget (cutOp y).store.slots j := fun _ => rfl
  have hreport : ∀ j, slotReport (hardReset k y).store j = imageReport (tget (cutOp y).store.slots j) := fun _ => rfl
  refine
    { config := rfl, flows := rfl, ports := rfl, queues := rfl, retired := hret, cells := fun c => ?_, tenants := fun i => ?_
      computedAt := ⟨rfl, rfl, rfl, rfl⟩, credits := fun b => ?_, pointers := rfl, links := rfl, time := ⟨rfl, rfl, rfl⟩
      servo := rfl, pulses := fun j => ?_, firing := rfl, runs := fun l => ?_, results := fun i => ?_, latches := fun c => ?_
      notices := rfl, store := ⟨rfl, rfl, rfl⟩, slots := fun j h => ?_, page := fun h => ?_
      slotCut := fun o j hl ho hj hp => ?_, pageCut := fun o hl ho hj hp => ?_, startup := ⟨rfl, rfl, ?_⟩, causes := ?_
      pending := ?_ }
  · exact mem_free_of_whole (hardReset_pool k y) c
  · exact tget_replicate _ _
  · cases b with
    | tenant i =>
      have h : (hardReset k y).bucket (.tenant i) = freshBucket 0 ((tget factoryClasses.tenants i).depth * 8) :=
        Vector.getElem_ofFn _
      rw [h]
      exact ⟨rfl, rfl, rfl⟩
    | timing => exact ⟨rfl, rfl, rfl⟩
    | reflect l => cases l <;> exact ⟨rfl, rfl, rfl⟩
    | pacing l => cases l <;> exact ⟨rfl, rfl, rfl⟩
  · exact tget_replicate _ _
  · cases l <;> exact ⟨rfl, rfl⟩
  · exact tget_replicate _ _
  · exact congrArg Latch.latched (tget_replicate _ _ : tget (Vector.replicate 46 clearLatch) c.idx = clearLatch)
  · rw [hslots, ← hstore]
    exact cutOp_slots (by rw [hstore]; exact h)
  · show (cutOp y).store.info = _
    rw [← hstore]
    exact cutOp_info (by rw [hstore]; exact h)
  · rw [hslots, hreport]
    rw [← hstore] at hl ho
    exact cutOp_slot hl ho hj hp
  · rw [← hstore] at hl ho
    have h := cutOp_page hl ho hj hp
    have hop : (cutOp y).store.op = none := by rw [hcut]
    have hsame : pageReport (hardReset k y).store = pageReport (cutOp y).store := by
      unfold pageReport
      rw [hop] <;> rfl
    exact hsame.trans h
  · show k ∈ (if (cutOp y).startup.held.contains k then (cutOp y).startup.held else (cutOp y).startup.held ++ [k])
    split
    · next h => exact List.contains_iff_mem.1 h
    · exact List.mem_append_right _ (List.mem_singleton_self k)
  · show causesAfter k (cutOp y).startup.causes = _
    rw [hcut, ← hcauses]
    cases k <;> rfl
  · show (cutOp y).pending = _
    rw [hcut, ← hpending]

/-- Settles O51: power-on, a low supply, and a low pin. -/
theorem resetsLeaveThePowerOnState : Obligations.ResetsLeaveThePowerOnState := by
  refine ⟨fun s => ⟨_, rfl, hardReset_after rfl rfl rfl rfl⟩, fun n s => ⟨fun h => ?_, fun h => ?_⟩,
    fun n s => ⟨fun h => ?_, fun h => ?_⟩⟩
  · exact if_neg (show ¬monitorDelayNs ≤ n from Nat.not_le.2 h)
  · exact ⟨_, if_pos h, hardReset_after rfl rfl rfl rfl⟩
  · exact if_neg (show ¬pinLowNs ≤ n from Nat.not_le.2 h)
  · exact ⟨_, if_pos h, hardReset_after rfl rfl rfl rfl⟩

/-! ## RESTART FULL (R160, R176) -/

/-- An event that has called nothing and offers nothing is over. -/
theorem settle_idle {s : State} (h : s.ev = noWork) : settle s = s := by
  have hround : settleRounds 64 s = s := by
    unfold settleRounds
    have hnext : nextServed s = (none, s) := by
      unfold nextServed
      rw [h]
      rfl
    rw [if_neg (by rw [h]; decide), hnext]
  unfold settle
  rw [hround, ← h]

/-- The body of a RESTART that is taken (R160). -/
theorem restartCommand_taken {body : List Field} {n : Nat} {s : State} (hshape : (shapeOf [1, 2]).ok body = true)
    (h1 : num? body 1 = some n) (h2 : num? body 2 = some 0xC3) :
    (n = 1 → restartCommand body s = ({ status := .ok, body := [], after := .full }, s))
      ∧ (n = 2 → restartCommand body s = ({ status := .ok, body := [], after := .traffic }, s)) := by
  have hconf : confirmed body 2 = true := decide_eq_true h2
  unfold restartCommand
  rw [if_pos hshape, h1]
  constructor
  · rintro rfl
    exact if_pos hconf
  · rintro rfl
    exact if_pos hconf

/-- The first field of a RESTART row names what it restarts. -/
theorem num_restartBody (n : Nat) (body : List Field) (hn : n < 256) : num? (restartBody n body) 1 = some n := by
  have hbytes : bytesToNat [BitVec.ofNat 8 n] = n := by
    unfold bytesToNat
    simp [Nat.mod_eq_of_lt hn]
  unfold num? bytes? restartBody
  simp [hbytes]

/-- A request is taken in RUNNING, and in FAULT on SP (R157, R175). -/
def Taken (h : Header) (s : State) : Prop :=
  Accepts h s ∨ s.startup.state = .fault ∧ h.port = .sp ∧ (s.cfg.ports.get h.port).mgmt = true ∧ s.placesTaken h.port < 16

/-- A RESTART that is taken answers OK, and its restart follows in the same event (R160). -/
theorem restart_request {h : Header} {sel : Selector} {body : List Field} {a : After} {s : State} (ht : Taken h s)
    (hk : sel.kind.toNat ≤ 3)
    (hop : restartCommand body s.begun = ({ status := .ok, body := [], after := a }, s.begun)) :
    ∃ r, rowRequest h 4 0x10E sel body (fun _ => restartCommand) s
      = settle (finishRestart a (offerFrame h.port (.response r) s.begun)) := by
  let q : Request := { kind := 4, code := 0x10E, sel, body := some body }
  have hexec : execute h q (fun _ => restartCommand) s.begun
      = finishRestart a (offerFrame h.port (.response (responseTo h q { status := .ok, body := [], after := a } s.begun))
          s.begun) := by
    have hallow : faultAllows q = true := rfl
    simp only [execute, executed, hallow, Bool.not_true, Bool.and_false, Bool.false_eq_true, if_false, perform, q, hk, if_true,
      hop]
  have hgate : gateRequest h true q (fun _ => restartCommand) s.begun = execute h q (fun _ => restartCommand) s.begun := by
    rcases ht with ⟨hrun, hm, hroom⟩ | ⟨hfault, hsp, hm, hroom⟩
    · have hroom' : ¬16 ≤ s.begun.placesTaken h.port := by
        show ¬16 ≤ s.placesTaken h.port
        omega
      simp [gateRequest, hrun, acceptRequest, hm, hroom']
    · have hroom' : ¬16 ≤ s.begun.placesTaken h.port := by
        show ¬16 ≤ s.placesTaken h.port
        omega
      simp only [gateRequest, hfault, hsp, if_true, acceptRequest]
      rw [← hsp]
      simp [hm, hroom']
  exact ⟨_, congrArg settle (hgate.trans hexec)⟩

/-- Settles O21. -/
theorem restartFullResets : Obligations.RestartFullResets := by
  intro h sel body s ha hk hshape hconf
  have hop := (restartCommand_taken (s := s.begun) hshape (num_restartBody 1 body (by decide)) hconf).1 rfl
  obtain ⟨r, hreq⟩ := restart_request (h := h) (.inl ha) hk hop
  let y := offerFrame h.port (.response r) s.begun
  have hy : ∃ q e, y = { s with queues := q, ev := e } := by
    show ∃ q e, (offerLocal h.port (.response r) s.begun).2 = _
    unfold offerLocal
    split
    · exact ⟨_, _, rfl⟩
    · exact ⟨s.queues, noWork, rfl⟩
  obtain ⟨q, e, hy⟩ := hy
  refine ⟨hardReset .restartFull y, ?_, ?_⟩
  · show Host.Outcome.next _ = _
    rw [hreq]
    exact congrArg Host.Outcome.next (settle_idle rfl)
  · rw [hy]
    exact hardReset_after rfl rfl rfl rfl

end Sys2Proof.Machine
end

section
/-!
PROOF. RESTART TRAFFIC (R14, R17, R19, R58, R88, R94, R176): O22.
-/

namespace Sys2Proof.Machine

/-! ## A device with nothing to send -/

theorem tset_tget {α : Type} {n : Nat} (v : Vector α n) (i : Fin n) : tset v i (tget v i) = v := by
  unfold tset tget
  exact Vector.set_getElem_self _

theorem setBucket_self (b : BucketId) (s : State) : s.setBucket b (s.bucket b) = s := by
  unfold State.setBucket State.bucket
  cases b <;> simp only [tset_tget, PerLink.set_get]

/-- Every queue is empty, no notice waits, and every bucket is as of now with no credit to come. -/
structure Hushed (s : State) : Prop where
  outbox : s.ev.outbox = []
  queues : s.queues = emptyQueues
  buckets : ∀ b, (s.bucket b).refresh s.nowNs = s.bucket b

theorem Hushed.called {s : State} (h : Hushed s) (k : PerPort Bool) (n : Nat) :
    Hushed { s with ev := { s.ev with kick := k }, freeCount := n } :=
  ⟨h.outbox, h.queues, fun b => by
    have hb : ({ s with ev := { s.ev with kick := k }, freeCount := n } : State).bucket b = s.bucket b := by cases b <;> rfl
    rw [hb]
    exact h.buckets b⟩

theorem touch_hushed {s : State} (h : Hushed s) (b : BucketId) : touch b s = s := by
  have hc : crossesZero (s.bucket b) ((s.bucket b).refresh s.nowNs) = false := by
    rw [h.buckets]
    unfold crossesZero
    exact decide_eq_false fun hx => by omega
  unfold touch
  simp only [hc, Bool.false_eq_true, if_false]
  rw [h.buckets, setBucket_self]

theorem tget_emptyQueues (i : Tenant) : tget emptyQueues.tenant i = [] := tget_replicate _ _

theorem walk_hushed {l : Link} {s : State} (h : s.queues = emptyQueues) (ts : List Tenant) : walk l ts s = s := by
  have hempty : ∀ t, s.tenantQ t = [] := fun t => by unfold State.tenantQ; rw [h, tget_emptyQueues]
  have hexamine : ∀ t, examine l t s = s := fun t => by
    have hage : ageHeads t (s.tenantQ t) s = s := by
      rw [hempty]
      show s.setTenantQ t [] = s
      rw [← hempty t]
      unfold State.setTenantQ State.tenantQ
      rw [tset_tget]
    unfold examine
    simp only [hage, if_true]
  induction ts with
  | nil => rfl
  | cons t ts ih =>
    unfold walk
    simp only [hexamine, hempty, ih, ite_self]

theorem dropRefused_hushed {l : Link} {s : State} (h : s.queues.test.get l = []) : dropRefused l s = s := by
  unfold dropRefused freeAll
  simp only [h, List.takeWhile_nil, List.dropWhile_nil, List.map_nil, List.flatten_nil, List.nil_append]
  rw [← h, PerLink.set_get]

theorem emptyQueues_get (p : Port) (l : Link) :
    emptyQueues.locals.get p = [] ∧ emptyQueues.down.get p = [] ∧ emptyQueues.test.get l = [] :=
  ⟨PerPort.get_all _ _, PerPort.get_all _ _, by cases l <;> rfl⟩

/-- A port called with nothing to send does nothing. -/
theorem serve_hushed {p : Port} {s : State} (h : Hushed s) :
    serve p s = { s with ev := { s.ev with kick := s.ev.kick.set p false } } := by
  let z : State := { s with ev := { s.ev with kick := s.ev.kick.set p false } }
  have hz : Hushed z := h.called _ _
  obtain ⟨hlocal, hdown, _⟩ := emptyQueues_get p .l0
  have haccess : serveAccess p z = z := by
    have hl : z.localQ p = [] := by unfold State.localQ; rw [hz.queues, hlocal]
    have hd : z.queues.down.get p = [] := by rw [hz.queues, hdown]
    unfold serveAccess
    simp only [hl, hd, ite_self]
  have hback : ∀ l, serveBackhaul l z = z := fun l => by
    have hl : z.localQ (.bh l) = [] := by unfold State.localQ; rw [hz.queues, (emptyQueues_get (.bh l) l).1]
    have ht : z.queues.timing = [] := by rw [hz.queues] <;> rfl
    have htest : z.queues.test.get l = [] := by rw [hz.queues, (emptyQueues_get p l).2.2]
    have hpass : passTestAndTenants l z = z := by
      unfold passTestAndTenants
      simp only [dropRefused_hushed htest, htest]
      exact walk_hushed hz.queues _
    unfold serveBackhaul
    simp only [touch_hushed hz]
    split
    · unfold selectionPass
      simp only [hl, ht, hpass]
    · rfl
  unfold serve
  cases p with
  | bh l => exact hback l
  | sp => exact haccess
  | ap i => exact haccess

theorem settleRounds_hushed (k : Nat) {s : State} (h : Hushed s) :
    ∃ e n, settleRounds k s = { s with ev := e, freeCount := n } := by
  induction k generalizing s with
  | zero => exact ⟨s.ev, s.freeCount, rfl⟩
  | succ k ih =>
    unfold settleRounds
    rw [if_neg (by rw [h.outbox]; decide)]
    have hnext : ∃ q n, nextServed s = (q, { s with freeCount := n }) := by
      unfold nextServed
      split
      · exact ⟨_, s.freeCount, rfl⟩
      · split
        · exact ⟨_, _, rfl⟩
        · split
          · exact ⟨_, s.freeCount, rfl⟩
          · split
            · exact ⟨_, s.freeCount, rfl⟩
            · exact ⟨_, s.freeCount, rfl⟩
    obtain ⟨q, n, hnext⟩ := hnext
    rw [hnext]
    cases q with
    | none => exact ⟨s.ev, n, rfl⟩
    | some p =>
      have hs : Hushed { s with freeCount := n } := h.called s.ev.kick n
      dsimp only
      rw [serve_hushed hs]
      obtain ⟨e, m, he⟩ := ih (hs.called _ _)
      exact ⟨e, m, he⟩

/-- An event that ends with nothing to send is over. -/
theorem settle_hushed {s : State} (h : Hushed s) : ∃ n, settle s = { s with ev := noWork, freeCount := n } := by
  obtain ⟨e, n, he⟩ := settleRounds_hushed 64 h
  refine ⟨n, ?_⟩
  unfold settle
  rw [he]

/-! ## The flush of a RESTART TRAFFIC (R14, R19, R88, R94) -/

/-- The device flushed, its demand counts and buckets zeroed, and the flag added; with the calls of the event so far. -/
def flushed (e : EventWork) (s : State) : State :=
  { s with
    queues := emptyQueues
    pool := { s.pool with free := (s.queues.all.map fun d => d.cells).flatten ++ s.pool.free }
    startup := { s.startup with causes := s.startup.causes ||| causeTraffic }
    sched := (zeroBuckets s).sched
    tenants := s.tenants.map fun u => { u with demandBytes := 0 }
    ev := e }

theorem refresh_zero (t : Ns) (b : Bucket) : (b.zero t).refresh t = b.zero t := by
  have hsum : b.rate * sinceNs t t = 0 := by simp [sinceNs]
  unfold Bucket.refresh Bucket.zero
  simp [hsum]

theorem flushed_bucket (e : EventWork) (s : State) (b : BucketId) :
    (flushed e s).bucket b = (s.bucket b).zero s.nowNs := by
  cases b with
  | tenant i => exact tget_map _ _ _
  | timing => rfl
  | reflect l => cases l <;> rfl
  | pacing l => cases l <;> rfl

theorem flushed_tenant (e : EventWork) (s : State) (i : Tenant) :
    (flushed e s).tenant i = { s.tenant i with demandBytes := 0 } := tget_map _ _ _

theorem flushed_hushed {e : EventWork} {s : State} (h : e.outbox = []) : Hushed (flushed e s) :=
  ⟨h, rfl, fun b => by rw [flushed_bucket]; exact refresh_zero _ _⟩

theorem flushed_writes (e : EventWork) (s : State) : Writes [.traffic, .demand, .reflect, .startup] s (flushed e s) := by
  intro a ha hx
  cases a with
  | rates =>
    intro b
    rw [flushed_bucket]
    exact ⟨rfl, rfl⟩
  | allocation =>
    intro i
    rw [flushed_tenant]
  | tallies =>
    intro i
    rw [flushed_tenant]
    exact ⟨rfl, rfl, rfl⟩
  | traffic => exact absurd (by decide) ha
  | demand => exact absurd (by decide) ha
  | reflect => exact absurd (by decide) ha
  | startup => exact absurd (by decide) ha
  | notice => exact absurd hx (by decide)
  | locals => exact absurd hx (by decide)
  | linkUp => exact fun _ => rfl
  | reception => exact fun _ => rfl
  | counters => exact fun _ _ _ => rfl
  | latches => exact fun _ _ => rfl
  | _ => rfl

theorem flushed_told {e : EventWork} {s : State} (h : e.outbox = []) : Told s.begun (flushed e s) :=
  told_same rfl h rfl (fun p => by
    show emptyQueues.locals.get p <:+ _
    rw [(emptyQueues_get p .l0).1]
    exact List.nil_suffix) fun p f hf => .inl hf

theorem flushed_locals (e : EventWork) (s : State) (q : Port) : (flushed e s).localQ q = [] := (emptyQueues_get q .l0).1

/-- Nothing is sent after a flush but what is being transmitted, and every cell of the queues is free. -/
theorem restarted_of {e : EventWork} {s t : State} {n : Nat} {u : State} (hu : u.queues = emptyQueues) (hp : u.ports = s.ports)
    (hpool : u.pool = (flushed e s).pool) (hten : u.tenants = (flushed e s).tenants) (hsched : u.sched = (flushed e s).sched)
    (hstart : u.startup = (flushed e s).startup) (ht : t = { u with ev := noWork, freeCount := n }) : Restarted s t := by
  subst ht
  have hb : ∀ b, ({ u with ev := noWork, freeCount := n } : State).bucket b = (s.bucket b).zero s.nowNs := fun b => by
    rw [← flushed_bucket e s b]
    cases b <;> (unfold State.bucket; rw [show ({ u with ev := noWork, freeCount := n } : State).sched = _ from hsched])
  have hi : ∀ i, ({ u with ev := noWork, freeCount := n } : State).tenant i = { s.tenant i with demandBytes := 0 } := fun i => by
    rw [← flushed_tenant e s i]
    unfold State.tenant
    rw [show ({ u with ev := noWork, freeCount := n } : State).tenants = _ from hten]
  refine ⟨hu, fun p => ?_, fun d c hd hc => ?_, fun c hc => ?_, fun i => ?_, fun b => ?_, ?_, ?_⟩
  · show (u.ports.get p).tx = _
    rw [hp] <;> rfl
  · show c ∈ u.pool.free
    rw [hpool]
    exact List.mem_append_left _ (List.mem_flatten.2 ⟨_, List.mem_map.2 ⟨d, hd, rfl⟩, hc⟩)
  · show c ∈ u.pool.free
    rw [hpool]
    exact List.mem_append_right _ hc
  · rw [hi]
    exact ⟨rfl, rfl⟩
  · rw [hb]
    exact ⟨rfl, rfl, rfl⟩
  · show u.sched.pointer = _
    rw [hsched] <;> rfl
  · exact hstart

/-! ## The request (R160) -/

/-- The restart that follows the response of a RESTART TRAFFIC. -/
theorem restartTraffic_flushed {y s : State} {e : EventWork} {x : PerPort (List LocalFrame)}
    (hy : y = { s with queues := { s.queues with locals := x }, ev := e }) :
    restartTraffic y = if s.startup.state = .fault then flushed e s
      else kickBackhaul (rerun (qualifyingRuns s) (abortRuns (startWindow (flushed e s)))) := by
  subst hy
  rfl

/-- A RESTART TRAFFIC is an event of its flush and what follows it. -/
theorem restartTraffic_request {h : Header} {sel : Selector} {body : List Field} {s : State} (ht : Taken h s)
    (hk : sel.kind.toNat ≤ 3) (hshape : (shapeOf [1, 2]).ok (restartBody 2 body) = true)
    (hconf : num? (restartBody 2 body) 2 = some 0xC3) :
    ∃ e f, e.outbox = [] ∧ exec (.restartTraffic h sel body) s = .next (event f s)
      ∧ f s.begun = if s.startup.state = .fault then flushed e s
          else kickBackhaul (rerun (qualifyingRuns s) (abortRuns (startWindow (flushed e s)))) := by
  have hop := (restartCommand_taken (s := s.begun) hshape (num_restartBody 2 body (by decide)) hconf).2 rfl
  obtain ⟨r, hreq⟩ := restart_request ht hk hop
  have hy : ∃ x e, e.outbox = [] ∧ offerFrame h.port (.response r) s.begun
      = { s with queues := { s.queues with locals := x }, ev := e } := by
    unfold offerFrame offerLocal
    split
    · exact ⟨_, _, rfl, rfl⟩
    · exact ⟨s.queues.locals, noWork, rfl, rfl⟩
  obtain ⟨x, e, he, hy⟩ := hy
  exact ⟨e, fun b => finishRestart .traffic (offerFrame h.port (.response r) b), he,
    congrArg Host.Outcome.next hreq, restartTraffic_flushed hy⟩

/-- The device of a RESTART TRAFFIC in RUNNING, before its runs are aborted (R70). -/
def restarting (e : EventWork) (s : State) : State := startWindow (flushed e s)

theorem restarting_writes (e : EventWork) (s : State) :
    Writes [.traffic, .demand, .share, .reflect, .startup] s (restarting e s) :=
  ((flushed_writes e s).mono (by simp)).trans ((share_steady (flushed e s) _).writes.mono (by simp))

theorem restarting_told {e : EventWork} {s : State} (h : e.outbox = []) : Told s.begun (restarting e s) :=
  (flushed_told h).trans (told_quiet rfl rfl rfl rfl rfl)

theorem kickBackhaul_departs (s : State) : Departs s (kickBackhaul s) :=
  ⟨fun a ha => (kickBackhaul_steady s).kept a (by simp) ha, TrafficKept.of_eq rfl (fun _ => rfl) rfl⟩

/-- The event of a RESTART TRAFFIC whose runs leave a state u. -/
theorem restart_event {w : List Part} {ls : List Cond} {bs : List BucketId} {e : EventWork} {f : State → State} {s u : State}
    (he : e.outbox = []) (hop : f s.begun = kickBackhaul u) (hc : Controls w ls bs (restarting e s) u) :
    Departs u (event f s) ∧ LatchesKept ls s (event f s)
      ∧ Kept ([.traffic, .demand, .share, .reflect, .startup] ++ w) s (event f s) := by
  have hall : Controls w ls bs (restarting e s) (kickBackhaul u) :=
    hc.trans ((controls_kickBackhaul u).mono (by simp) (by simp) (by simp))
  have hlocals : ∀ q, (kickBackhaul u).localQ q = [] := fun q => by
    unfold State.localQ
    rw [hall.steady.queues]
    exact (emptyQueues_get q .l0).1
  obtain ⟨hkept, hdep⟩ := event_writes (w := [.traffic, .demand, .share, .reflect, .startup] ++ w) hop
    (((restarting_writes e s).mono (by simp)).trans (hall.steady.writes.mono (by simp +contextual)))
    ((restarting_told he).trans hall.told) (fun q => by rw [hlocals]; exact List.nil_suffix) (fun q g ⟨x, hx, hi⟩ => by
      rw [hall.steady.tx] at hx
      exact ⟨x, hx, hi⟩) (by simp)
  refine ⟨(kickBackhaul_departs u).trans hdep, fun c hn hd => ?_, hkept⟩
  exact ((hdep.1 .latches rfl : ∀ c : Cond, _) c hd).trans (hall.latches c hn)

/-- The runs of the device when the run of one link is under way (R58, R152). -/
theorem abortRuns_one {l : Link} {s : State} (hrun : (s.ctx l).underWay = true) (hidle : (s.ctx l.other).underWay = false) :
    abortRuns s = abortRun l .restart s := by
  obtain ⟨⟨hqual, _⟩, _⟩ := abortRun_under (cause := .restart) hrun
  have hother : ((abortRun l .restart s).ctx l.other).underWay = false := by
    unfold State.ctx
    rw [hqual, PerLink.get_set_other]
    exact hidle
  unfold abortRuns
  cases l with
  | l0 => exact abortRun_idle hother
  | l1 => rw [abortRun_idle (show (s.ctx .l0).underWay = false from hidle)]

theorem qualifyingRuns_one {l : Link} {s : State} (hidle : (s.ctx l.other).underWay = false) :
    qualifyingRuns s = if (s.link l).state = .qualifying ∧ (s.ctx l).underWay = true then [l] else [] := by
  unfold qualifyingRuns
  cases l with
  | l0 =>
    have h1 : (s.ctx .l1).underWay = false := hidle
    simp [h1, List.filter_cons]
  | l1 =>
    have h0 : (s.ctx .l0).underWay = false := hidle
    simp [h0, List.filter_cons]

theorem Hushed.of_same {s u : State} (h : Hushed s) (ho : u.ev.outbox = s.ev.outbox) (hq : u.queues = s.queues)
    (hs : u.sched = s.sched) (ht : u.time = s.time) : Hushed u :=
  ⟨ho.trans h.outbox, hq.trans h.queues, fun b => by
    have hb : u.bucket b = s.bucket b := by cases b <;> (unfold State.bucket; rw [hs])
    have hn : u.nowNs = s.nowNs := congrArg (fun t : TimeUnit => wholeNs t.elapsed) ht
    rw [hb, hn]
    exact h.buckets b⟩

theorem restarting_hushed {e : EventWork} {s : State} (h : e.outbox = []) : Hushed (restarting e s) :=
  (flushed_hushed h).of_same rfl rfl rfl rfl

theorem restart_traffic_taken {h : Header} {s : State} (ha : Accepts h s) : ¬s.startup.state = .fault := by
  rw [ha.1]
  decide

/-- A RESTART TRAFFIC that aborts an in-service run (R58, R152). -/
theorem restart_inService {e : EventWork} {f : State → State} {s : State} {l : Link} (he : e.outbox = [])
    (hrun : (s.ctx l).underWay = true) (hidle : (s.ctx l.other).underWay = false) (hst : (s.link l).state = .inService)
    (hop : f s.begun = kickBackhaul (rerun (qualifyingRuns s) (abortRuns (restarting e s)))) :
    let t := event f s
    Aborted l .restart s t ∧ t.links = s.links
      ∧ (∀ i, t.tenantQ i = []) ∧ t.queues.timing = [] ∧ (∀ k, t.queues.test.get k = [])
      ∧ (if s.share.testRate.get l = 0 then t.share.table = s.share.table else OneComputation s t)
      ∧ LatchesKept [.capacityChanged] s t
      ∧ Kept (computed ++ [.traffic, .demand, .reflect, .startup, .qual, .flows, .locals]) s t := by
  intro t
  let z := restarting e s
  let u := abortRun l .restart z
  have hin : z.inService l = true := decide_eq_true hst
  have hu : f s.begun = kickBackhaul u := by
    rw [hop, qualifyingRuns_one hidle, if_neg (by rw [hst]; simp), abortRuns_one (s := z) hrun hidle] <;> rfl
  have hcon := controls_abortRun l .restart z
  obtain ⟨hdep, hlatch, hkept⟩ := restart_event he hu hcon
  obtain ⟨hab, _, hshare⟩ := abortRun_under (cause := .restart) (s := z) hrun
  have hq : u.queues = emptyQueues := hcon.steady.queues
  refine ⟨Aborted.departs (s := s) hab hdep, (hdep.1 .links rfl : _ = _).trans (hcon.steady.kept .links (by decide) rfl),
    fun i => ?_, ?_, fun k => ?_, ?_, hlatch, hkept.mono (by decide)⟩
  · refine List.suffix_nil.1 ?_
    have h := hdep.2.tenant i
    unfold State.tenantQ at h
    rw [hq, tget_emptyQueues] at h
    exact h
  · refine List.suffix_nil.1 ?_
    have h := hdep.2.timing
    rw [hq] at h
    exact h
  · refine List.suffix_nil.1 ?_
    have h := hdep.2.test k
    rw [hq, (emptyQueues_get .sp k).2.2] at h
    exact h
  · by_cases hz : s.share.testRate.get l = 0
    · rw [if_pos hz, hdep.unpublished.table, ((abortRun_unpublished (cause := .restart) (s := z) (.inr hz)).2).table] <;> rfl
    · rw [if_neg hz]
      have hcomp : u = recompute (rateHeld l 0 (abortHeld l .restart z)) :=
        (abortRun_eq (s := z) hrun).trans (reportTestRate_inside (s := abortHeld l .restart z) hz hin)
      have hquiet : Quiet s (rateHeld l 0 (abortHeld l .restart z)) := by
        refine ⟨rfl, fun i => ?_, fun b => ?_, fun _ => rfl, rfl⟩
        · show ((flushed e s).tenant i).allocation = _
          rw [flushed_tenant]
        · have hb : (rateHeld l 0 (abortHeld l .restart z)).bucket b = (flushed e s).bucket b := by cases b <;> rfl
          rw [hb, flushed_bucket]
          exact ⟨rfl, rfl⟩
      rw [hcomp] at hdep
      exact (hquiet.computed hdep).1

/-- A RESTART TRAFFIC that requests the QUALIFYING link's run again (R58). -/
theorem restart_reruns {e : EventWork} {f : State → State} {s : State} {l : Link} {first last : Fin 32} {n : Nat}
    (he : e.outbox = []) (hrun : (s.ctx l).underWay = true) (hidle : (s.ctx l.other).underWay = false)
    (hst : (s.link l).state = .qualifying) (hs : Startable l s.cfg (withoutTest l s) first last n)
    (h0 : 0 < (tget s.cfg.steps first).settle) (h1 : (tget s.cfg.steps first).settle ≤ 10000)
    (hop : f s.begun = kickBackhaul (rerun (qualifyingRuns s) (abortRuns (restarting e s)))) :
    let t := event f s
    t.ctx l = startedContext l s.cfg (s.ctx l) s.now false first last n ∧ t.ctx l.other = s.ctx l.other
      ∧ t.flows.map withoutLastLink
          = (placeEntry n (testEntry (testKeyOf l s.cfg)) (withoutTest l s)).map withoutLastLink
      ∧ t.share.testRate = s.share.testRate.set l (stepRate (tget s.cfg.steps first))
      ∧ t.share.table = s.share.table ∧ t.mgmt = s.mgmt
      ∧ Kept [.traffic, .demand, .share, .reflect, .startup, .qual, .flows] s t := by
  intro t
  let z := restarting e s
  let a := rateHeld l 0 (abortHeld l .restart z)
  have hout : z.inService l = false := by
    show decide ((s.link l).state = .inService) = false
    rw [hst] <;> rfl
  have ha : abortRuns z = a := (abortRuns_one (s := z) hrun hidle).trans ((abortRun_eq (s := z) hrun).trans
    (reportTestRate_outside (s := abortHeld l .restart z) hout))
  let u := rateHeld l (stepRate (tget s.cfg.steps first)) (startedHeld l first last n a)
  have hstart : startRun l a = u := (startRun_settles (s := a) hs h0 h1 fun h => absurd h (by
    show ¬z.inService l = true
    simp [hout])).trans (reportTestRate_outside (s := startedHeld l first last n a) hout)
  have hu : f s.begun = kickBackhaul u := by
    rw [hop, qualifyingRuns_one hidle, if_pos ⟨hst, hrun⟩, show abortRuns (restarting e s) = a from ha]
    exact congrArg kickBackhaul hstart
  have hcon : Controls [.share, .qual, .flows] [] [] z u :=
    ((((controls_abortHeld l .restart z).mono (by simp) (by simp) (by simp)).trans
      ((controls_rateHeld l 0 _).mono (by simp) (by simp) (by simp))).trans
      ((controls_startedHeld l first last n a).mono (by simp) (by simp) (by simp))).trans
      ((controls_rateHeld l _ _).mono (by simp) (by simp) (by simp))
  obtain ⟨hdep, _, hkept⟩ := restart_event he hu hcon
  have hhush : Hushed (kickBackhaul u) := (restarting_hushed (s := s) he).of_same rfl rfl rfl rfl
  obtain ⟨m, hm⟩ := settle_hushed hhush
  have ht : t = { kickBackhaul u with ev := noWork, freeCount := m } := by
    show settle (f s.begun) = _
    rw [hu, hm]
  have hctx : a.ctx l = (s.ctx l).abortedBy .restart := PerLink.get_set_same _ _ _
  have haother : a.ctx l.other = s.ctx l.other := PerLink.get_set_other _ _ _
  refine ⟨?_, ?_, ?_, ?_, ?_, ?_, hkept.mono (by simp)⟩
  · rw [ht]
    refine (startedHeld_ctx l first last n a).trans ?_
    rw [hctx, show a.inService l = false from hout] <;> rfl
  · rw [ht]
    exact (PerLink.get_set_other _ _ _).trans haother
  · rw [ht] <;> rfl
  · rw [ht]
    exact PerLink.set_set _ _ _ _
  · rw [ht] <;> rfl
  · rw [ht] <;> rfl

/-- A RESTART TRAFFIC whose new run is refused (R58, R143). -/
theorem restart_refused {e : EventWork} {f : State → State} {s : State} {l : Link} {cause : Cause}
    (he : e.outbox = []) (hrun : (s.ctx l).underWay = true) (hidle : (s.ctx l.other).underWay = false)
    (hst : (s.link l).state = .qualifying) (hs : startRefusal l s.cfg (withoutTest l s) = some cause)
    (hop : f s.begun = kickBackhaul (rerun (qualifyingRuns s) (abortRuns (restarting e s)))) :
    let t := event f s
    (t.ctx l).state = .failed ∧ (t.ctx l).cause = cause ∧ (t.ctx l).runNo = (s.ctx l).runNo + 1
      ∧ t.links = s.links.set l { s.link l with state := .barred, barCause := cause, supTimer := none }
      ∧ t.latch (.linkBarred l) = (s.latch (.linkBarred l)).occur s.nowNs none ∧ LatchesKept [.linkBarred l] s t := by
  intro t
  let z := restarting e s
  let a := rateHeld l 0 (abortHeld l .restart z)
  have hout : z.inService l = false := by
    show decide ((s.link l).state = .inService) = false
    rw [hst] <;> rfl
  have ha : abortRuns z = a := (abortRuns_one (s := z) hrun hidle).trans ((abortRun_eq (s := z) hrun).trans
    (reportTestRate_outside (s := abortHeld l .restart z) hout))
  let y := refusedHeld l cause a
  let u := enteredAs l (barredUnit cause (s.link l)) (.linkBarred l) y
  have hu : f s.begun = kickBackhaul u := by
    rw [hop, qualifyingRuns_one hidle, if_pos ⟨hst, hrun⟩, show abortRuns (restarting e s) = a from ha]
    exact congrArg kickBackhaul (startRun_barred (s := a) hst hs)
  have hcon : Controls [.share, .qual, .flows, .links, .latches] [.linkBarred l] [] z u :=
    ((((controls_abortHeld l .restart z).mono (by simp) (by simp) (by simp)).trans
      ((controls_rateHeld l 0 _).mono (by simp) (by simp) (by simp))).trans
      ((controls_refusedHeld l cause a).mono (by simp) (by simp) (by simp))).trans
      ((controls_enteredAs l _ _ y).mono (by simp) (by simp) (by simp))
  obtain ⟨hdep, hlatch, _⟩ := restart_event he hu hcon
  obtain ⟨hlinks, _, _, hqual, _⟩ := enteredAs_links l (barredUnit cause (s.link l)) (.linkBarred l) y
  have hctx : t.ctx l = refusedContext (a.ctx l) (a.inService l) cause := by
    unfold State.ctx
    rw [show t.qual = _ from hdep.1 .qual rfl, hqual]
    exact PerLink.get_set_same _ _ _
  have hactx : a.ctx l = (s.ctx l).abortedBy .restart := PerLink.get_set_same _ _ _
  refine ⟨by rw [hctx] <;> rfl, by rw [hctx] <;> rfl, by rw [hctx, hactx] <;> rfl, ?_, ?_, hlatch⟩
  · rw [show t.links = _ from hdep.1 .links rfl, hlinks] <;> rfl
  · rw [(hdep.1 .latches rfl : ∀ c : Cond, _) _ rfl, (enteredAs_spec _ _ _ _).2.1] <;> rfl

/-- Settles O22: no run under way, in FAULT, and one run under way. -/
theorem restartTrafficFlushes : Obligations.RestartTrafficFlushes := by
  refine ⟨fun h sel body s ha hk hshape hconf hidle => ?_, fun h sel body s hfault hsp hm hroom hk hshape hconf => ?_,
    fun h sel body s l ha hk hshape hconf hrun hidle => ?_⟩
  · obtain ⟨e, f, he, hexec, hop⟩ := restartTraffic_request (.inl ha) hk hshape hconf
    rw [if_neg (restart_traffic_taken ha)] at hop
    have hu : f s.begun = kickBackhaul (restarting e s) := by
      have hab : abortRuns (restarting e s) = restarting e s := by
        unfold abortRuns
        rw [abortRun_idle (s := restarting e s) (hidle .l0), abortRun_idle (s := restarting e s) (hidle .l1)]
      rw [hop, qualifyingRuns_one (l := .l0) (hidle .l1), if_neg (by rw [hidle .l0]; simp),
        show abortRuns (startWindow (flushed e s)) = _ from hab] <;> rfl
    obtain ⟨_, _, hkept⟩ := restart_event he hu (Controls.refl [] [] [] (restarting e s))
    obtain ⟨n, hn⟩ := settle_hushed ((restarting_hushed he).of_same (u := kickBackhaul (restarting e s)) rfl rfl rfl rfl)
    have ht : event f s = { kickBackhaul (restarting e s) with ev := noWork, freeCount := n } := by
      show settle (f s.begun) = _
      rw [hu, hn]
    refine ⟨_, hexec, restarted_of (e := e) (u := kickBackhaul (restarting e s)) rfl rfl rfl rfl rfl rfl ht, ?_, ?_,
      hkept.mono (by simp)⟩
    · rw [ht] <;> rfl
    · rw [ht] <;> rfl
  · obtain ⟨e, f, he, hexec, hop⟩ := restartTraffic_request (.inr ⟨hfault, hsp, hm, hroom⟩) hk hshape hconf
    rw [if_pos hfault] at hop
    obtain ⟨n, hn⟩ := settle_hushed (flushed_hushed (s := s) he)
    have ht : event f s = { flushed e s with ev := noWork, freeCount := n } := by
      show settle (f s.begun) = _
      rw [hop, hn]
    refine ⟨_, hexec, restarted_of (e := e) (u := flushed e s) rfl rfl rfl rfl rfl rfl ht, by rw [ht] <;> rfl, ?_⟩
    exact (event_writes hop (flushed_writes e s) (flushed_told he)
      (fun q => by rw [flushed_locals]; exact List.nil_suffix) (fun q g hx => hx)).1
  · obtain ⟨e, f, he, hexec, hop⟩ := restartTraffic_request (.inl ha) hk hshape hconf
    rw [if_neg (restart_traffic_taken ha)] at hop
    exact ⟨fun hst => ⟨_, hexec, restart_inService he hrun hidle hst hop⟩,
      fun first last n hst hs h0 h1 => ⟨_, hexec, restart_reruns he hrun hidle hst hs h0 h1 hop⟩,
      fun cause hst hs => ⟨_, hexec, restart_refused he hrun hidle hst hs hop⟩⟩

end Sys2Proof.Machine
end

section
/-!
PROOF. PROFILE writes (R37, R40, R46, R148): O11.
-/

namespace Sys2Proof.Machine

/-- A profile entry written, and the condition of an index that it makes unknown, before the report (R37, R46). -/
def profiled (l : Link) (i : Fin 16) (p : Profile) (s : State) : State :=
  if losesProfile l i p s then raise (.profileUnknown l) none (setProfile l i p s) else setProfile l i p s

theorem controls_cfg (s : State) (c : Classes) : Controls [.config] [] [] s { s with cfg := c } :=
  .plain (cfg_steady s c) rfl rfl rfl rfl

theorem controls_profiled (l : Link) (i : Fin 16) (p : Profile) (s : State) :
    Controls [.config, .latches] [.profileUnknown l] [] s (profiled l i p s) := by
  have hset : Controls [.config, .latches] [.profileUnknown l] [] s (setProfile l i p s) :=
    (controls_cfg s _).mono (by simp) (by simp) (by simp)
  unfold profiled
  split
  · exact hset.trans ((controls_raise _ _ _).mono (by simp) (by simp) (by simp))
  · exact hset

theorem profiled_reads (l : Link) (i : Fin 16) (p : Profile) (s : State) :
    (profiled l i p s).cfg = (setProfile l i p s).cfg ∧ Unpublished s (profiled l i p s)
      ∧ (profiled l i p s).latch (.profileUnknown l)
          = (if losesProfile l i p s = true then (s.latch (.profileUnknown l)).occur s.nowNs none
             else s.latch (.profileUnknown l)) := by
  have hset : Unpublished s (setProfile l i p s) := .plain rfl rfl rfl
  unfold profiled
  split
  · exact ⟨(raise_steady _ _ _).kept .config (by decide) rfl, hset.trans (unpublished_raise _ _ _), raise_latch_same _ _ _⟩
  · exact ⟨rfl, hset, rfl⟩

theorem profileClassWrite_named {sel : Selector} {body : List Field} {s : State} {l : Link} {i : Fin 16}
    (hl : selProfile sel = some (l, i)) (hok : profileWriteOk body = true) (hs : saveRuns s = false) :
    profileClassWrite sel body s
      = okay (profileItems l i) (reportLink l (s.el l) (s.inService l)
          (profiled l i (profileWritten body (tget (s.cfg.profiles.get l) i)) s)) := by
  simp only [profileClassWrite, hl, checked_passes hok hs]
  rfl

/-- The capacity check of an event whose operation ends with a report finds the run that the report has aborted, or the
report has computed at most. -/
theorem reportLink_checks {l : Link} {el0 : Nat} {svc0 : Bool} {v t : State}
    (hdep : Departs (reportLink l el0 svc0 v) t) :
    (t.el l ≠ el0 ∧ v.inService l = true ∧ overCapacity l v →
      (t.ctx l).state = .aborted ∧ (t.ctx l).cause = .capacity ∧ t.share.testRate.get l = 0)
    ∧ (¬(t.el l ≠ el0 ∧ v.inService l = true ∧ overCapacity l v) → Steady computed v (reportLink l el0 svc0 v)) := by
  have hel : t.el l = v.el l := (hdep.el l).1.trans ((controls_reportLink l el0 svc0 v).el l).1
  rw [hel]
  rcases reportLink_cases l el0 svc0 v with ⟨hsame, h⟩ | ⟨_, hno, h⟩ | ⟨hyes, h⟩
  · rw [h]
    exact ⟨fun hx => absurd hsame.1 hx.1, fun _ => Steady.refl _ _⟩
  · rw [h]
    exact ⟨fun hx => absurd hx hno, fun _ => (controls_reportComputed l el0 v).steady⟩
  · refine ⟨fun _ => ?_, fun hx => absurd hyes hx⟩
    rw [h] at hdep
    have hctx : (reportComputed l el0 v).ctx l = v.ctx l := by
      unfold State.ctx
      rw [(controls_reportComputed l el0 v).steady.kept .qual (by decide) rfl]
    obtain ⟨_, _, r, _, _, _, hst, _⟩ := hyes
    have hrun : ((reportComputed l el0 v).ctx l).underWay = true := by
      rw [hctx]
      exact decide_eq_true (hst.imp_right .inl)
    obtain ⟨⟨hqual, _, hzero, _⟩, _⟩ := abortRun_under (cause := .capacity) hrun
    have htctx : t.ctx l = _ :=
      (congrArg (fun q : Qual => q.ctx.get l) ((hdep.1 .qual rfl : _ = _).trans hqual)).trans (PerLink.get_set_same _ _ _)
    exact ⟨by rw [htctx], by rw [htctx], by rw [show t.share = _ from hdep.1 .share rfl]; exact hzero⟩

/-- Settles O11: the write is a report of the link on its new profile entry. -/
theorem profileWriteReportsTheLink : Obligations.ProfileWriteReportsTheLink := by
  intro h sel body s l i ha hl hok hs p
  have hop := profileClassWrite_named (s := s.begun) hl hok hs
  let v := profiled l i p s.begun
  have hv : Controls [.config, .latches] [.profileUnknown l] [] s.begun v := controls_profiled l i p s.begun
  obtain ⟨hcfg, hunpub, hlatch⟩ := profiled_reads l i p s.begun
  have hctl := controls_reportLink l (s.begun.el l) (s.begun.inService l) v
  have hall : Controls (computed ++ [.config, .flows, .qual]) [.capacityChanged, .profileUnknown l] [.pacing l] s.begun
      (reportLink l (s.begun.el l) (s.begun.inService l) v) :=
    (hv.mono (by decide) (by simp) (by simp)).trans (hctl.mono (by decide) (by simp) (by simp))
  obtain ⟨hdep, hans, hkept⟩ := Steady.request (op := profileClassWrite) (kind := 2) (code := 7) ha (selProfile_kind hl)
    hop hall.told hall.steady
  refine ⟨_, rfl, ?_, hans, ?_, latchesKept_of (s := s.begun) hall hdep, ?_, ?_⟩
  · rw [hdep.1 .config rfl, hctl.steady.kept .config (by decide) rfl, hcfg]
    rfl
  · exact (latch_reported (by simp) rfl hdep).trans hlatch
  · exact Reported.departs (s := s) (reportLink_reports (s := s.begun) hunpub) hdep
  · have hin : v.inService l = s.inService l := by
      unfold State.inService State.link
      rw [hv.steady.kept .links (by decide) rfl]
    have hctx : v.ctx l = s.ctx l := by
      unfold State.ctx
      rw [hv.steady.kept .qual (by decide) rfl]
    have hvel : v.el l = _ := (((hdep.el l).1.trans (hctl.el l).1)).symm
    obtain ⟨haborts, hcalls⟩ := reportLink_checks hdep
    have hcalm : Steady computed v (reportLink l (s.begun.el l) (s.begun.inService l) v) →
        Kept (computed ++ [.locals, .config]) s _ := fun hst => by
      obtain ⟨_, _, hk⟩ := Steady.request (op := profileClassWrite) (kind := 2) (code := 7) ha (selProfile_kind hl)
        hop hall.told ((hv.steady.mono (v := .config :: computed) (by decide)).trans (hst.mono (by decide)))
      exact hk.mono (by decide)
    have hover : ∀ r, (s.ctx l).step = some r → (overCapacity l v ↔ (s.ctx l).inService = true ∧ r.kind = .load
        ∧ ((s.ctx l).state = .settle ∨ (s.ctx l).state = .measure) ∧ v.el l < r.rate) := fun r hr => by
      unfold overCapacity
      rw [hctx, hr]
      exact ⟨fun ⟨r', hr', h⟩ => by cases hr'; exact h, fun h => ⟨r, rfl, h⟩⟩
    rw [hin] at haborts hcalls
    split
    · next r hr =>
      rw [hover r hr, hvel] at haborts hcalls
      split
      · next hif =>
        obtain ⟨h1, h2, h3⟩ := haborts hif
        exact ⟨h1, h2, h3, hkept.mono (by decide)⟩
      · next hif => exact hcalm (hcalls hif)
    · next hr =>
      refine hcalm (hcalls ?_)
      rintro ⟨_, _, r', hr', _⟩
      rw [hctx, hr] at hr'
      cases hr'

end Sys2Proof.Machine
end

section
/-!
PROOF. FLOW writes and deletes, and the report of a link's REFLECT presence (R24 to R26, R31): O5, O6.
-/

namespace Sys2Proof.Machine

/-! ## The report of a link's REFLECT presence (R31, R72) -/

/-- A link's REFLECT presence held. -/
def presentHeld (l : Link) (p : Bool) (s : State) : State :=
  { s with share := { s.share with reflectPresent := s.share.reflectPresent.set l p } }

theorem reportReflect_same {l : Link} {p : Bool} {s : State} (h : s.share.reflectPresent.get l = p) :
    reportReflect l p s = s := if_pos h

theorem reportReflect_outside {l : Link} {p : Bool} {s : State} (h : s.share.reflectPresent.get l ≠ p)
    (hin : s.inService l = false) : reportReflect l p s = presentHeld l p s := by
  unfold reportReflect
  simp only [if_neg h, hin]
  rfl

theorem reportReflect_inside {l : Link} {p : Bool} {s : State} (h : s.share.reflectPresent.get l ≠ p)
    (hin : s.inService l = true) : reportReflect l p s = recompute (presentHeld l p s) := by
  unfold reportReflect
  simp only [if_neg h, hin]
  rfl

theorem controls_reportReflect (l : Link) (p : Bool) (s : State) :
    Controls computed [.capacityChanged] [] s (reportReflect l p s) := by
  have hheld : Controls computed [.capacityChanged] [] s (presentHeld l p s) :=
    (Controls.plain (t := presentHeld l p s) (share_steady s _) rfl rfl rfl rfl).mono (by decide) (by simp) (by simp)
  by_cases h : s.share.reflectPresent.get l = p
  · rw [reportReflect_same h]; exact Controls.refl _ _ _ _
  · cases hin : s.inService l with
    | true => rw [reportReflect_inside h hin]; exact hheld.trans (controls_recompute _)
    | false => rw [reportReflect_outside h hin]; exact hheld

/-- What a report leaves: the presence is held, and of the Flow Table and the Share Calculator's other inputs nothing is
written. -/
theorem reportReflect_reads (l : Link) (p : Bool) (s : State) :
    (reportReflect l p s).flows = s.flows
      ∧ (reportReflect l p s).share = { s.share with
          reflectPresent := s.share.reflectPresent.set l p, table := (reportReflect l p s).share.table } := by
  by_cases h : s.share.reflectPresent.get l = p
  · rw [reportReflect_same h, ← h, PerLink.set_get]
    exact ⟨rfl, rfl⟩
  · cases hin : s.inService l with
    | true =>
      rw [reportReflect_inside h hin]
      obtain ⟨d, e, x, hs, _⟩ := recompute_shape (presentHeld l p s)
      rw [hs]
      exact ⟨rfl, rfl⟩
    | false =>
      rw [reportReflect_outside h hin]
      exact ⟨rfl, rfl⟩

/-- The presence that the Flow Table shows of a link. -/
def shown (l : Link) (t : List (Nat × FlowEntry)) : Bool := decide (0 < reflectCount l t)

theorem reportReflects_eq (s : State) :
    reportReflects s = reportReflect .l1 (shown .l1 s.flows) (reportReflect .l0 (shown .l0 s.flows) s) := by
  unfold reportReflects
  dsimp only
  rw [(reportReflect_reads .l0 (decide (0 < reflectCount .l0 s.flows)) s).1]
  rfl

theorem controls_reportReflects (s : State) : Controls computed [.capacityChanged] [] s (reportReflects s) :=
  (controls_reportReflect .l0 _ _).trans (controls_reportReflect .l1 _ _)

theorem reportReflects_reads (s : State) :
    (reportReflects s).flows = s.flows
      ∧ (reportReflects s).share = { s.share with
          reflectPresent := { l0 := shown .l0 s.flows, l1 := shown .l1 s.flows }, table := (reportReflects s).share.table } := by
  rw [reportReflects_eq]
  obtain ⟨hf0, hs0⟩ := reportReflect_reads .l0 (shown .l0 s.flows) s
  obtain ⟨hf1, hs1⟩ := reportReflect_reads .l1 (shown .l1 s.flows) (reportReflect .l0 (shown .l0 s.flows) s)
  refine ⟨hf1.trans hf0, hs1.trans ?_⟩
  rw [hs0] <;> rfl

theorem reportReflects_present (s : State) (l : Link) :
    (reportReflects s).share.reflectPresent.get l = shown l s.flows := by
  rw [(reportReflects_reads s).2]
  cases l <;> rfl

/-- Without a change of either presence nothing is reported. -/
theorem reportReflects_same {s : State} (h : ∀ l, s.share.reflectPresent.get l = shown l s.flows) : reportReflects s = s := by
  rw [reportReflects_eq, reportReflect_same (h .l0), reportReflect_same (h .l1)]

/-- A change on one IN_SERVICE link alone is one computation. -/
theorem reportReflects_one {s : State} {l : Link} (h : s.share.reflectPresent.get l ≠ shown l s.flows)
    (ho : s.share.reflectPresent.get l.other = shown l.other s.flows) (hin : s.inService l = true) :
    reportReflects s = recompute (presentHeld l (shown l s.flows) s) := by
  rw [reportReflects_eq]
  cases l with
  | l0 =>
    rw [reportReflect_inside h hin]
    refine reportReflect_same ?_
    obtain ⟨d, e, x, hs, _⟩ := recompute_shape (presentHeld .l0 (shown .l0 s.flows) s)
    rw [hs]
    exact ho
  | l1 =>
    have h0 : reportReflect .l0 (shown .l0 s.flows) s = s := reportReflect_same ho
    rw [h0]
    exact reportReflect_inside h hin

/-! ## Requests that write the Flow Table -/

theorem reflectCount_withoutLastLink (l : Link) (t : List (Nat × FlowEntry)) :
    reflectCount l (t.map withoutLastLink) = reflectCount l t := by
  unfold reflectCount
  rw [List.filter_map, List.length_map]
  rfl

theorem shown_congr {t u : List (Nat × FlowEntry)} (h : t.map withoutLastLink = u.map withoutLastLink) (l : Link) :
    shown l t = shown l u := by
  unfold shown
  rw [← reflectCount_withoutLastLink, h, reflectCount_withoutLastLink]

/-- An accepted request that replaces the Flow Table reports what it changes of the REFLECT presences (R31). -/
theorem request_flows {h : Header} {kind code : Nat} {sel : Selector} {body : List Field} {op : Operation} {s : State}
    {items : List Item} {f : List (Nat × FlowEntry)} (ha : Accepts h s) (hk : sel.kind.toNat ≤ 3)
    (hop : op sel body s.begun = ({ status := .ok, body := items, after := .nothing }, setFlows f s.begun)) :
    let t := rowRequest h kind code sel body op s
    t.flows.map withoutLastLink = f.map withoutLastLink ∧ ReflectReported s t ∧ Kept (computed ++ [.locals, .flows]) s t
      ∧ AnsweredWith h kind code sel .ok items s t := by
  intro t
  let u : State := { s.begun with flows := f }
  have hplaced : Controls [.flows] [] [] s.begun u := .plain (flows_steady s.begun f) rfl rfl rfl rfl
  have hctl := controls_reportReflects u
  obtain ⟨hflows, hshare⟩ := reportReflects_reads u
  have hall : Controls (computed ++ [.flows]) [.capacityChanged] [] s.begun (reportReflects u) :=
    (hplaced.mono (by decide) (by simp) (by simp)).trans (hctl.mono (by decide) (by simp) (by simp))
  have hstore : (reportReflects u).store = s.store := hall.steady.kept .store (by decide) rfl
  obtain ⟨hdep, hans, hkept⟩ := Steady.requestWith (kind := kind) (code := code) ha hk hop hall.told hall.steady
    (hst := congrArg _ hstore)
  have hflows' : t.flows.map withoutLastLink = f.map withoutLastLink :=
    (hdep.1 .flows rfl : _ = _).trans (congrArg _ hflows)
  have hpresent : ∀ l, t.share.reflectPresent.get l = shown l f := fun l => by
    rw [show t.share = _ from hdep.1 .share rfl]
    exact reportReflects_present u l
  refine ⟨hflows', ⟨fun l => (hpresent l).trans (shown_congr hflows' l).symm, fun hsame => ?_, fun l hne ho hin => ?_⟩,
    hkept.mono (by decide), hans⟩
  · have hnone : reportReflects u = u := reportReflects_same fun l => (hsame l).symm.trans (hpresent l)
    obtain ⟨_, _, hk'⟩ := Steady.requestWith (kind := kind) (code := code) ha hk
      (hop.trans (congrArg (Prod.mk _) hnone)) hplaced.told hplaced.steady
    exact hk'
  · rw [hpresent] at hne ho
    have hone : reportReflects u = recompute (presentHeld l (shown l f) u) :=
      reportReflects_one (s := u) (Ne.symm hne) ho.symm hin
    have hquiet : Quiet s (presentHeld l (shown l f) u) :=
      ⟨rfl, fun _ => rfl, fun b => by cases b <;> exact ⟨rfl, rfl⟩, fun _ => rfl, rfl⟩
    have hdep' : Departs (recompute (presentHeld l (shown l f) u)) t := by
      rw [← hone]
      exact hdep
    exact (hquiet.computed hdep').1

/-! ## FLOW writes (R24, R25) -/

theorem flowWriteSpec_kind {sel : Selector} {body : List Field} {s : State} {x : FlowSpec}
    (h : flowWriteSpec sel body s = some x) : sel.kind.toNat ≤ 3 := by
  unfold flowWriteSpec at h
  split at h
  · next k hk => exact selFlow_kind hk
  · cases h

theorem flowClassWrite_named {sel : Selector} {body : List Field} {s : State} {x : FlowSpec}
    (h : flowWriteSpec sel body s = some x) (hs : saveRuns s = false) : flowClassWrite sel body s = placeFlow x s := by
  unfold flowClassWrite
  rw [h]
  exact checked_passes rfl hs _

/-- Settles O5, by what holds the key and which slot is free. -/
theorem flowWritePlacesOrReplaces : Obligations.FlowWritePlacesOrReplaces := by
  intro h sel body s x ha hx hs
  have hk := flowWriteSpec_kind hx
  have hop : flowClassWrite sel body s.begun = placeFlow x s.begun := flowClassWrite_named (s := s.begun) hx hs
  refine ⟨_, rfl, ?_⟩
  unfold placeFlow at hop
  cases hfind : findKey x.key s.flows with
  | none =>
    rw [show findKey x.key s.begun.flows = none from hfind] at hop
    dsimp only at hop
    cases hfree : lowestFree s.flows with
    | none =>
      rw [show lowestFree s.begun.flows = none from hfree] at hop
      exact request_unchanged (op := flowClassWrite) ha hk hop
    | some n =>
      rw [show lowestFree s.begun.flows = some n from hfree] at hop
      obtain ⟨h1, h2, h3, h4⟩ := request_flows (op := flowClassWrite) (kind := 2) (code := 2) ha hk hop
      exact ⟨h1, h2, h3, _, h4⟩
  | some y =>
    obtain ⟨n, e⟩ := y
    rw [show findKey x.key s.begun.flows = some (n, e) from hfind] at hop
    dsimp only at hop ⊢
    by_cases htest : e.owner = .test
    · rw [if_pos htest] at hop ⊢
      exact request_unchanged (op := flowClassWrite) ha hk hop
    · rw [if_neg htest] at hop ⊢
      obtain ⟨h1, h2, h3, h4⟩ := request_flows (op := flowClassWrite) (kind := 2) (code := 2) ha hk hop
      exact ⟨h1, h2, h3, _, h4⟩

/-! ## FLOW deletes (R26) -/

/-- A request in whose selector the kind is out of range is answered INVALID_VALUE, and changes nothing (R158, R161). -/
theorem request_badKind {h : Header} {kind code : Nat} {sel : Selector} {body : List Field} {op : Operation} {s : State}
    (ha : Accepts h s) (hk : ¬sel.kind.toNat ≤ 3) :
    Kept [.locals] s (rowRequest h kind code sel body op s)
      ∧ AnsweredWith h kind code sel .invalidValue [] s (rowRequest h kind code sel body op s) := by
  obtain ⟨hrun, hm, hroom⟩ := ha
  let r := responseTo h { kind, code, sel, body := some body } { status := .invalidValue, body := [], after := .nothing }
    s.begun
  have hrow : rowRequest h kind code sel body op s = settle (offerFrame h.port (.response r) s.begun) := by
    unfold rowRequest event gateRequest
    have hroom' : ¬16 ≤ s.begun.placesTaken h.port := by
      show ¬16 ≤ s.placesTaken h.port
      omega
    simp [hrun, acceptRequest, hm, hroom', execute, executed, perform, hk, refuse, finishRestart, r]
  obtain ⟨hoff, _, locals, ev, hshape, _⟩ := offerFrame_response (r := r) (u := s.begun) hroom rfl rfl
  obtain ⟨hnotice, hlocals⟩ := told_event (s1 := s.begun) (Told.refl _) (fun _ => List.suffix_refl _) (fun _ _ h => h)
    (offered_local (fun _ _ => True) h.port (.response r) s.begun (fun _ => trivial)) (by
      show (offerFrame h.port (.response r) s.begun).mgmt = _
      rw [hshape]) hoff
  have hdep : Departs s.begun (settle (offerFrame h.port (.response r) s.begun)) :=
    (offerLocal_departs _ _ _).trans (settle_departs _)
  rw [hrow]
  refine ⟨fun a hw => ?_, r, rfl, rfl, rfl, rfl, rfl, rfl, rfl, rfl, rfl, hlocals, fun hup => ?_⟩
  · by_cases hn : a = .notice
    · rw [hn]; exact hnotice
    · exact (ev_steady s noWork).departs hdep (by decide) a (by simpa [hn] using hw)
  · refine (settle_departs _).answered ?_
    rw [hoff, if_pos ⟨rfl, hup⟩]
    simp

/-- Settles O6: the name, then the entry that it names, and its owner. -/
theorem flowDeleteFreesTheSlot : Obligations.FlowDeleteFreesTheSlot := by
  intro h sel body s ha
  refine ⟨fun n hn hok hs => ⟨_, rfl, ?_⟩, fun hn => ⟨_, rfl, ?_⟩, fun n hn hok hs => ⟨_, rfl, ?_⟩⟩
  · have hk := selFlow_kind hn
    have hop : flowClassDelete sel body s.begun = deleteFlow n s.begun := by
      simp only [flowClassDelete, hn]
      exact checked_passes (s := s.begun) hok hs _
    unfold deleteFlow at hop
    cases hnamed : namedFlow n s with
    | none =>
      rw [show namedFlow n s.begun = none from hnamed] at hop
      exact request_answers (op := flowClassDelete) ha hk hop
    | some y =>
      obtain ⟨k, e⟩ := y
      rw [show namedFlow n s.begun = some (k, e) from hnamed] at hop
      dsimp only at hop ⊢
      by_cases htest : e.owner = .test
      · rw [if_pos htest] at hop ⊢
        exact request_answers (op := flowClassDelete) ha hk hop
      · rw [if_neg htest] at hop ⊢
        exact request_flows (op := flowClassDelete) (kind := 3) (code := 2) ha hk hop
  · by_cases hk : sel.kind.toNat ≤ 3
    · have hop : flowClassDelete sel body s.begun = refuse .invalidValue s.begun := by simp only [flowClassDelete, hn]
      exact request_answers (op := flowClassDelete) ha hk hop
    · exact request_badKind ha hk
  · have hop : flowClassDelete sel body s.begun = refuse .busy s.begun := by
      simp only [flowClassDelete, hn]
      exact checked_saving (s := s.begun) hok hs _
    exact request_answers (op := flowClassDelete) ha (selFlow_kind hn) hop

end Sys2Proof.Machine
end

section
/-!
PROOF. LOAD_SLOT (R33, R58, R152, R172): O20.
-/

namespace Sys2Proof.Machine

/-! ## The classes replaced (R33, R86, R87, R172) -/

/-- The depths taken from the running classes: the buckets of the tenants given get their depths, and the rates stay. -/
theorem setDepths_spec (ts : List Tenant) (s : State) :
    let u := ts.foldl (fun s t => setDepth t (s.tenantCfg t).depth s) s
    (∃ d e, u = { s with sched := d, ev := e }) ∧ Steady [.rates] s u ∧ Told s u
      ∧ (∀ b, (u.bucket b).rate = (s.bucket b).rate)
      ∧ ∀ i, (u.bucket (.tenant i)).depth
          = if i ∈ ts then (s.tenantCfg i).depth * 8 else (s.bucket (.tenant i)).depth := by
  induction ts generalizing s with
  | nil => exact ⟨⟨_, _, rfl⟩, Steady.refl _ _, Told.refl _, fun _ => rfl, fun _ => rfl⟩
  | cons t ts ih =>
    obtain ⟨⟨d, e, hu⟩, hsteady, htold, hrate, hdepth⟩ := ih (setDepth t (s.tenantCfg t).depth s)
    obtain ⟨d1, e1, h1, hrate1, hdepth1⟩ := setDepth_shape t (s.tenantCfg t).depth s
    have hcfg : ∀ i, (setDepth t (s.tenantCfg t).depth s).tenantCfg i = s.tenantCfg i := fun i => by
      rw [h1] <;> rfl
    refine ⟨⟨d, e, ?_⟩, (setDepth_steady t _ s).trans hsteady, (told_setDepth t _ s).trans htold,
      fun b => (hrate b).trans (hrate1 b), fun i => ?_⟩
    · rw [List.foldl_cons, hu, h1]
    · rw [List.foldl_cons, hdepth, hcfg, hdepth1]
      by_cases hi : i = t
      · subst hi
        simp
      · simp [hi]

/-- What LOAD_SLOT makes of a state: every class and the management content of the Flow Table are the body's, and the
depths and the reflect rates are those of the classes. -/
structure Replaced (b : SlotBody) (s r : State) : Prop where
  steady : Steady [.config, .flows, .rates, .reflect] s r
  told : Told s r
  shape : ∃ d e, r = { s with cfg := b.classes, flows := loadedFlows b.flows, sched := d, ev := e }
  depth : ∀ i, (r.bucket (.tenant i)).depth = (tget b.classes.tenants i).depth * 8
  rate : ∀ l, (r.bucket (.reflect l)).rate = (b.classes.links.get l).reflectAllowance

theorem Replaced.kicked {b : SlotBody} {s r : State} (h : Replaced b s r) : Replaced b s (kickBackhaul r) := by
  obtain ⟨d, e, hr⟩ := h.shape
  refine ⟨h.steady.trans ((kickBackhaul_steady r).mono (by simp)), h.told.trans (told_kickBackhaul r), ⟨d, ?_⟩,
    fun i => h.depth i, fun l => h.rate l⟩
  rw [hr]
  exact ⟨_, rfl⟩

theorem replaced_classes (b : SlotBody) (s : State) : Replaced b s (replaceClasses b s) := by
  let p : State := { s with cfg := b.classes, flows := loadedFlows b.flows }
  have hfold := setDepths_spec (List.finRange 8) p
  have heq : applyBuckets p = (fun v : State => setRate (.reflect .l1) v.cfg.links.l1.reflectAllowance
      (setRate (.reflect .l0) v.cfg.links.l0.reflectAllowance v))
      ((List.finRange 8).foldl (fun s t => setDepth t (s.tenantCfg t).depth s) p) := rfl
  generalize (List.finRange 8).foldl (fun s t => setDepth t (s.tenantCfg t).depth s) p = v at hfold heq
  dsimp only at hfold heq
  obtain ⟨⟨d, e, hv⟩, hsteady, htold, _, hdepth⟩ := hfold
  obtain ⟨d0, e0, h0, hrate0, hdepth0⟩ := setRate_shape (.reflect .l0) v.cfg.links.l0.reflectAllowance v
  have hsteady0 := setRate_steady' (.reflect .l0) v.cfg.links.l0.reflectAllowance v
  have htold0 := told_setRate (.reflect .l0) v.cfg.links.l0.reflectAllowance v
  generalize setRate (.reflect .l0) v.cfg.links.l0.reflectAllowance v = w at heq h0 hrate0 hdepth0 hsteady0 htold0
  obtain ⟨d1, e1, h1, hrate1, hdepth1⟩ := setRate_shape (.reflect .l1) v.cfg.links.l1.reflectAllowance w
  have hcfg : v.cfg = b.classes := congrArg State.cfg hv
  have hp : Steady [.config, .flows] s p :=
    ((cfg_steady s _).mono (by simp)).trans ((flows_steady { s with cfg := b.classes } _).mono (by simp))
  have happlied : Replaced b s (applyBuckets p) := by
    rw [heq]
    refine ⟨((hp.mono (by simp)).trans (hsteady.mono (by simp))).trans
        ((hsteady0.mono (by simp)).trans ((setRate_steady' (.reflect .l1) _ w).mono (by simp))),
      ((told_quiet rfl rfl rfl rfl rfl : Told s p).trans htold).trans (htold0.trans (told_setRate _ _ _)),
      ⟨d1, e1, ?_⟩, fun i => ?_, fun l => ?_⟩
    · rw [h1, h0, hv]
    · refine ((hdepth1 _).trans (hdepth0 _)).trans ((hdepth i).trans ?_)
      rw [if_pos (List.mem_finRange i)] <;> rfl
    · refine (hrate1 (.reflect l)).trans ?_
      cases l with
      | l0 =>
        rw [if_neg (by simp)]
        refine (hrate0 (.reflect .l0)).trans ?_
        rw [if_pos rfl, hcfg] <;> rfl
      | l1 =>
        rw [if_pos rfl, hcfg] <;> rfl
  unfold replaceClasses
  dsimp only
  split
  · exact happlied.kicked
  · exact happlied

theorem loadedFlows_withoutLastLink (t : List (Nat × FlowSpec)) :
    (loadedFlows t).map withoutLastLink = loadedFlows t := by
  unfold loadedFlows
  rw [List.map_map]
  rfl

/-- A loaded Flow Table holds no TEST entry. -/
theorem withoutTest_loaded {t : List (Nat × FlowSpec)} {l : Link} {s : State} (h : s.flows = loadedFlows t) :
    withoutTest l s = loadedFlows t := by
  unfold withoutTest
  rw [h, List.filter_eq_self]
  intro y hy
  obtain ⟨x, _, rfl⟩ := List.mem_map.1 hy
  simp [newEntry]

/-! ## Link Control at a load (R40, R46, R58) -/

/-- What an operation that computes at most leaves of the Flow Table, the runs and the Share Calculator's inputs. -/
structure Beside (s t : State) : Prop where
  flows : t.flows = s.flows
  share : t.share = { s.share with table := t.share.table }
  qual : t.qual = s.qual
  links : t.links = s.links
  cfg : t.cfg = s.cfg
  time : t.time = s.time

theorem Beside.refl (s : State) : Beside s s := ⟨rfl, rfl, rfl, rfl, rfl, rfl⟩

theorem Beside.trans {s t u : State} (h : Beside s t) (k : Beside t u) : Beside s u :=
  ⟨k.flows.trans h.flows, k.share.trans (by rw [h.share]), k.qual.trans h.qual, k.links.trans h.links, k.cfg.trans h.cfg,
    k.time.trans h.time⟩

theorem beside_raise (c : Cond) (d : Option Nat) (s : State) : Beside s (raise c d s) := by
  obtain ⟨x, e, h⟩ := raise_shape c d s
  rw [h]
  exact ⟨rfl, rfl, rfl, rfl, rfl, rfl⟩

theorem beside_recompute (s : State) : Beside s (recompute s) := by
  obtain ⟨d, e, x, h, _⟩ := recompute_shape s
  rw [h]
  exact ⟨rfl, rfl, rfl, rfl, rfl, rfl⟩

theorem beside_reportComputed (l : Link) (el0 : Nat) (s : State) : Beside s (reportComputed l el0 s) := by
  unfold reportComputed
  split
  · exact beside_recompute s
  · refine Beside.trans (t := setRate (.pacing l) (s.el l) s) ?_ (beside_recompute _)
    obtain ⟨d, e, h, _⟩ := setRate_shape (.pacing l) (s.el l) s
    rw [h]
    exact ⟨rfl, rfl, rfl, rfl, rfl, rfl⟩

/-- Link Control applies the loaded tables of a link with no run under way. -/
theorem applyLink_idle (l : Link) (el0 : Nat) {s : State} (h : (s.ctx l).underWay = false) :
    Controls computed [.capacityChanged, .profileUnknown l] [.pacing l] s (applyLink l el0 s) ∧ Beside s (applyLink l el0 s) := by
  have hraise : Controls computed [.capacityChanged, .profileUnknown l] [.pacing l] s (raiseIfUnknown l s)
      ∧ Beside s (raiseIfUnknown l s) := by
    unfold raiseIfUnknown
    dsimp only
    split
    · exact ⟨(controls_raise _ _ s).mono (by decide) (by simp) (by simp), beside_raise _ _ _⟩
    · exact ⟨Controls.refl _ _ _ _, Beside.refl _⟩
  obtain ⟨hc, hb⟩ := hraise
  have hidle : ((raiseIfUnknown l s).ctx l).underWay = false := by
    unfold State.ctx
    rw [hb.qual]
    exact h
  unfold applyLink
  dsimp only
  by_cases hsame : (raiseIfUnknown l s).el l = el0 ∧ (raiseIfUnknown l s).inService l = (raiseIfUnknown l s).inService l
  · rw [reportLink_same hsame]
    exact ⟨hc, hb⟩
  · rw [reportLink_quiet hsame (.inr hidle)]
    exact ⟨hc.trans ((controls_reportComputed l el0 _).mono (by simp) (by simp) (by simp)),
      hb.trans (beside_reportComputed l el0 _)⟩

/-- Both links with no run under way. -/
theorem applyLinks_idle (el0 el1 : Nat) {s : State} (h : ∀ l, (s.ctx l).underWay = false) :
    let t := applyLink .l1 el1 (applyLink .l0 el0 s)
    Controls computed [.capacityChanged, .profileUnknown .l0, .profileUnknown .l1] [.pacing .l0, .pacing .l1] s t
      ∧ Beside s t := by
  intro t
  obtain ⟨hc0, hb0⟩ := applyLink_idle .l0 el0 (h .l0)
  obtain ⟨hc1, hb1⟩ := applyLink_idle .l1 el1 (s := applyLink .l0 el0 s) (by
    unfold State.ctx
    rw [hb0.qual]
    exact h .l1)
  exact ⟨(hc0.mono (by simp) (by simp) (by simp)).trans (hc1.mono (by simp) (by simp) (by simp)), hb0.trans hb1⟩

/-! ## The request (R172) -/

/-- A LOAD_SLOT of a slot that loads is taken. -/
structure LoadTaken (h : Header) (sel : Selector) (body : List Field) (s : State) (k : Fin 4) (b : SlotBody) : Prop where
  accepts : Accepts h s
  kind : sel.kind.toNat ≤ 3
  slot : commandSlot body = some k
  idle : s.store.op = none
  valid : slotReport s.store k = .valid
  body : (tget s.store.slots k).body = some b
  law : shareLaw b.classes.tenants b.classes.sets = true

/-- The state that a LOAD_SLOT loads into: the carried times are held. -/
def loadStart (body : List Field) (s : State) : State :=
  { s.begun with store := { s.store with times := timesWritten body s.store.times } }

/-- What a LOAD_SLOT leaves, with site time not valid, of a state y in which Link Control has applied the tables. -/
theorem load_request {w : List Part} {ls : List Cond} {bs : List BucketId} {h : Header} {sel : Selector}
    {body : List Field} {s y : State} {k : Fin 4} {b : SlotBody} (ht : LoadTaken h sel body s k b)
    (hval : s.time.valid = false)
    (hy : rerun (qualifyingRuns (loadStart body s)) (applyLink .l1 ((loadStart body s).el .l1)
        (applyLink .l0 ((loadStart body s).el .l0) (abortRuns (replaceClasses b (loadStart body s))))) = y)
    (hc : Controls w ls bs (replaceClasses b (loadStart body s)) y) (hcfg : Part.config ∉ w := by decide)
    (hstore : Part.store ∉ w := by decide) (htime : Part.time ∉ w := by decide) (hup : Part.linkUp ∉ w := by decide)
    (hbs : ∀ l, BucketId.reflect l ∉ bs := by simp) :
    ∃ t, exec (.loadSlot h sel body) s = .next t ∧ t.cfg = b.classes ∧ Computed t
      ∧ t.flows.map withoutLastLink = y.flows.map withoutLastLink ∧ t.links = y.links ∧ t.qual = y.qual
      ∧ t.share.testRate = y.share.testRate
      ∧ (∀ l, t.share.reflectPresent.get l = shown l t.flows)
      ∧ (∀ i, (t.bucket (.tenant i)).depth = (tget b.classes.tenants i).depth * 8)
      ∧ (∀ l, (t.bucket (.reflect l)).rate = (b.classes.links.get l).reflectAllowance)
      ∧ t.store = { s.store with times := timesWritten body s.store.times }
      ∧ Kept (computed ++ [.locals, .config, .flows, .reflect, .store] ++ w) s t ∧ Answered h 4 0x10A sel .ok s t := by
  let a := loadStart body s
  let r := replaceClasses b a
  let u := recompute (reportReflects y)
  have hr : Replaced b a r := replaced_classes b a
  obtain ⟨d, e, hshape⟩ := hr.shape
  have hctl : Controls computed [.capacityChanged] [] y u := (controls_reportReflects y).trans (controls_recompute _)
  obtain ⟨hyflows, hyshare⟩ := reportReflects_reads y
  have hbeside := beside_recompute (reportReflects y)
  have hucfg : u.cfg = b.classes := by
    rw [hctl.steady.kept .config (by decide) rfl, hc.steady.kept .config hcfg rfl, show replaceClasses b (loadStart body s) = _ from hshape]
  have hutime : u.time = s.time := by
    rw [hctl.steady.kept .time (by decide) rfl, hc.steady.kept .time htime rfl, show replaceClasses b (loadStart body s) = _ from hshape] <;> rfl
  have hustore : u.store = a.store := by
    rw [hctl.steady.kept .store (by decide) rfl, hc.steady.kept .store hstore rfl, show replaceClasses b (loadStart body s) = _ from hshape]
  have hload : loadable a k = some b := by
    have hvalid : slotReport a.store k = .valid := ht.valid
    have hbody : (tget a.store.slots k).body = some b := ht.body
    unfold loadable
    rw [if_pos hvalid, hbody]
    exact if_pos ht.law
  have hbodyu : loadBody b a = u := by
    have hfire : ∀ v : State, v.time.valid = false → fireEntries v = v := fun v hv => if_neg (by simp [hv])
    unfold loadBody
    dsimp only
    rw [hy]
    exact hfire u (by rw [hutime]; exact hval)
  have hop : loadSlotCommand body s.begun = okay (fun _ => []) u := by
    unfold loadSlotCommand
    rw [ht.slot]
    refine storeCommand_okay (s := s.begun) ht.idle ?_
    show (match loadable a k with | some b => (Status.ok, loadBody b a) | none => (.invalidSlot, a)) = _
    rw [hload, ← hbodyu]
  have hall : Steady (computed ++ [.config, .flows, .reflect, .store] ++ w) s.begun u :=
    ((((store_steady s.begun _).mono (by simp)).trans (hr.steady.mono (by
      intro x hx
      refine List.mem_append_left _ ?_
      revert x
      decide))).trans (hc.steady.mono (by simp +contextual))).trans
      (hctl.steady.mono (by simp +contextual))
  have htold : Told s.begun u :=
    (((told_quiet rfl rfl rfl rfl rfl : Told s.begun a).trans hr.told).trans hc.told).trans hctl.told
  obtain ⟨hdep, hans, hkept⟩ := Steady.requestWith (op := fun _ => loadSlotCommand) (kind := 4) (code := 0x10A)
    ht.accepts ht.kind hop htold hall (by simp [computed, hup]) (by rw [hustore] <;> rfl)
  have hflows : _ = u.flows.map withoutLastLink := hdep.1 .flows rfl
  have huflows : u.flows = y.flows := hbeside.flows.trans hyflows
  have hshare : _ = u.share := hdep.1 .share rfl
  have hushare : u.share = { y.share with
      reflectPresent := { l0 := shown .l0 y.flows, l1 := shown .l1 y.flows }, table := u.share.table } := by
    rw [show u.share = _ from hbeside.share, hyshare]
  have hrates : ∀ b, _ := hdep.1 .rates rfl
  have hbucket : ∀ x, isShared x = false → x ∉ bs → (u.bucket x).rate = (r.bucket x).rate := fun x hx hn =>
    (hctl.rates x hx (by simp)).trans (hc.rates x hx hn)
  refine ⟨_, rfl, (hdep.1 .config rfl : _ = _).trans hucfg, (recompute_computed _).departs hdep, by rw [hflows, huflows],
    (hdep.1 .links rfl : _ = _).trans (hctl.steady.kept .links (by decide) rfl),
    (hdep.1 .qual rfl : _ = _).trans (hctl.steady.kept .qual (by decide) rfl), ?_, fun l => ?_, fun i => ?_, fun l => ?_,
    (hdep.1 .store rfl : _ = _).trans hustore, hkept.mono ?_, _, hans⟩
  · rw [hshare, hushare]
  · rw [shown_congr (hflows.trans (congrArg _ huflows)), hshare, hushare]
    cases l <;> rfl
  · rw [(hrates _).2, hctl.depths, hc.depths]
    exact hr.depth i
  · rw [(hrates _).1, hbucket _ rfl (hbs l)]
    exact hr.rate l
  · simp +contextual [computed]

/-- The runs of a device that loads while the run of one link is under way: it is aborted. -/
theorem load_aborts {body : List Field} {s : State} {b : SlotBody} {l : Link} (hrun : (s.ctx l).underWay = true)
    (hidle : (s.ctx l.other).underWay = false) (el0 el1 : Nat) :
    let r := replaceClasses b (loadStart body s)
    let x := applyLink .l1 el1 (applyLink .l0 el0 (abortRuns r))
    Controls (computed ++ [.qual, .flows]) [.capacityChanged, .profileUnknown .l0, .profileUnknown .l1]
        [.pacing .l0, .pacing .l1] r x
      ∧ x.qual = { s.qual with ctx := s.qual.ctx.set l ((s.ctx l).abortedBy .restart) }
      ∧ x.flows = loadedFlows b.flows ∧ x.links = s.links ∧ x.cfg = b.classes ∧ x.time = s.time
      ∧ x.share.testRate.get l = 0 := by
  intro r x
  obtain ⟨d, e, hshape⟩ := (replaced_classes b (loadStart body s)).shape
  have hctx : ∀ k, r.ctx k = s.ctx k := fun k => by rw [show r = _ from hshape] <;> rfl
  have hrun' : (r.ctx l).underWay = true := by rw [hctx]; exact hrun
  have ha : abortRuns r = abortRun l .restart r := abortRuns_one hrun' (by rw [hctx]; exact hidle)
  obtain ⟨⟨hqual, _, hzero, _⟩, hflows, _⟩ := abortRun_under (cause := .restart) hrun'
  have hcon := controls_abortRun l .restart r
  rw [← ha] at hqual hzero hflows hcon
  have hq : (abortRuns r).qual = { s.qual with ctx := s.qual.ctx.set l ((s.ctx l).abortedBy .restart) } := by
    rw [hqual, hctx, show r = _ from hshape] <;> rfl
  have hnone : ∀ k, ((abortRuns r).ctx k).underWay = false := fun k => by
    unfold State.ctx
    rw [hq]
    rcases Link.eq_or_other l k with rfl | rfl
    · rw [PerLink.get_set_same] <;> rfl
    · rw [PerLink.get_set_other]
      exact hidle
  obtain ⟨hc, hb⟩ := applyLinks_idle el0 el1 hnone
  refine ⟨(hcon.mono (by simp) (by simp) (by simp)).trans (hc.mono (by simp +contextual) (by simp) (by simp)), hb.qual.trans hq,
    ?_, ?_, ?_, ?_, ?_⟩
  · rw [hb.flows, hflows, withoutTest_loaded (t := b.flows) (by rw [show r = _ from hshape])]
  · rw [hb.links, hcon.steady.kept .links (by decide) rfl, show r = _ from hshape] <;> rfl
  · rw [hb.cfg, hcon.steady.kept .config (by decide) rfl, show r = _ from hshape]
  · rw [hb.time, hcon.steady.kept .time (by decide) rfl, show r = _ from hshape] <;> rfl
  · rw [hb.share]
    exact hzero

/-- Settles O20: no run under way, an in-service run, and the run of a QUALIFYING link. -/
theorem loadSlotReplacesEveryClass : Obligations.LoadSlotReplacesEveryClass := by
  refine ⟨fun h sel body s k b ha hk hslot hidle hvalid hbody hlaw hruns hval => ?_,
    fun h sel body s k b l ha hk hslot hidle hvalid hbody hlaw hrun hother hval => ⟨fun hst => ?_,
      fun first last n hst hs h0 h1 => ?_⟩⟩
  · have ht : LoadTaken h sel body s k b := ⟨ha, hk, hslot, hidle, hvalid, hbody, hlaw⟩
    let r := replaceClasses b (loadStart body s)
    obtain ⟨d, e, hshape⟩ := (replaced_classes b (loadStart body s)).shape
    have hnone : ∀ k, (r.ctx k).underWay = false := fun k => by
      rw [show r = _ from hshape]
      exact hruns k
    have hab : abortRuns r = r := by
      unfold abortRuns
      rw [abortRun_idle (hnone .l0), abortRun_idle (hnone .l1)]
    obtain ⟨hc, hb⟩ := applyLinks_idle ((loadStart body s).el .l0) ((loadStart body s).el .l1) hnone
    obtain ⟨t, hexec, hcfg, hcomp, hflows, _, _, _, hpresent, hdepth, hrate, hstore, hkept, hans⟩ := load_request ht hval
      (by
        rw [qualifyingRuns_one (l := .l0) (s := loadStart body s) (hruns .l1),
          if_neg (by rw [show ((loadStart body s).ctx .l0).underWay = _ from hruns .l0]; simp), hab]
        rfl) hc
    refine ⟨t, hexec, hcfg, ?_, hcomp, hpresent, hdepth, hrate, hstore, hkept.mono (by decide), hans⟩
    rw [hflows, hb.flows, show r = _ from hshape]
    exact loadedFlows_withoutLastLink b.flows
  · have ht : LoadTaken h sel body s k b := ⟨ha, hk, hslot, hidle, hvalid, hbody, hlaw⟩
    obtain ⟨hc, hqual, hxflows, hlinks, _, _, hzero⟩ := load_aborts (body := body) (b := b) hrun hother
      ((loadStart body s).el .l0) ((loadStart body s).el .l1)
    obtain ⟨t, hexec, hcfg, hcomp, hflows, htlinks, htqual, htest, _, _, _, _, _, hans⟩ := load_request ht hval
      (by
        rw [qualifyingRuns_one (l := l) (s := loadStart body s) hother,
          if_neg (by rw [show ((loadStart body s).link l).state = _ from hst]; simp)]
        rfl) hc
    exact ⟨t, hexec, hcfg, hcomp, htlinks.trans hlinks, htqual.trans hqual, by rw [hflows, hxflows] <;> rfl,
      by rw [htest]; exact hzero, hans⟩
  · have ht : LoadTaken h sel body s k b := ⟨ha, hk, hslot, hidle, hvalid, hbody, hlaw⟩
    obtain ⟨hc, hqual, hxflows, hlinks, hxcfg, hxtime, hzero⟩ := load_aborts (body := body) (b := b) hrun hother
      ((loadStart body s).el .l0) ((loadStart body s).el .l1)
    generalize hx : applyLink .l1 ((loadStart body s).el .l1) (applyLink .l0 ((loadStart body s).el .l0)
      (abortRuns (replaceClasses b (loadStart body s)))) = x at hc hqual hxflows hlinks hxcfg hxtime hzero
    have hout : x.inService l = false := by
      unfold State.inService State.link
      rw [hlinks]
      exact decide_eq_false (by rw [show (s.links.get l).state = _ from hst]; simp)
    obtain ⟨hbegun, hcs, _⟩ := startRun_outside (l := l) (first := first) (last := last) (n := n) (s := x) hout
      (by rw [hxcfg, hxflows]; exact hs) (by rw [hxcfg]; exact h0) (by rw [hxcfg]; exact h1)
    obtain ⟨t, hexec, hcfg, hcomp, hflows, htlinks, htqual, htest, _, _, _, _, _, hans⟩ := load_request
      (y := startRun l x) ht hval
      (by
        rw [qualifyingRuns_one (l := l) (s := loadStart body s) hother, if_pos ⟨hst, hrun⟩, hx]
        rfl) (hc.trans (hcs.mono (by decide) (by simp) (by simp)))
    have hxctx : x.ctx l = (s.ctx l).abortedBy .restart := by
      unfold State.ctx
      rw [hqual]
      exact PerLink.get_set_same _ _ _
    refine ⟨t, hexec, hcfg, hcomp, (htlinks.trans hbegun.links).trans hlinks, ?_, ?_, ?_, ?_, hans⟩
    · unfold State.ctx
      rw [htqual]
      refine hbegun.ctx.trans ?_
      rw [hout, hxctx, hxcfg, show x.now = s.now from congrArg TimeUnit.elapsed hxtime] <;> rfl
    · unfold State.ctx
      rw [htqual]
      refine hbegun.other.trans ?_
      unfold State.ctx
      rw [hqual]
      exact PerLink.get_set_other _ _ _
    · rw [hflows, hbegun.flows, hxcfg, hxflows] <;> rfl
    · rw [htest, hbegun.rate, hxcfg]
      exact PerLink.get_set_same _ _ _

end Sys2Proof.Machine
end

section
/-!
SUPPORT. What the laws of the device read (O56 to O59, and the every-step clauses of O40 and O50): the records, and the
traffic. Departures keep the records, every cell and every place (R6, R12, R15, R17).
-/

namespace Sys2Proof.Machine

/-! ## The records that the laws read -/

/-- What a law reads of a flow entry: its slot, its fields and its owner. -/
def entryFacts (x : Nat × FlowEntry) : Nat × FlowSpec × Owner := (x.1, x.2.spec, x.2.owner)

/-- The records that the laws read are the same in two states, but for the traffic. -/
structure RecordsSame (s t : State) : Prop where
  cfg : t.cfg = s.cfg
  flows : t.flows.map entryFacts = s.flows.map entryFacts
  retired : t.pool.retired = s.pool.retired
  table : t.share.table = s.share.table
  links : t.links = s.links
  time : t.time = s.time
  runs : t.qual.ctx = s.qual.ctx
  store : t.store = s.store
  startup : t.startup = s.startup
  pending : t.pending = s.pending

theorem RecordsSame.refl (s : State) : RecordsSame s s := ⟨rfl, rfl, rfl, rfl, rfl, rfl, rfl, rfl, rfl, rfl⟩

theorem RecordsSame.trans {s t u : State} (h : RecordsSame s t) (k : RecordsSame t u) : RecordsSame s u :=
  ⟨k.cfg.trans h.cfg, k.flows.trans h.flows, k.retired.trans h.retired, k.table.trans h.table, k.links.trans h.links,
    k.time.trans h.time, k.runs.trans h.runs, k.store.trans h.store, k.startup.trans h.startup,
    k.pending.trans h.pending⟩

/-- The records are the same where only the parts that no law reads differ, by their names. -/
theorem RecordsSame.pool {s v w : State} (h : RecordsSame s v) (hw : w = { v with
    ports := w.ports, queues := w.queues, pool := { v.pool with free := w.pool.free } }) : RecordsSame s w := by
  rw [hw]
  exact ⟨h.cfg, h.flows, h.retired, h.table, h.links, h.time, h.runs, h.store, h.startup, h.pending⟩

theorem entryFacts_withoutLastLink (t : List (Nat × FlowEntry)) :
    (t.map withoutLastLink).map entryFacts = t.map entryFacts := by
  rw [List.map_map]
  rfl

theorem facts_of_withoutLastLink {t u : List (Nat × FlowEntry)} (h : t.map withoutLastLink = u.map withoutLastLink) :
    t.map entryFacts = u.map entryFacts := by
  rw [← entryFacts_withoutLastLink, h, entryFacts_withoutLastLink]

/-- A part that no law reads. -/
def Part.unread : Part → Bool
  | .linkUp | .reception | .counters | .demand | .allocation | .tallies | .rates | .reflect | .firing | .latches
  | .notice | .locals | .traffic => true
  | _ => false

/-- What keeps every part that a law reads keeps the records. -/
theorem recordsSame_of {s t : State} (h : ∀ a : Part, a.unread = false → a.kept s t) : RecordsSame s t := by
  have hqual : t.qual = s.qual := h .qual rfl
  have hshare : t.share = s.share := h .share rfl
  exact ⟨h .config rfl, facts_of_withoutLastLink (h .flows rfl), h .retired rfl, by rw [hshare], h .links rfl,
    h .time rfl, by rw [hqual], h .store rfl, h .startup rfl, h .pending rfl⟩

theorem Calm.records {s t : State} (h : Calm s t) : RecordsSame s t :=
  recordsSame_of fun a ha => h a (by cases a <;> first | rfl | cases ha)

/-- Everything that the laws read is the same in two states. -/
structure CoreSame (s t : State) : Prop extends RecordsSame s t where
  queues : t.queues = s.queues
  tx : ∀ p, (t.port p).tx = (s.port p).tx
  free : t.pool.free = s.pool.free

theorem CoreSame.refl (s : State) : CoreSame s s := ⟨RecordsSame.refl s, rfl, fun _ => rfl, rfl⟩

theorem CoreSame.trans {s t u : State} (h : CoreSame s t) (k : CoreSame t u) : CoreSame s u :=
  ⟨h.toRecordsSame.trans k.toRecordsSame, k.queues.trans h.queues, fun p => (k.tx p).trans (h.tx p),
    k.free.trans h.free⟩

theorem Steady.core {w : List Part} {s t : State} (h : Steady w s t) (hw : ∀ a ∈ w, a.unread = true) : CoreSame s t :=
  ⟨recordsSame_of fun a ha => h.kept a (fun hm => by rw [hw a hm] at ha; cases ha) (by cases a <;> first | rfl | cases ha),
    h.queues, h.tx, h.free⟩

theorem core_raise (c : Cond) (d : Option Nat) (s : State) : CoreSame s (raise c d s) :=
  (raise_steady c d s).core (by decide)

theorem core_touch (b : BucketId) (s : State) : CoreSame s (touch b s) := by
  obtain ⟨d, e, h, _⟩ := touch_shape b s
  rw [h]
  exact (sched_steady' s d e).core (by decide)

theorem core_charge (b : BucketId) (n : Nat) (s : State) : CoreSame s (charge b n s) := by
  obtain ⟨d, e, h, _⟩ := charge_shape b n s
  rw [h]
  exact (sched_steady' s d e).core (by decide)

theorem core_ev (s : State) (e : EventWork) : CoreSame s { s with ev := e } := (ev_steady s e).core (by decide)

theorem core_count (p : Port) (c : PortCounter) (n : Nat) (s : State) : CoreSame s (count p c n s) :=
  (count_steady p c n s).core (by decide)

theorem core_freeCount (s : State) (n : Nat) : CoreSame s { s with freeCount := n } :=
  (freeCount_steady s n).core (by decide)

theorem core_setTenant (i : Tenant) (u : TenantUnit) (s : State) : CoreSame s (s.setTenant i u) :=
  ⟨⟨rfl, rfl, rfl, rfl, rfl, rfl, rfl, rfl, rfl, rfl⟩, rfl, fun _ => rfl, rfl⟩

theorem core_sched (s : State) (d : Departure) : CoreSame s { s with sched := d } :=
  ⟨⟨rfl, rfl, rfl, rfl, rfl, rfl, rfl, rfl, rfl, rfl⟩, rfl, fun _ => rfl, rfl⟩

theorem core_correct (p : Port) (d : Descriptor) (hop : Nat) (s : State) : CoreSame s (correct p d hop s).2 := by
  unfold correct
  dsimp only
  split
  · dsimp only
    split
    · exact core_raise _ _ _
    · exact CoreSame.refl s
  · exact core_count _ _ _ _

theorem facts_updateSlot (n : Nat) (f : FlowEntry → FlowEntry) (t : List (Nat × FlowEntry))
    (h : ∀ e, (f e).spec = e.spec ∧ (f e).owner = e.owner) :
    (updateSlot n f t).map entryFacts = t.map entryFacts := by
  unfold updateSlot
  rw [List.map_map]
  refine List.map_congr_left fun x _ => ?_
  simp only [Function.comp]
  split
  · unfold entryFacts
    rw [(h x.2).1, (h x.2).2]
  · rfl

theorem core_flows {s : State} {f : List (Nat × FlowEntry)} (h : f.map entryFacts = s.flows.map entryFacts) :
    CoreSame s { s with flows := f } :=
  ⟨⟨rfl, h, rfl, rfl, rfl, rfl, rfl, rfl, rfl, rfl⟩, rfl, fun _ => rfl, rfl⟩

theorem core_updateLastLink (l : Link) (slot : Option Nat) (s : State) : CoreSame s (updateLastLink l slot s) := by
  have hlast : ∀ n, CoreSame s { s with flows := updateSlot n (fun e => { e with lastLink := some l }) s.flows } :=
    fun n => core_flows (facts_updateSlot n _ _ fun e => ⟨rfl, rfl⟩)
  unfold updateLastLink
  split
  · exact CoreSame.refl s
  · split
    · exact CoreSame.refl s
    · split
      · dsimp only
        split
        · exact (hlast _).trans (core_raise _ _ _)
        · exact hlast _
      · exact CoreSame.refl s

/-! ## Counting cells (R15) -/

theorem sum_update {α : Type} (L : List α) (a : α) (f g : α → Nat) (hL : L.Nodup) (ha : a ∈ L)
    (h : ∀ x, x ≠ a → g x = f x) : (L.map g).sum + f a = (L.map f).sum + g a := by
  induction L with
  | nil => cases ha
  | cons x rest ih =>
    obtain ⟨hx, hrest⟩ := List.nodup_cons.1 hL
    simp only [List.map_cons, List.sum_cons]
    by_cases hxa : x = a
    · subst hxa
      have hsame : rest.map g = rest.map f := List.map_congr_left fun y hy => h y fun hyx => hx (hyx ▸ hy)
      rw [hsame]
      omega
    · have := ih hrest ((List.mem_cons.1 ha).resolve_left (Ne.symm hxa))
      rw [h x hxa]
      omega

/-- How often a cell stands in the frames of a queue. -/
def cellsIn (c : Nat) (q : List Descriptor) : Nat := ((q.map fun d => d.cells).flatten).count c

@[simp] theorem cellsIn_nil (c : Nat) : cellsIn c [] = 0 := rfl

@[simp] theorem cellsIn_cons (c : Nat) (d : Descriptor) (q : List Descriptor) :
    cellsIn c (d :: q) = d.cells.count c + cellsIn c q := by
  simp [cellsIn, List.count_append]

@[simp] theorem cellsIn_append (c : Nat) (q r : List Descriptor) : cellsIn c (q ++ r) = cellsIn c q + cellsIn c r := by
  simp [cellsIn, List.count_append]

/-- How often a cell is held by what a port transmits. -/
def cellsSent (c : Nat) (x : Option Transmission) : Nat :=
  match x with
  | some x => match x.item with
    | .pool d => d.cells.count c
    | .store _ => 0
  | none => 0

/-- How often a cell is held by a queue set. -/
def cellsQueued (c : Nat) (q : QueueSet) : Nat :=
  ((List.finRange 8).map fun i => cellsIn c (tget q.tenant i)).sum + cellsIn c q.timing
    + cellsIn c q.test.l0 + cellsIn c q.test.l1 + (Port.list.map fun p => cellsIn c (q.down.get p)).sum

/-- How often a cell is held. -/
def cellsHeld (c : Nat) (s : State) : Nat :=
  cellsQueued c s.queues + (Port.list.map fun p => cellsSent c (s.port p).tx).sum

theorem count_flatten_map {α : Type} (c : Nat) (L : List α) (f : α → List Nat) :
    (L.map f).flatten.count c = (L.map fun x => (f x).count c).sum := by
  rw [List.count_flatten, List.map_map]
  rfl

theorem cellsIn_flatten {α : Type} (c : Nat) (L : List α) (f : α → List Descriptor) :
    cellsIn c (L.map f).flatten = (L.map fun x => cellsIn c (f x)).sum := by
  induction L with
  | nil => rfl
  | cons x rest ih => simp [ih]

theorem tenant_toList (v : Vector (List Descriptor) 8) : v.toList = (List.finRange 8).map fun i => tget v i := by
  apply List.ext_getElem
  · simp
  · intro i h1 h2
    simp [tget]

theorem cellsIn_all (c : Nat) (q : QueueSet) : cellsIn c q.all = cellsQueued c q := by
  unfold QueueSet.all cellsQueued
  rw [cellsIn_append, cellsIn_append, cellsIn_append, cellsIn_append, cellsIn_flatten, tenant_toList, cellsIn_flatten]

theorem count_heldCells (c : Nat) (s : State) : (heldCells s).count c = cellsHeld c s := by
  have hqueued : ((s.queues.all.map fun d => d.cells).flatten).count c = cellsQueued c s.queues := cellsIn_all c s.queues
  have hsent : ((Port.list.map fun p => match (s.port p).tx with
        | some x => match x.item with
          | .pool d => d.cells
          | .store _ => []
        | none => []).flatten).count c = (Port.list.map fun p => cellsSent c (s.port p).tx).sum := by
    rw [count_flatten_map]
    congr 1
    refine List.map_congr_left fun p _ => ?_
    unfold cellsSent
    split
    · next x hx => cases hi : x.item <;> simp
    · rfl
  unfold heldCells cellsHeld
  rw [List.count_append, hqueued]
  congr 1

theorem mem_portList (p : Port) : p ∈ Port.list := by
  cases p with
  | ap i => revert i; decide
  | sp => decide
  | bh l => cases l <;> decide

theorem cellsQueued_tenant (c : Nat) (q : QueueSet) (i : Tenant) (r : List Descriptor) :
    cellsQueued c { q with tenant := tset q.tenant i r } + cellsIn c (tget q.tenant i) = cellsQueued c q + cellsIn c r := by
  have h := sum_update (List.finRange 8) i (fun k => cellsIn c (tget q.tenant k))
    (fun k => cellsIn c (tget (tset q.tenant i r) k)) (List.nodup_finRange 8) (List.mem_finRange i)
    fun k hk => by simp only [tget_tset, if_neg hk]
  simp only [tget_tset_same] at h
  unfold cellsQueued
  dsimp only
  omega

theorem cellsQueued_timing (c : Nat) (q : QueueSet) (r : List Descriptor) :
    cellsQueued c { q with timing := r } + cellsIn c q.timing = cellsQueued c q + cellsIn c r := by
  unfold cellsQueued
  dsimp only
  omega

theorem cellsQueued_test (c : Nat) (q : QueueSet) (l : Link) (r : List Descriptor) :
    cellsQueued c { q with test := q.test.set l r } + cellsIn c (q.test.get l) = cellsQueued c q + cellsIn c r := by
  unfold cellsQueued
  cases l <;> simp only [PerLink.set, PerLink.get] <;> omega

theorem cellsQueued_down (c : Nat) (q : QueueSet) (p : Port) (r : List Descriptor) :
    cellsQueued c { q with down := q.down.set p r } + cellsIn c (q.down.get p) = cellsQueued c q + cellsIn c r := by
  have h := sum_update Port.list p (fun k => cellsIn c (q.down.get k)) (fun k => cellsIn c ((q.down.set p r).get k))
    Port.nodup_list (mem_portList p) fun k hk => by simp only [PerPort.get_set, if_neg hk]
  simp only [PerPort.get_set_same] at h
  unfold cellsQueued
  dsimp only
  omega

theorem cellsHeld_queues (c : Nat) (s : State) (q : QueueSet) :
    cellsHeld c { s with queues := q } + cellsQueued c s.queues = cellsHeld c s + cellsQueued c q := by
  have hq : cellsHeld c { s with queues := q } = cellsQueued c q + (Port.list.map fun p => cellsSent c (s.port p).tx).sum := rfl
  rw [hq]
  unfold cellsHeld
  omega

theorem cellsHeld_swap {c : Nat} {s : State} {q : QueueSet} {a b : Nat}
    (h : cellsQueued c q + a = cellsQueued c s.queues + b) : cellsHeld c { s with queues := q } + a = cellsHeld c s + b := by
  have := cellsHeld_queues c s q
  omega

theorem cellsHeld_port (c : Nat) (s : State) (p : Port) (u : PortUnit) :
    cellsHeld c (s.setPort p u) + cellsSent c (s.port p).tx = cellsHeld c s + cellsSent c u.tx := by
  have h := sum_update Port.list p (fun k => cellsSent c (s.port k).tx) (fun k => cellsSent c ((s.setPort p u).port k).tx)
    Port.nodup_list (mem_portList p) fun k hk => by rw [State.port_setPort_ne s p k u hk]
  simp only [State.port_setPort] at h
  unfold cellsHeld
  rw [State.setPort_queues]
  omega

theorem CoreSame.held {s t : State} (h : CoreSame s t) (c : Nat) : cellsHeld c t = cellsHeld c s := by
  unfold cellsHeld
  rw [h.queues]
  simp only [h.tx]

/-! ## Traffic that only leaves -/

/-- Frames leave the queues from the head only: nothing joins. -/
structure Shrinks (s t : State) : Prop where
  tenant : ∀ i, t.tenantQ i <:+ s.tenantQ i
  timing : t.queues.timing <:+ s.queues.timing
  test : ∀ l, t.queues.test.get l <:+ s.queues.test.get l
  down : ∀ p, t.queues.down.get p <:+ s.queues.down.get p

theorem Shrinks.of_queues {s t : State} (h : t.queues = s.queues) : Shrinks s t :=
  ⟨fun i => by unfold State.tenantQ; rw [h], by rw [h], fun l => by rw [h], fun p => by rw [h]⟩

theorem Shrinks.trans {s t u : State} (h : Shrinks s t) (k : Shrinks t u) : Shrinks s u :=
  ⟨fun i => (k.tenant i).trans (h.tenant i), k.timing.trans h.timing, fun l => (k.test l).trans (h.test l),
    fun p => (k.down p).trans (h.down p)⟩

/-- A frame of the pool that a backhaul port transmits in t was being transmitted in s, or has started on a link in
service, or comes from the link's test queue (R12, R93). -/
def StartsEligible (s t : State) : Prop :=
  ∀ l x d, (t.port (.bh l)).tx = some x → x.item = .pool d →
    (s.port (.bh l)).tx = some x ∨ s.inService l = true ∨ d ∈ s.queues.test.get l

/-- Nothing but the traffic changed, and nothing joined it: every cell that a frame held is held or free, and no port's
store holds more than before, or more than its 16 places (R15, R17). -/
structure Traffic (s t : State) : Prop extends RecordsSame s t where
  cells : ∀ c, t.pool.free.count c + cellsHeld c t = s.pool.free.count c + cellsHeld c s
  held : ∀ c, cellsHeld c t ≤ cellsHeld c s
  shrinks : Shrinks s t
  places : ∀ p, t.placesTaken p ≤ 16 ∨ t.placesTaken p ≤ s.placesTaken p
  starts : StartsEligible s t

theorem CoreSame.traffic {s t : State} (h : CoreSame s t) : Traffic s t where
  toRecordsSame := h.toRecordsSame.pool rfl
  cells c := by rw [h.held, h.free]
  held c := (h.held c).le
  shrinks := .of_queues h.queues
  places p := .inr (placesTaken_congr (by unfold State.localQ; rw [h.queues]) (h.tx p)).le
  starts l x d hx _ := .inl ((h.tx _).symm.trans hx)

theorem Traffic.refl (s : State) : Traffic s s := (CoreSame.refl s).traffic

theorem RecordsSame.inService {s t : State} (h : RecordsSame s t) (l : Link) : t.inService l = s.inService l := by
  unfold State.inService State.link
  rw [h.links]

theorem Traffic.trans {s t u : State} (h : Traffic s t) (k : Traffic t u) : Traffic s u where
  toRecordsSame := h.toRecordsSame.trans k.toRecordsSame
  cells c := (k.cells c).trans (h.cells c)
  held c := (k.held c).trans (h.held c)
  shrinks := h.shrinks.trans k.shrinks
  places p := (k.places p).elim .inl fun h2 => (h.places p).imp h2.trans h2.trans
  starts l x d hx hd := by
    rcases k.starts l x d hx hd with h1 | h1 | h1
    · exact h.starts l x d h1 hd
    · exact .inr (.inl ((h.toRecordsSame.inService l).symm.trans h1))
    · exact .inr (.inr ((h.shrinks.test l).subset h1))

theorem Traffic.core {s t u : State} (h : Traffic s t) (k : CoreSame t u) : Traffic s u := h.trans k.traffic

/-! ## Frames taken from the head of a queue -/

/-- Frames have left one queue, and nothing else has changed: their cells are in no hand yet. -/
structure Popped (ds : List Descriptor) (s v : State) : Prop extends RecordsSame s v where
  cells : ∀ c, cellsHeld c v + cellsIn c ds = cellsHeld c s
  free : v.pool.free = s.pool.free
  shrinks : Shrinks s v
  locals : v.queues.locals = s.queues.locals
  tx : ∀ p, (v.port p).tx = (s.port p).tx

theorem Popped.core {ds : List Descriptor} {s v w : State} (h : Popped ds s v) (k : CoreSame v w) : Popped ds s w where
  toRecordsSame := h.toRecordsSame.trans k.toRecordsSame
  cells c := by rw [k.held]; exact h.cells c
  free := k.free.trans h.free
  shrinks := h.shrinks.trans (.of_queues k.queues)
  locals := (congrArg QueueSet.locals k.queues).trans h.locals
  tx p := (k.tx p).trans (h.tx p)

theorem Popped.after {ds : List Descriptor} {s v w : State} (k : CoreSame s v) (h : Popped ds v w) : Popped ds s w where
  toRecordsSame := k.toRecordsSame.trans h.toRecordsSame
  cells c := (h.cells c).trans (k.held c)
  free := h.free.trans k.free
  shrinks := (Shrinks.of_queues k.queues).trans h.shrinks
  locals := h.locals.trans (congrArg QueueSet.locals k.queues)
  tx p := (h.tx p).trans (k.tx p)

theorem Popped.place {ds : List Descriptor} {s v : State} (h : Popped ds s v) (p : Port) :
    v.placesTaken p = s.placesTaken p :=
  placesTaken_congr (by unfold State.localQ; rw [h.locals]) (h.tx p)

/-- Their cells are freed (R15). -/
theorem Popped.freed {ds : List Descriptor} {s v : State} (h : Popped ds s v) : Traffic s (freeAll ds v) where
  toRecordsSame := h.toRecordsSame.pool rfl
  cells c := by
    have hfree : (freeAll ds v).pool.free.count c = cellsIn c ds + v.pool.free.count c := List.count_append ..
    have hheld : cellsHeld c (freeAll ds v) = cellsHeld c v := rfl
    have hc := h.cells c
    rw [hfree, hheld, h.free]
    omega
  held c := by
    have hheld : cellsHeld c (freeAll ds v) = cellsHeld c v := rfl
    have hc := h.cells c
    omega
  shrinks := h.shrinks.trans (.of_queues rfl)
  places p := .inr (h.place p).le
  starts l x d hx _ := .inl ((h.tx _).symm.trans hx)

/-- A frame that left a queue starts on an idle port. -/
theorem Popped.sent {d : Descriptor} {s v : State} {p : Port} {bytes : List Byte} (h : Popped [d] s v)
    (hidle : (s.port p).tx = none)
    (hl : ∀ l, p = .bh l → s.inService l = true ∨ d ∈ s.queues.test.get l) : Traffic s (beginTx p (.pool d) bytes v) where
  toRecordsSame := h.toRecordsSame.pool rfl
  cells c := by
    have hport := cellsHeld_port c v p { v.port p with
      tx := some { item := .pool d, bytes, ends := txEnd v.now (decide (p = .sp)) bytes.length } }
    have hc := h.cells c
    rw [show cellsSent c (v.port p).tx = 0 by rw [h.tx, hidle]; rfl] at hport
    simp only [cellsIn_cons, cellsIn_nil] at hc
    simp only [cellsSent] at hport
    have hfree : (beginTx p (.pool d) bytes v).pool = v.pool := rfl
    rw [hfree, h.free]
    unfold beginTx
    dsimp only
    omega
  held c := by
    have hport := cellsHeld_port c v p { v.port p with
      tx := some { item := .pool d, bytes, ends := txEnd v.now (decide (p = .sp)) bytes.length } }
    have hc := h.cells c
    rw [show cellsSent c (v.port p).tx = 0 by rw [h.tx, hidle]; rfl] at hport
    simp only [cellsIn_cons, cellsIn_nil] at hc
    simp only [cellsSent] at hport
    unfold beginTx
    dsimp only
    omega
  shrinks := h.shrinks.trans (.of_queues rfl)
  places q := by
    refine .inr ?_
    by_cases hq : q = p
    · subst hq
      have hlocal : (beginTx q (.pool d) bytes v).localQ q = v.localQ q := rfl
      have hsend : (beginTx q (.pool d) bytes v).sendingPlace q = 0 := by
        unfold State.sendingPlace beginTx
        rw [State.port_setPort]
        rfl
      unfold State.placesTaken
      rw [hlocal, hsend]
      unfold State.localQ
      rw [h.locals]
      omega
    · refine le_of_eq ((placesTaken_congr (s := v) (t := beginTx p (.pool d) bytes v) rfl ?_).trans (h.place q))
      unfold beginTx
      rw [State.port_setPort_ne _ _ _ _ hq]
  starts l x d' hx hd := by
    by_cases hp : p = .bh l
    · subst hp
      unfold beginTx at hx
      rw [State.port_setPort] at hx
      cases hx
      cases hd
      exact .inr (hl l rfl)
    · unfold beginTx at hx
      rw [State.port_setPort_ne _ _ _ _ (Ne.symm hp)] at hx
      exact .inl ((h.tx _).symm.trans hx)

theorem popped_tenant {s : State} {i : Tenant} {ds rest : List Descriptor} (h : s.tenantQ i = ds ++ rest) :
    Popped ds s (s.setTenantQ i rest) where
  toRecordsSame := (RecordsSame.refl s).pool rfl
  cells c := by
    have hswap := cellsHeld_swap (s := s) (cellsQueued_tenant c s.queues i rest)
    have h3 : tget s.queues.tenant i = ds ++ rest := h
    rw [h3, cellsIn_append] at hswap
    exact Nat.add_right_cancel ((Nat.add_assoc _ _ _).trans hswap)
  free := rfl
  shrinks := by
    refine ⟨fun k => ?_, List.suffix_refl _, fun _ => List.suffix_refl _, fun _ => List.suffix_refl _⟩
    show tget (tset s.queues.tenant i rest) k <:+ s.tenantQ k
    rw [tget_tset]
    split
    · next hk =>
      subst hk
      rw [h]
      exact List.suffix_append _ _
    · exact List.suffix_refl _
  locals := rfl
  tx _ := rfl

theorem popped_timing {s : State} {ds rest : List Descriptor} (h : s.queues.timing = ds ++ rest) :
    Popped ds s { s with queues := { s.queues with timing := rest } } where
  toRecordsSame := (RecordsSame.refl s).pool rfl
  cells c := by
    have hswap := cellsHeld_swap (s := s) (cellsQueued_timing c s.queues rest)
    rw [h, cellsIn_append] at hswap
    exact Nat.add_right_cancel ((Nat.add_assoc _ _ _).trans hswap)
  free := rfl
  shrinks := ⟨fun _ => List.suffix_refl _, by rw [h]; exact List.suffix_append _ _, fun _ => List.suffix_refl _,
    fun _ => List.suffix_refl _⟩
  locals := rfl
  tx _ := rfl

theorem popped_test {s : State} {l : Link} {ds rest : List Descriptor} (h : s.queues.test.get l = ds ++ rest) :
    Popped ds s { s with queues := { s.queues with test := s.queues.test.set l rest } } where
  toRecordsSame := (RecordsSame.refl s).pool rfl
  cells c := by
    have hswap := cellsHeld_swap (s := s) (cellsQueued_test c s.queues l rest)
    rw [h, cellsIn_append] at hswap
    exact Nat.add_right_cancel ((Nat.add_assoc _ _ _).trans hswap)
  free := rfl
  shrinks := by
    refine ⟨fun _ => List.suffix_refl _, List.suffix_refl _, fun k => ?_, fun _ => List.suffix_refl _⟩
    show (s.queues.test.set l rest).get k <:+ _
    rw [PerLink.get_set]
    split
    · next hk =>
      subst hk
      rw [h]
      exact List.suffix_append _ _
    · exact List.suffix_refl _
  locals := rfl
  tx _ := rfl

theorem popped_down {s : State} {p : Port} {ds rest : List Descriptor} (h : s.queues.down.get p = ds ++ rest) :
    Popped ds s (s.setDown p rest) where
  toRecordsSame := (RecordsSame.refl s).pool rfl
  cells c := by
    have hswap := cellsHeld_swap (s := s) (cellsQueued_down c s.queues p rest)
    rw [h, cellsIn_append] at hswap
    exact Nat.add_right_cancel ((Nat.add_assoc _ _ _).trans hswap)
  free := rfl
  shrinks := by
    refine ⟨fun _ => List.suffix_refl _, List.suffix_refl _, fun _ => List.suffix_refl _, fun k => ?_⟩
    show (s.queues.down.set p rest).get k <:+ _
    rw [PerPort.get_set]
    split
    · next hk =>
      subst hk
      rw [h]
      exact List.suffix_append _ _
    · exact List.suffix_refl _
  locals := rfl
  tx _ := rfl

/-! ## Local frames (R17) -/

/-- A local frame that is the head of its queue starts on its idle port, and keeps its place. -/
theorem traffic_sendLocal {s v : State} {p : Port} {f : LocalFrame} {rest : List LocalFrame} {bytes : List Byte}
    (hq : s.localQ p = f :: rest) (hidle : (s.port p).tx = none) (hv : CoreSame (s.setLocalQ p rest) v) :
    Traffic s (beginTx p (.store f) bytes v) := by
  have htx : (v.port p).tx = none := (hv.tx p).trans hidle
  have hheld : ∀ c, cellsHeld c (beginTx p (.store f) bytes v) = cellsHeld c s := fun c => by
    have hport := cellsHeld_port c v p { v.port p with
      tx := some { item := .store f, bytes, ends := txEnd v.now (decide (p = .sp)) bytes.length } }
    rw [htx] at hport
    simp only [cellsSent, Nat.add_zero] at hport
    exact hport.trans ((hv.held c).trans rfl)
  have hlocal : ∀ q, v.localQ q = (s.setLocalQ p rest).localQ q := fun q => by
    unfold State.localQ
    rw [hv.queues]
  refine ⟨(((RecordsSame.refl s).pool (w := s.setLocalQ p rest) rfl).trans hv.toRecordsSame).pool rfl, fun c => ?_, fun c => (hheld c).le, ?_, fun q => .inr ?_, fun l x d hx hd => ?_⟩
  · rw [hheld, show (beginTx p (.store f) bytes v).pool.free = s.pool.free from hv.free]
  · exact Shrinks.trans (t := s.setLocalQ p rest)
      ⟨fun _ => List.suffix_refl _, List.suffix_refl _, fun _ => List.suffix_refl _, fun _ => List.suffix_refl _⟩
      (.of_queues hv.queues)
  · by_cases hpq : q = p
    · subst hpq
      have hsend : (beginTx q (.store f) bytes v).sendingPlace q = 1 := by
        unfold State.sendingPlace beginTx
        rw [State.port_setPort]
        rfl
      have hlen : (beginTx q (.store f) bytes v).localQ q = rest := (hlocal q).trans (State.localQ_setLocalQ _ _ _)
      unfold State.placesTaken
      rw [hsend, hlen, hq, List.length_cons]
      omega
    · refine le_of_eq (placesTaken_congr (s := s) (t := beginTx p (.store f) bytes v) ?_ ?_)
      · show v.localQ q = _
        rw [hlocal]
        unfold State.localQ State.setLocalQ
        rw [PerPort.get_set, if_neg hpq]
      · unfold beginTx
        rw [State.port_setPort_ne _ _ _ _ hpq, hv.tx]
        rfl
  · by_cases hp : p = .bh l
    · subst hp
      unfold beginTx at hx
      rw [State.port_setPort] at hx
      cases hx
      cases hd
    · unfold beginTx at hx
      rw [State.port_setPort_ne _ _ _ _ (Ne.symm hp), hv.tx] at hx
      exact .inl hx

/-- A local frame joins its queue where a place is free. -/
theorem traffic_offerLocal (p : Port) (f : LocalFrame) (s : State) : Traffic s (offerLocal p f s).2 := by
  unfold offerLocal
  split
  · next hroom =>
    have hlt : s.placesTaken p < 16 := by
      unfold localRoom at hroom
      simp only [Bool.and_eq_true, decide_eq_true_eq] at hroom
      exact hroom.1
    let t := s.setLocalQ p (s.localQ p ++ [f])
    have hj : Traffic s t := by
      refine ⟨(RecordsSame.refl s).pool rfl, fun _ => rfl, fun _ => le_refl _,
        ⟨fun _ => List.suffix_refl _, List.suffix_refl _, fun _ => List.suffix_refl _, fun _ => List.suffix_refl _⟩,
        fun q => ?_, fun l x d hx _ => .inl hx⟩
      by_cases hpq : q = p
      · subst hpq
        refine .inl ?_
        unfold State.placesTaken at hlt ⊢
        rw [show t.localQ q = _ from State.localQ_setLocalQ _ _ _, List.length_append, List.length_singleton]
        have hsend : t.sendingPlace q = s.sendingPlace q := rfl
        omega
      · refine .inr (le_of_eq (placesTaken_congr (s := s) (t := t) ?_ rfl))
        show (s.queues.locals.set p _).get q = _
        rw [PerPort.get_set, if_neg hpq]
        rfl
    exact hj.core (core_ev t _)
  · exact Traffic.refl s

theorem traffic_offerCopy (n : Notice) (s : State) (p : Port) : Traffic s (offerCopy n s p) := by
  have hoff := traffic_offerLocal p (.notice n) s
  unfold offerCopy
  split
  · split
    · next s' he =>
      rw [he] at hoff
      exact hoff
    · next s' he =>
      rw [he] at hoff
      exact hoff.core ((notice_steady s' _).core (by decide))
  · exact Traffic.refl s

theorem Traffic.foldl {α : Type} (f : State → α → State) (h : ∀ s x, Traffic s (f s x)) (L : List α) (s : State) :
    Traffic s (L.foldl f s) := by
  induction L generalizing s with
  | nil => exact Traffic.refl s
  | cons x L ih => exact (h s x).trans (ih _)

theorem traffic_offerCopies (n : Notice) (s : State) : Traffic s (offerCopies n s) := by
  rw [offerCopies_eq]
  exact Traffic.foldl _ (traffic_offerCopy n) _ _

theorem traffic_offerNotices (s : State) : Traffic s (offerNotices s) := by
  unfold offerNotices
  exact (core_ev s _).traffic.trans (Traffic.foldl _ (fun s n => traffic_offerCopies n s) _ _)

/-! ## Arbiters and transmitters -/

theorem traffic_serveAccess {p : Port} (hp : ∀ l, p ≠ .bh l) (s : State) : Traffic s (serveAccess p s) := by
  unfold serveAccess
  split
  · next hready =>
    simp only [Bool.and_eq_true, Option.isNone_iff_eq_none] at hready
    split
    · next f rest hq => exact traffic_sendLocal hq hready.2 (CoreSame.refl _)
    · split
      · next d rest hq =>
        have hpop : Popped [d] s (s.setDown p rest) := popped_down hq
        dsimp only
        split
        · exact (hpop.core (core_correct p d _ _)).sent hready.2 fun l hl => absurd hl (hp l)
        · exact hpop.sent hready.2 fun l hl => absurd hl (hp l)
      · exact Traffic.refl s
  · exact Traffic.refl s

/-- A frame that is eligible on a link finds it in service (R93). -/
theorem eligible_inService {s : State} {q : Option Pref} {l : Link} (h : eligible s q l = true) : s.inService l = true := by
  unfold eligible at h
  cases hq : q.getD .any <;> rw [hq] at h <;> cases l <;> simp_all

theorem traffic_startLocal {l : Link} {f : LocalFrame} {rest : List LocalFrame} {s : State}
    (hq : s.localQ (.bh l) = f :: rest) (hidle : (s.port (.bh l)).tx = none) : Traffic s (startLocal l f rest s) :=
  traffic_sendLocal hq hidle (core_charge _ _ _)

theorem traffic_startTiming {l : Link} {d : Descriptor} {rest : List Descriptor} {s : State}
    (hq : s.queues.timing = d :: rest) (hidle : (s.port (.bh l)).tx = none) (hin : s.inService l = true) :
    Traffic s (startTiming l d rest s) := by
  have hpop : Popped [d] s _ := popped_timing (s := s) (rest := rest) hq
  unfold startTiming
  dsimp only
  exact (((((hpop.core (core_charge _ _ _)).core (core_charge _ _ _)).core (core_correct _ _ _ _)).core
    (core_updateLastLink _ _ _)).sent hidle fun k hk => by cases hk; exact .inl hin).core (core_ev _ _)

theorem traffic_startTest {l : Link} {d : Descriptor} {rest : List Descriptor} {s : State}
    (hq : s.queues.test.get l = d :: rest) (hidle : (s.port (.bh l)).tx = none) : Traffic s (startTest l d rest s) :=
  ((popped_test (s := s) (l := l) (ds := [d]) (rest := rest) hq).core (core_charge _ _ _)).sent hidle fun k hk => by
    cases hk
    exact .inr (by rw [hq]; exact List.mem_cons_self)

theorem traffic_startTenant {l : Link} {i : Tenant} {d : Descriptor} {rest : List Descriptor} {s : State}
    (hq : s.tenantQ i = d :: rest) (hidle : (s.port (.bh l)).tx = none) (hin : s.inService l = true) :
    Traffic s (startTenant l i d rest s) := by
  have hpop : Popped [d] s _ := popped_tenant (s := s) (i := i) (rest := rest) hq
  unfold startTenant startPool
  dsimp only
  exact ((((hpop.core (core_charge _ _ _)).core (core_sched _ _)).core (core_charge _ _ _)).sent hidle
    fun k hk => by cases hk; exact .inl hin).core (core_ev _ _)

theorem setTenantQ_self (s : State) (i : Tenant) : s.setTenantQ i (s.tenantQ i) = s := by
  unfold State.setTenantQ State.tenantQ
  rw [tset_tget]

theorem traffic_ageHeads (i : Tenant) (q : List Descriptor) (s : State) :
    Traffic (s.setTenantQ i q) (ageHeads i q s) := by
  induction q generalizing s with
  | nil => exact Traffic.refl _
  | cons d rest ih =>
    unfold ageHeads
    split
    · refine Traffic.trans ?_ (ih (discardAged i d s))
      have hpop : Popped [d] (s.setTenantQ i (d :: rest)) ((s.setTenantQ i (d :: rest)).setTenantQ i rest) :=
        popped_tenant (State.tenantQ_setTenantQ _ _ _)
      have hdis : ∃ v m e, discardAged i d s = { freeCells d s with tenants := v, mgmt := m, ev := e } := by
        unfold discardAged
        obtain ⟨x, e, h⟩ := raise_shape (.agedDiscard i) none
          ((freeCells d s).setTenant i { s.tenant i with aged := (s.tenant i).aged + 1 })
        exact ⟨_, _, _, h⟩
      obtain ⟨v, m, e, hd⟩ := hdis
      refine hpop.freed.core ?_
      rw [hd]
      refine ⟨⟨rfl, rfl, rfl, rfl, rfl, rfl, rfl, rfl, rfl, rfl⟩, ?_, fun _ => rfl, ?_⟩
      · show { s.queues with tenant := tset s.queues.tenant i rest }
          = { s.queues with tenant := tset (tset s.queues.tenant i (d :: rest)) i rest }
        unfold tset
        rw [Vector.set_set]
      · show d.cells ++ s.pool.free = ([d].map fun d => d.cells).flatten ++ s.pool.free
        simp
    · exact Traffic.refl _

theorem traffic_examine (l : Link) (i : Tenant) (s : State) : Traffic s (examine l i s) := by
  have h := traffic_ageHeads i (s.tenantQ i) s
  rw [setTenantQ_self] at h
  unfold examine
  dsimp only
  split
  · exact h
  · exact h.core (core_ev _ _)

theorem examine_tx (l : Link) (i : Tenant) (s : State) (p : Port) : ((examine l i s).port p).tx = (s.port p).tx := by
  obtain ⟨_, hx, _⟩ := ageHeads_spec i (s.tenantQ i) s
  unfold examine
  dsimp only
  split
  · exact hx p
  · exact hx p

theorem traffic_walk (l : Link) (ts : List Tenant) (s : State) (hidle : (s.port (.bh l)).tx = none) :
    Traffic s (walk l ts s) := by
  induction ts generalizing s with
  | nil => exact Traffic.refl s
  | cons i ts ih =>
    unfold walk
    split
    · have hex := traffic_examine l i s
      have hidle' : ((examine l i s).port (.bh l)).tx = none := (examine_tx l i s _).trans hidle
      dsimp only
      split
      · exact hex.trans (ih _ hidle')
      · next d rest hq =>
        have htouch := core_touch (.tenant i) (examine l i s)
        have hidle2 : ((touch (.tenant i) (examine l i s)).port (.bh l)).tx = none := (htouch.tx _).trans hidle'
        refine (hex.core htouch).trans ?_
        split
        · next hgo =>
          simp only [Bool.and_eq_true] at hgo
          refine traffic_startTenant ?_ hidle2 (eligible_inService hgo.1)
          unfold State.tenantQ
          rw [htouch.queues]
          exact hq
        · exact ih _ hidle2
    · exact ih s hidle

theorem traffic_dropRefused (l : Link) (s : State) : Traffic s (dropRefused l s) :=
  (popped_test (s := s) (l := l) (List.takeWhile_append_dropWhile (p := testRefused (s.ctx l))).symm).freed

theorem traffic_passTestAndTenants (l : Link) (s : State) (hidle : (s.port (.bh l)).tx = none) :
    Traffic s (passTestAndTenants l s) := by
  unfold passTestAndTenants
  dsimp only
  refine (traffic_dropRefused l s).trans ?_
  split
  · next d rest hq => exact traffic_startTest hq hidle
  · exact traffic_walk l _ _ hidle

theorem traffic_selectionPass (l : Link) (s : State) (hidle : (s.port (.bh l)).tx = none) :
    Traffic s (selectionPass l s) := by
  unfold selectionPass
  split
  · next f rest hq => exact traffic_startLocal hq hidle
  · split
    · next d rest hq =>
      have htouch := core_touch .timing s
      dsimp only
      refine htouch.traffic.trans ?_
      split
      · next hgo =>
        simp only [Bool.and_eq_true] at hgo
        exact traffic_startTiming (by rw [htouch.queues]; exact hq) ((htouch.tx _).trans hidle) (eligible_inService hgo.1)
      · exact traffic_passTestAndTenants l _ ((htouch.tx _).trans hidle)
    · exact traffic_passTestAndTenants l s hidle

theorem traffic_serveBackhaul (l : Link) (s : State) : Traffic s (serveBackhaul l s) := by
  unfold serveBackhaul
  dsimp only
  refine (core_touch (.pacing l) s).traffic.trans ?_
  split
  · next hready =>
    unfold portReady at hready
    simp only [Bool.and_eq_true, Option.isNone_iff_eq_none] at hready
    exact traffic_selectionPass l _ hready.1.2
  · exact Traffic.refl _

theorem traffic_serve (p : Port) (s : State) : Traffic s (serve p s) := by
  unfold serve
  dsimp only
  refine (core_ev s { s.ev with kick := s.ev.kick.set p false }).traffic.trans ?_
  cases p with
  | bh l => exact traffic_serveBackhaul l _
  | ap i => exact traffic_serveAccess (fun l h => by cases h) _
  | sp => exact traffic_serveAccess (fun l h => by cases h) _

theorem core_nextServed (s : State) : CoreSame s (nextServed s).2 := by
  unfold nextServed takeFree
  split
  · exact CoreSame.refl s
  · split
    · exact core_freeCount s _
    · split
      · exact CoreSame.refl s
      · split
        · exact CoreSame.refl s
        · exact CoreSame.refl s

/-- The end of an event moves frames, and changes nothing else that a law reads. -/
theorem traffic_settle (s : State) : Traffic s (settle s) := by
  have h : ∀ k, ∀ s : State, Traffic s (settleRounds k s) := by
    intro k
    induction k with
    | zero => exact fun s => Traffic.refl s
    | succ k ih =>
      intro s
      unfold settleRounds
      split
      · exact (traffic_offerNotices s).trans (ih _)
      · have hnext := core_nextServed s
        split
        · next p s1 he =>
          rw [he] at hnext
          exact (hnext.traffic.trans (traffic_serve p s1)).trans (ih _)
        · next s1 he =>
          rw [he] at hnext
          exact hnext.traffic
  exact (h 64 s).core (core_ev _ _)

end Sys2Proof.Machine
end

section
/-!
SUPPORT. What a step can do (O40, O50, O56 to O59): the deeds that one step is made of. Each is an explicit change of the
records, with what the laws ask of it.
-/

namespace Sys2Proof.Machine

/-! ## The records as the laws read them -/

/-- What the laws read of the Flow Table. -/
def State.facts (s : State) : List (Nat × FlowSpec × Owner) := s.flows.map entryFacts

/-- A link is in a state in which a run may be under way (R50, R51). -/
def State.mayRun (s : State) (l : Link) : Prop := (s.link l).state = .qualifying ∨ (s.link l).state = .inService

/-- A link counts in the table of another state as it does in this one (R38, R71). -/
def CountedAlike (s u : State) : Prop := ∀ l, u.el l = s.el l ∧ u.inService l = s.inService l

/-- The allocation table is what a computation from the state's classes and links gave (R74 to R79). -/
def Fresh (u : State) : Prop := ∃ v : State, u.share.table = computeTable v ∧ v.cfg = u.cfg ∧ v.links = u.links

/-- The state with other classes, links, contexts and another table. -/
def State.withRecords (s : State) (k : Classes) (ls : PerLink LinkUnit) (q : PerLink Context) (t : AllocTable) : State :=
  { s with cfg := k, links := ls, qual := { s.qual with ctx := q }, share := { s.share with table := t } }

/-! ## Deeds -/

/-- Classes, links and contexts change, and the table with them: the classes keep their laws, a run that is under way was
under way, on a link that may run if it did, and the table is computed afresh or counts the links as they are. -/
structure Relinks (s u : State) : Prop where
  shares : shareSumLaw s → shareSumLaw u
  schedule : scheduleLaw s.cfg.schedule → scheduleLaw u.cfg.schedule
  ahead : ∀ e, e ∈ u.cfg.schedule → e ∈ s.cfg.schedule ∨ (s.time.valid = true → s.time.site.seconds < e.time)
  runs : ∀ l, (u.ctx l).underWay = true → (s.ctx l).underWay = true ∧ (s.mayRun l → u.mayRun l)
    ∧ (u.ctx l).slot = (s.ctx l).slot ∧ (u.ctx l).testKey = (s.ctx l).testKey
  gone : ∀ l, (s.ctx l).underWay = true → (u.ctx l).underWay = true ∨ ¬s.mayRun l
  table : Fresh u ∨ (u.share.table = s.share.table ∧ CountedAlike s u)

/-- The state with a run begun on a link, and its TEST_RETURN entry in a slot (R30, R144). -/
def State.runBegun (s : State) (l : Link) (n : Nat) (key : FlowKey) (x : LinkUnit) (c : Context) : State :=
  { s with links := s.links.set l x, qual := { s.qual with ctx := s.qual.ctx.set l c }
           flows := placeEntry n (testEntry key) s.flows }

/-- A run begins in RUNNING: no run was under way on the link, unless it was in a state in which none may be. -/
structure BeginsRun (l : Link) (n : Nat) (key : FlowKey) (x : LinkUnit) (c : Context) (s : State) : Prop where
  running : s.startup.state = .running
  idle : (s.ctx l).underWay = true → ¬s.mayRun l
  link : x.state = .qualifying ∨ x.state = .inService
  run : c.underWay = true ∧ c.slot = some n ∧ c.testKey = some key ∧ key.port = .bh l
  fresh : findKey key s.flows = none
  slot : lowestFree s.flows = some n
  alike : CountedAlike s (s.runBegun l n key x c)

/-- The state with the classes and the flow entries of a slot body (R172, R174). -/
def State.loaded (s : State) (b : SlotBody) (t : AllocTable) : State :=
  { s with cfg := b.classes, flows := loadedFlows b.flows, share := { s.share with table := t } }

/-- A command that can set site time (R114). -/
def maySetTime (c : Option Instr) : Prop :=
  (∃ h sel body, c = some (.setTime h sel body)) ∨ ∃ p bytes, c = some (.frameReceived p bytes) ∧ isRequest bytes = true

/-- Start-up has not reached RUNNING or FAULT (R174). -/
def StartState.early (x : StartState) : Prop := x = .reset ∨ x = .checking ∨ x = .loading

/-- The Time Unit changes within an event: what site time reaches has fired, or it went no further. -/
structure Times (c : Option Instr) (x : TimeUnit) (s : State) : Prop where
  servo : servoLaw s → servoLaw { s with time := x }
  valid : x.valid = s.time.valid ∨ (maySetTime c ∧ s.startup.state = .running ∧ x.valid = true)
  nanos : s.time.site.nanos < 1000000000 → x.site.nanos < 1000000000
  ahead : scheduleLaw s.cfg.schedule → s.time.site.nanos < 1000000000 → x.valid = true →
    (∀ e, e ∈ s.cfg.schedule → x.site.seconds < e.time) ∨ (s.time.valid = true ∧ x.site.seconds ≤ s.time.site.seconds)

/-- The clock of the empty queue goes on (R101, R102): what it reaches waits in the queue. -/
structure Idles (x : TimeUnit) (p : List Instr) (s : State) : Prop where
  empty : s.pending = []
  servo : x.servo = s.time.servo
  valid : x.valid = s.time.valid
  nanos : s.time.site.nanos < 1000000000 → x.site.nanos < 1000000000
  ahead : scheduleLaw s.cfg.schedule → (∀ e, e ∈ s.cfg.schedule → s.time.site.seconds < e.time) → x.valid = true →
    (∀ e, e ∈ s.cfg.schedule → x.site.seconds < e.time) ∨ Instr.scheduleFire ∈ p

/-- The store changes and keeps its law; the bodies that it holds are those it held, or the copy of a save begun now. -/
structure Stores (x : Store) (s : State) : Prop where
  law : StoreLaw s.store → StoreLaw x
  bodies : ∀ b, b ∈ storedBodies { s with store := x } → b ∈ storedBodies s ∨ b = bodyNow s

/-- What one step is made of, with the command it takes: none is the clock of the empty queue. Each kind says what
changes; nothing else that a law reads does. -/
inductive Deed (c : Option Instr) (s t : State) : Prop
  | sheds (h : Traffic s t) (stops : ∀ p, (t.port p).tx = (s.port p).tx ∨ (t.port p).tx = none)
  | relinks (k : Classes) (ls : PerLink LinkUnit) (q : PerLink Context) (x : AllocTable)
      (h : Relinks s (s.withRecords k ls q x)) (ht : CoreSame (s.withRecords k ls q x) t)
  | begins (l : Link) (n : Nat) (key : FlowKey) (x : LinkUnit) (r : Context) (h : BeginsRun l n key x r s)
      (ht : CoreSame (s.runBegun l n key x r) t)
  | ends (l : Link) (r : Context) (hrun : (s.ctx l).underWay = true) (hend : r.underWay = false)
      (ht : CoreSame { s with qual := { s.qual with ctx := s.qual.ctx.set l r }, flows := withoutTest l s } t)
  | tables (f : List (Nat × FlowEntry)) (law : flowLaw s.flows → flowLaw f)
      (tests : flowLaw s.flows →
        ∀ y : Nat × FlowSpec × Owner, y.2.2 = .test → (y ∈ f.map entryFacts ↔ y ∈ s.facts))
      (ht : CoreSame { s with flows := f } t)
  | loads (b : SlotBody) (x : AllocTable) (early : s.startup.state = .loading) (mem : b ∈ storedBodies s)
      (law : shareLaw b.classes.tenants b.classes.sets = true) (fresh : Fresh (s.loaded b x)) (ht : CoreSame (s.loaded b x) t)
  | times (x : TimeUnit) (h : Times c x s) (ht : CoreSame { s with time := x } t)
  | idles (x : TimeUnit) (p : List Instr) (h : Idles x p s) (ht : CoreSame { s with time := x, pending := p } t)
  | stores (x : Store) (h : Stores x s) (ht : CoreSame { s with store := x } t)
  | starts (x : Startup) (running : s.startup.state = .running → x.state = .running)
      (early : x.state.early → s.startup.state.early) (ht : CoreSame { s with startup := x } t)
  | retires (g : Nat) (off : s.startup.state ≠ .running)
      (ht : CoreSame { s with
        pool := { free := s.pool.free.filter (fun c => c / 256 != g), retired := insertGroup g s.pool.retired } } t)
  | refills (off : s.startup.state ≠ .running)
      (ht : CoreSame { s with pool := { s.pool with free := cellsWithout s.pool.retired } } t)

/-- Deeds one after another. -/
abbrev Deeds (c : Option Instr) : State → State → Prop := Relation.ReflTransGen (Deed c)

/-- One frame joins one queue, with cells of its own from the free ones (R12, R15). -/
structure QueueJoins (s t : State) : Prop extends RecordsSame s t where
  may : s.startup.state = .running ∨ ∃ l, (s.ctx l).underWay = true
  cells : ∀ c, t.pool.free.count c + cellsHeld c t = s.pool.free.count c + cellsHeld c s
  places : ∀ p, t.placesTaken p = s.placesTaken p
  tx : ∀ p, (t.port p).tx = (s.port p).tx
  tenant : ∀ i, t.tenantQ i = s.tenantQ i ∨ ∃ d, t.tenantQ i = s.tenantQ i ++ [d]
  timing : t.queues.timing = s.queues.timing ∨ ∃ d, t.queues.timing = s.queues.timing ++ [d]
  test : ∀ l, t.queues.test.get l = s.queues.test.get l
    ∨ ∃ d : Descriptor, t.queues.test.get l = s.queues.test.get l ++ [d] ∧ (d.cls = .test ∨ d.cls = .reflected)
  down : ∀ p, t.queues.down.get p = s.queues.down.get p ∨ ∃ d, t.queues.down.get p = s.queues.down.get p ++ [d]

/-- A slot body replaces the classes while no run is under way (R172): the table stands, or is computed from them. -/
structure Loads (s t : State) : Prop where
  idle : ∀ l, (s.ctx l).underWay = false
  body : ∃ b x, b ∈ storedBodies s ∧ shareLaw b.classes.tenants b.classes.sets = true
    ∧ (x = s.share.table ∨ Fresh (s.loaded b x)) ∧ CoreSame (s.loaded b x) t

/-- What a command does, before the departures that it calls for: deeds, with one frame joining a queue, a load and the
firing that ends it, or a reset among them. -/
inductive StepTaken (c : Option Instr) (s t : State) : Prop
  | plain (h : Deeds c s t)
  | joined (u v : State) (before : Deeds c s u) (h : QueueJoins u v) (after : Deeds c v t)
  | loaded (u v w : State) (before : Deeds c s u) (h : Loads u v) (between : Deeds c v w)
      (after : Deeds c (fireEntries (recompute w)) t)
  | resets (u : State) (k : ResetKind) (before : Deeds c s u) (h : CoreSame (hardReset k u) t)
      (power : k = .powerOn → c = some .powerOnReset)

/-! ## Recomputing and firing are deeds -/

theorem deeds_core {c : Option Instr} {s t : State} (h : CoreSame s t) : Deeds c s t :=
  .single (.sheds h.traffic fun p => .inl (h.tx p))

theorem deeds_sheds {c : Option Instr} {s t : State} (h : Traffic s t)
    (stops : ∀ p, (t.port p).tx = (s.port p).tx ∨ (t.port p).tx = none) : Deeds c s t := .single (.sheds h stops)

/-- Classes and links change, no context does, and the table is computed afresh or counts the links as they are. -/
theorem deeds_records {c : Option Instr} {s t : State} {k : Classes} {ls : PerLink LinkUnit} {x : AllocTable}
    (ht : CoreSame (s.withRecords k ls s.qual.ctx x) t)
    (shares : shareSumLaw s → shareLaw k.tenants k.sets = true)
    (schedule : scheduleLaw s.cfg.schedule → scheduleLaw k.schedule)
    (ahead : ∀ e, e ∈ k.schedule → e ∈ s.cfg.schedule ∨ (s.time.valid = true → s.time.site.seconds < e.time))
    (runs : ∀ l, (s.ctx l).underWay = true → s.mayRun l → (s.withRecords k ls s.qual.ctx x).mayRun l)
    (table : Fresh (s.withRecords k ls s.qual.ctx x)
      ∨ (x = s.share.table ∧ CountedAlike s (s.withRecords k ls s.qual.ctx x))) : Deeds c s t :=
  .single (.relinks k ls s.qual.ctx x
    { shares, schedule, ahead, table, runs := fun l h => ⟨h, runs l h, rfl, rfl⟩, gone := fun _ h => .inl h } ht)

/-- The table is computed (R74 to R79). -/
theorem core_recompute (s : State) : CoreSame (s.withRecords s.cfg s.links s.qual.ctx (computeTable s)) (recompute s) := by
  obtain ⟨d, e, x, h, _⟩ := recompute_shape s
  rw [h]
  exact ⟨⟨rfl, rfl, rfl, rfl, rfl, rfl, rfl, rfl, rfl, rfl⟩, rfl, fun _ => rfl, rfl⟩

theorem deeds_recompute {c : Option Instr} (s : State) : Deeds c s (recompute s) :=
  deeds_records (core_recompute s) (fun h => h) (fun h => h) (fun _ h => .inl h) (fun _ _ h => h) (.inl ⟨s, rfl, rfl, rfl⟩)

theorem waitingEntries_sublist (n : Nat) (t : List ScheduleEntry) : (waitingEntries n t).Sublist t :=
  List.dropWhile_sublist _

/-- Schedule entries leave from the front (R129). -/
theorem scheduleLaw_sublist {t u : List ScheduleEntry} (h : u.Sublist t) (k : scheduleLaw t) : scheduleLaw u :=
  List.Pairwise.sublist (h.map _) k

/-- Firing removes entries, makes a set active and computes, or does nothing (R132, R133). -/
theorem fireEntries_cases (s : State) :
    (s.time.valid = false ∧ fireEntries s = s)
    ∨ (s.time.valid = true ∧ waitingEntries s.time.site.seconds s.cfg.schedule = s.cfg.schedule ∧ fireEntries s = s)
    ∨ ∃ k x, (s.time.valid = true ∧ Fresh (s.withRecords
          { s.cfg with schedule := waitingEntries s.time.site.seconds s.cfg.schedule, activeSet := k } s.links s.qual.ctx x))
        ∧ CoreSame (s.withRecords
            { s.cfg with schedule := waitingEntries s.time.site.seconds s.cfg.schedule, activeSet := k } s.links s.qual.ctx x)
          (fireEntries s) := by
  unfold fireEntries
  split
  · next hvalid =>
    dsimp only
    split
    · next hnone =>
      refine .inr (.inl ⟨hvalid, ?_, rfl⟩)
      have hdue : dueEntries s.time.site.seconds s.cfg.schedule = [] := List.getLast?_eq_none_iff.1 hnone
      have happ := List.takeWhile_append_dropWhile (p := fun e : ScheduleEntry => decide (e.time ≤ s.time.site.seconds))
        (l := s.cfg.schedule)
      unfold dueEntries at hdue
      rw [hdue] at happ
      exact happ
    · next e he =>
      let u : State := setActive e.set { s.setSchedule (waitingEntries s.time.site.seconds s.cfg.schedule) with
        firing := { fired := s.firing.fired + BitVec.ofNat 32 (dueEntries s.time.site.seconds s.cfg.schedule).length
                    last := some (firingOf s (dueEntries s.time.site.seconds s.cfg.schedule).length e) } }
      refine .inr (.inr ⟨e.set, computeTable u, ⟨hvalid, u, rfl, rfl, rfl⟩, (CoreSame.trans ?_ (core_recompute u)).trans
        (core_raise _ _ _)⟩)
      generalize computeTable u = x
      exact ⟨⟨rfl, rfl, rfl, rfl, rfl, rfl, rfl, rfl, rfl, rfl⟩, rfl, fun _ => rfl, rfl⟩
  · next hvalid => exact .inl ⟨by simpa using hvalid, rfl⟩

theorem deeds_fireEntries {c : Option Instr} (s : State) : Deeds c s (fireEntries s) := by
  rcases fireEntries_cases s with ⟨_, h⟩ | ⟨_, _, h⟩ | ⟨k, x, ⟨_, hfresh⟩, h⟩
  · rw [h]
  · rw [h]
  · exact deeds_records h (fun h => h) (scheduleLaw_sublist (waitingEntries_sublist _ _))
      (fun e he => .inl ((waitingEntries_sublist _ _).subset he)) (fun _ _ h => h) (.inl hfresh)

/-! ## What deeds keep -/

theorem Deeds.keeps {c : Option Instr} {P : State → Prop} (hdeed : ∀ s t, Deed c s t → P s → P t) {s t : State}
    (h : Deeds c s t) : P s → P t := by
  induction h with
  | refl => exact id
  | tail _ hstep ih => exact fun hs => hdeed _ _ hstep (ih hs)

/-- What each kind of deed, a joining frame, a load and a reset keep, every step keeps before its departures. -/
theorem StepTaken.keeps {c : Option Instr} {P : State → Prop} (hdeed : ∀ s t, Deed c s t → P s → P t)
    (hjoin : ∀ s t, QueueJoins s t → P s → P t) (hload : ∀ s t, Loads s t → P s → P t)
    (hreset : ∀ s t k, (k = .powerOn → c = some .powerOnReset) → CoreSame (hardReset k s) t → P s → P t)
    {s t : State} (h : StepTaken c s t) (hs : P s) : P t := by
  cases h with
  | plain h => exact h.keeps hdeed hs
  | joined u v before h after => exact after.keeps hdeed (hjoin u v h (before.keeps hdeed hs))
  | loaded u v w before h between after =>
    refine after.keeps hdeed ((deeds_fireEntries _).keeps hdeed ((deeds_recompute w).keeps hdeed ?_))
    exact between.keeps hdeed (hload u v h (before.keeps hdeed hs))
  | resets u k before h power => exact hreset u t k power h (before.keeps hdeed hs)

end Sys2Proof.Machine
end

section
/-!
SUPPORT. The class laws and the laws of the runs (O56): every deed keeps them (R21, R22, R30, R65, R129, R141).
-/

namespace Sys2Proof.Machine

/-! ## The Flow Table's law by what the laws read (R21, R22) -/

theorem flowLaw_iff (t : List (Nat × FlowEntry)) :
    flowLaw t ↔ ((t.map entryFacts).map fun y => y.1).Pairwise (· < ·) ∧ ((t.map entryFacts).map fun y => y.2.1.key).Nodup := by
  rw [List.map_map, List.map_map]
  rfl

theorem lowestFreeFrom_le (n : Nat) (t : List (Nat × FlowEntry)) : n ≤ lowestFreeFrom n t := by
  induction t generalizing n with
  | nil => exact le_refl n
  | cons x rest ih =>
    unfold lowestFreeFrom
    split
    · exact (Nat.le_succ n).trans (ih (n + 1))
    · exact le_refl n

/-- In a table in ascending order the lowest free slot holds no entry (R21). -/
theorem lowestFreeFrom_notMem {n : Nat} {t : List (Nat × FlowEntry)} (h : (t.map fun x => x.1).Pairwise (· < ·))
    (hn : ∀ x ∈ t, n ≤ x.1) : ∀ x ∈ t, x.1 ≠ lowestFreeFrom n t := by
  induction t generalizing n with
  | nil => intro x hx; cases hx
  | cons y rest ih =>
    simp only [List.map_cons, List.pairwise_cons, List.mem_map, forall_exists_index, and_imp,
      forall_apply_eq_imp_iff₂] at h
    obtain ⟨hy, hrest⟩ := h
    unfold lowestFreeFrom
    split
    · next heq =>
      intro x hx
      rcases List.mem_cons.1 hx with rfl | hx
      · have := lowestFreeFrom_le (n + 1) rest
        omega
      · exact ih hrest (fun z hz => by have := hy z hz; omega) x hx
    · next hne =>
      have hlt : n < y.1 := lt_of_le_of_ne (hn y List.mem_cons_self) (Ne.symm hne)
      intro x hx
      rcases List.mem_cons.1 hx with rfl | hx
      · exact Ne.symm hlt.ne
      · exact Ne.symm (hlt.trans (hy x hx)).ne

theorem lowestFree_notMem {t : List (Nat × FlowEntry)} {n : Nat} (h : flowLaw t) (hn : lowestFree t = some n) :
    ∀ x ∈ t, x.1 ≠ n := by
  unfold lowestFree at hn
  dsimp only at hn
  split at hn
  · cases hn
    exact lowestFreeFrom_notMem h.1 fun _ _ => Nat.zero_le _
  · cases hn

theorem placeEntry_perm (n : Nat) (e : FlowEntry) (t : List (Nat × FlowEntry)) :
    (placeEntry n e t).Perm ((n, e) :: t) := by
  induction t with
  | nil => exact List.Perm.refl _
  | cons x rest ih =>
    unfold placeEntry
    split
    · exact List.Perm.refl _
    · exact (ih.cons x).trans (List.Perm.swap (n, e) x rest)

theorem placeEntry_sorted {n : Nat} {e : FlowEntry} {t : List (Nat × FlowEntry)}
    (h : (t.map fun x => x.1).Pairwise (· < ·)) (hn : ∀ x ∈ t, x.1 ≠ n) :
    ((placeEntry n e t).map fun x => x.1).Pairwise (· < ·) := by
  induction t with
  | nil => simp [placeEntry]
  | cons x rest ih =>
    have h' := h
    simp only [List.map_cons, List.pairwise_cons, List.mem_map, forall_exists_index, and_imp,
      forall_apply_eq_imp_iff₂] at h
    obtain ⟨hx, hrest⟩ := h
    unfold placeEntry
    split
    · next hlt =>
      rw [List.map_cons, List.pairwise_cons]
      refine ⟨fun m hm => ?_, h'⟩
      obtain ⟨y, hy, rfl⟩ := List.mem_map.1 hm
      rcases List.mem_cons.1 hy with rfl | hy
      · exact hlt
      · exact hlt.trans (hx y hy)
    · next hge =>
      rw [List.map_cons, List.pairwise_cons]
      refine ⟨fun m hm => ?_, ih hrest fun y hy => hn y (List.mem_cons_of_mem _ hy)⟩
      obtain ⟨y, hy, rfl⟩ := List.mem_map.1 hm
      rcases List.mem_cons.1 ((placeEntry_perm n e rest).mem_iff.1 hy) with rfl | hy
      · have := hn x List.mem_cons_self
        dsimp only
        omega
      · exact hx y hy

/-- An entry with a new key in the lowest free slot keeps the table's law (R21, R22, R25, R30). -/
theorem flowLaw_place {t : List (Nat × FlowEntry)} {n : Nat} {e : FlowEntry} (h : flowLaw t)
    (hn : lowestFree t = some n) (hk : findKey e.spec.key t = none) : flowLaw (placeEntry n e t) := by
  refine ⟨placeEntry_sorted h.1 (lowestFree_notMem h hn), ?_⟩
  rw [((placeEntry_perm n e t).map _).nodup_iff, List.map_cons, List.nodup_cons]
  refine ⟨fun hm => ?_, h.2⟩
  obtain ⟨x, hx, hxk⟩ := List.mem_map.1 hm
  unfold findKey at hk
  have := List.find?_eq_none.1 hk x hx
  simp [hxk] at this

/-- Entries removed keep the table's law (R26, R30). -/
theorem flowLaw_sublist {t u : List (Nat × FlowEntry)} (h : u.Sublist t) (k : flowLaw t) : flowLaw u :=
  ⟨k.1.sublist (h.map _), k.2.sublist (h.map _)⟩

/-! ## The slot bodies (R168, R171) -/

/-- What the laws ask of a slot body. -/
def BodyLaw (b : SlotBody) : Prop :=
  (b.flows.map fun x => x.1).Pairwise (· < ·) ∧ (b.flows.map fun x => x.2.key).Nodup
    ∧ scheduleLaw b.classes.schedule ∧ shareLaw b.classes.tenants b.classes.sets = true

theorem mem_storedBodies (b : SlotBody) (s : State) :
    b ∈ storedBodies s ↔ (∃ j, (tget s.store.slots j).body = some b)
      ∨ ∃ o k n, s.store.op = some o ∧ o.job = .saveSlot k b n := by
  unfold storedBodies
  rw [List.mem_append]
  refine or_congr ?_ ?_
  · simp only [List.mem_filterMap, Vector.mem_toList_iff, Vector.mem_iff_getElem]
    constructor
    · rintro ⟨_, ⟨i, hi, rfl⟩, h⟩
      exact ⟨⟨i, hi⟩, h⟩
    · rintro ⟨j, h⟩
      exact ⟨_, ⟨j.val, j.isLt, rfl⟩, h⟩
  · split
    · next o ho =>
      split
      · next k b' n hj =>
        rw [List.mem_singleton]
        constructor
        · rintro rfl
          exact ⟨o, k, n, ho, hj⟩
        · rintro ⟨o', k', n', ho', hj'⟩
          cases ho'.symm.trans ho
          cases hj'.symm.trans hj
          rfl
      · next hno =>
        constructor
        · intro h
          cases h
        · rintro ⟨o', k', n', ho', hj'⟩
          cases ho'.symm.trans ho
          exact absurd hj' (hno _ _ _)
    · next ho =>
      constructor
      · intro h
        cases h
      · rintro ⟨o', _, _, ho', _⟩
        cases ho'.symm.trans ho

/-- The management entries of a lawful table keep its order and its keys (R32). -/
theorem managementFlows_law {t : List (Nat × FlowEntry)} (h : flowLaw t) :
    ((managementFlows t).map fun x => x.1).Pairwise (· < ·) ∧ ((managementFlows t).map fun x => x.2.key).Nodup := by
  have hsub := flowLaw_sublist List.filter_sublist h (u := t.filter fun x => decide (x.2.owner = .management))
  unfold managementFlows
  rw [List.map_map, List.map_map]
  exact hsub

theorem bodyNow_law {s : State} (h : ClassLaws s) : BodyLaw (bodyNow s) := by
  obtain ⟨hflow, hsched, hshare, _⟩ := h
  obtain ⟨hslots, hkeys⟩ := managementFlows_law hflow
  exact ⟨hslots, hkeys, hsched, hshare⟩

/-- A loaded body gives a lawful table (R33). -/
theorem loadedFlows_law {b : SlotBody} (h : BodyLaw b) : flowLaw (loadedFlows b.flows) := by
  obtain ⟨hslots, hkeys, _⟩ := h
  unfold flowLaw loadedFlows
  rw [List.map_map, List.map_map]
  exact ⟨hslots, hkeys⟩

theorem classLaws_of {s t : State} (hflows : t.facts = s.facts) (hcfg : t.cfg = s.cfg) (hstore : t.store = s.store)
    (k : ClassLaws s) : ClassLaws t := by
  obtain ⟨hflow, hsched, hshare, hbodies⟩ := k
  refine ⟨?_, ?_, ?_, fun b hb => hbodies b ?_⟩
  · rw [flowLaw_iff] at hflow ⊢
    unfold State.facts at hflows
    rw [hflows]
    exact hflow
  · rw [hcfg]
    exact hsched
  · unfold shareSumLaw
    rw [hcfg]
    exact hshare
  · rw [mem_storedBodies] at hb ⊢
    rw [hstore] at hb
    exact hb

theorem RecordsSame.classLaws {s t : State} (h : RecordsSame s t) (k : ClassLaws s) : ClassLaws t :=
  classLaws_of h.flows h.cfg h.store k

/-- A body that the device holds replaces the classes lawfully (R172, R174). -/
theorem classLaws_loaded {s : State} {b : SlotBody} (x : AllocTable) (k : ClassLaws s) (hb : b ∈ storedBodies s) :
    ClassLaws (s.loaded b x) := by
  obtain ⟨_, _, _, hbodies⟩ := k
  have hlaw : BodyLaw b := hbodies b hb
  exact ⟨loadedFlows_law hlaw, hlaw.2.2.1, hlaw.2.2.2, hbodies⟩

theorem withoutTest_sublist (l : Link) (s : State) : (withoutTest l s).Sublist s.flows := List.filter_sublist

theorem Deed.classLaws {c : Option Instr} {s t : State} (h : Deed c s t) (k : ClassLaws s) : ClassLaws t := by
  have ⟨hflow, hsched, hshare, hbodies⟩ := k
  cases h with
  | sheds h _ => exact h.toRecordsSame.classLaws k
  | relinks _ _ _ _ h ht => exact ht.classLaws ⟨hflow, h.schedule hsched, h.shares hshare, hbodies⟩
  | begins _ _ _ _ _ h ht => exact ht.classLaws ⟨flowLaw_place hflow h.slot h.fresh, hsched, hshare, hbodies⟩
  | ends l _ _ _ ht => exact ht.classLaws ⟨flowLaw_sublist (withoutTest_sublist l s) hflow, hsched, hshare, hbodies⟩
  | tables _ law _ ht => exact ht.classLaws ⟨law hflow, hsched, hshare, hbodies⟩
  | loads b x _ mem _ _ ht => exact ht.classLaws (classLaws_loaded x k mem)
  | times _ _ ht => exact ht.classLaws (classLaws_of (s := s) rfl rfl rfl k)
  | idles _ _ _ ht => exact ht.classLaws (classLaws_of (s := s) rfl rfl rfl k)
  | stores _ h ht =>
    refine ht.classLaws ⟨hflow, hsched, hshare, fun b hb => ?_⟩
    rcases h.bodies b hb with hb | rfl
    · exact hbodies b hb
    · exact bodyNow_law k
  | starts _ _ _ ht => exact ht.classLaws (classLaws_of (s := s) rfl rfl rfl k)
  | retires _ _ ht => exact ht.classLaws (classLaws_of (s := s) rfl rfl rfl k)
  | refills _ ht =>
    generalize cellsWithout s.pool.retired = free at ht
    exact ht.classLaws (classLaws_of (s := s) rfl rfl rfl k)

/-! ## Resets keep the bodies of the slots (R169, R176) -/

theorem cutSlot_body {left : EraseLeftover} {x : SlotImage} {b : SlotBody} (h : (cutSlot left x).body = some b) :
    x.body = some b := by
  unfold cutSlot at h
  split at h
  · exact h
  · cases left <;> cases h

theorem mem_body_updSlot {s : State} {k j : Fin 4} {f : SlotImage → SlotImage} {b : SlotBody}
    (hf : ∀ x, (f x).body = some b → x.body = some b) (h : (tget (updSlot k f s).store.slots j).body = some b) :
    (tget s.store.slots j).body = some b := by
  change (tget (tset s.store.slots k (f (tget s.store.slots k))) j).body = some b at h
  rw [tget_tset] at h
  split at h
  · next hj =>
    subst hj
    exact hf _ h
  · exact h

/-- The bodies of the slots after a reset are bodies of slots before it (R169). -/
theorem cutOp_body {s : State} {j : Fin 4} {b : SlotBody} (h : (tget (cutOp s).store.slots j).body = some b) :
    (tget s.store.slots j).body = some b := by
  unfold cutOp at h
  split at h
  · next o _ =>
    cases hphase : o.phase with
    | erase =>
      rw [hphase] at h
      cases hjob : o.job with
      | eraseSlot k =>
        rw [hjob] at h
        exact mem_body_updSlot (s := { s with freeCount := s.freeCount + 1 + 1 }) (fun x => cutSlot_body) h
      | _ => rw [hjob] at h; exact h
    | program =>
      rw [hphase] at h
      cases hjob : o.job with
      | saveSlot k _ _ =>
        rw [hjob] at h
        exact mem_body_updSlot (s := { s with freeCount := s.freeCount + 1 })
          (f := fun x => { x with erased := false, marker := if o.done + 1 = o.total then markerCut s.freeCount else x.marker })
          (fun x hx => hx) h
      | invalidateSlot k =>
        rw [hjob] at h
        exact mem_body_updSlot (s := { s with freeCount := s.freeCount + 1 })
          (f := fun x => { x with erased := false, marker := damagedMarker (Config.cutMarker s.freeCount) })
          (fun x hx => hx) h
      | _ => rw [hjob] at h; exact h
    | recovery =>
      rw [hphase] at h
      exact h
  · exact h

theorem classLaws_hardReset {s : State} (k : ResetKind) (h : ClassLaws s) : ClassLaws (hardReset k s) := by
  obtain ⟨_, _, _, hbodies⟩ := h
  obtain ⟨hflow, hsched, hshare, _⟩ := classLaws_reset
  have hcfg : (hardReset k s).cfg = State.reset.cfg := rfl
  refine ⟨hflow, by rw [hcfg]; exact hsched, by unfold shareSumLaw; rw [hcfg]; exact hshare, fun b hb => hbodies b ?_⟩
  rw [mem_storedBodies] at hb ⊢
  rcases hb with ⟨j, hj⟩ | ⟨o, _, _, ho, _⟩
  · exact .inl ⟨j, cutOp_body hj⟩
  · cases ho

theorem QueueJoins.classLaws {s t : State} (h : QueueJoins s t) (k : ClassLaws s) : ClassLaws t := h.toRecordsSame.classLaws k

theorem Loads.classLaws {s t : State} (h : Loads s t) (k : ClassLaws s) : ClassLaws t := by
  obtain ⟨b, x, mem, _, _, ht⟩ := h.body
  exact ht.classLaws (classLaws_loaded x k mem)

/-! ## The runs and their entries (R30, R50, R51, R141) -/

/-- Runs are under way in RUNNING only (R141, R174). -/
def RunsRunning (s : State) : Prop := s.startup.state ≠ .running → ∀ l, (s.ctx l).underWay = false

/-- A run under way has its TEST_RETURN entry, by what the laws read of the table (R30, R144). -/
def HasEntry (s : State) (l : Link) : Prop :=
  ∃ n x, (s.ctx l).slot = some n ∧ (n, x, Owner.test) ∈ s.facts ∧ x.action = .testReturn ∧ (s.ctx l).testKey = some x.key
    ∧ x.key.port = .bh l

/-- The laws of the runs by what they read. -/
structure RunLaw (s : State) : Prop where
  running : RunsRunning s
  may : ∀ l, (s.ctx l).underWay = true → s.mayRun l
  entry : ∀ l, (s.ctx l).underWay = true → HasEntry s l
  owned : ∀ y, y ∈ s.facts → y.2.2 = .test → ∃ l, (s.ctx l).underWay = true ∧ (s.ctx l).slot = some y.1

theorem mem_facts {s : State} {n : Nat} {x : FlowSpec} {o : Owner} :
    (n, x, o) ∈ s.facts ↔ ∃ e, (n, e) ∈ s.flows ∧ e.spec = x ∧ e.owner = o := by
  unfold State.facts
  rw [List.mem_map]
  constructor
  · rintro ⟨⟨m, e⟩, he, heq⟩
    cases heq
    exact ⟨e, he, rfl, rfl⟩
  · rintro ⟨e, he, rfl, rfl⟩
    exact ⟨(n, e), he, rfl⟩

theorem testLaw_iff (s : State) : TestLaw s ↔ RunLaw s := by
  constructor
  · rintro ⟨hrun, hentry, howned⟩
    refine ⟨hrun, fun l hl => (hentry l hl).1, fun l hl => ?_, fun y hy ho => ?_⟩
    · obtain ⟨_, n, e, hslot, hmem, howner, hact, hkey, hport⟩ := hentry l hl
      exact ⟨n, e.spec, hslot, mem_facts.2 ⟨e, hmem, rfl, howner⟩, hact, hkey, hport⟩
    · obtain ⟨e, hmem, _, howner⟩ := mem_facts.1 (show (y.1, y.2.1, y.2.2) ∈ s.facts from hy)
      exact howned (y.1, e) hmem (howner.trans ho)
  · rintro ⟨hrun, hmay, hentry, howned⟩
    refine ⟨hrun, fun l hl => ⟨hmay l hl, ?_⟩, fun x hx ho => ?_⟩
    · obtain ⟨n, x, hslot, hmem, hact, hkey, hport⟩ := hentry l hl
      obtain ⟨e, hflow, rfl, howner⟩ := mem_facts.1 hmem
      exact ⟨n, e, hslot, hflow, howner, hact, hkey, hport⟩
    · exact howned (entryFacts x) (List.mem_map_of_mem hx) ho

theorem RecordsSame.ctx {s t : State} (h : RecordsSame s t) (l : Link) : t.ctx l = s.ctx l := by
  unfold State.ctx
  rw [h.runs]

theorem RecordsSame.mayRun {s t : State} (h : RecordsSame s t) (l : Link) : t.mayRun l ↔ s.mayRun l := by
  unfold State.mayRun State.link
  rw [h.links]

theorem RecordsSame.runsRunning {s t : State} (h : RecordsSame s t) (k : RunsRunning s) : RunsRunning t := by
  intro hs l
  rw [h.ctx]
  rw [h.startup] at hs
  exact k hs l

theorem RecordsSame.runLaw {s t : State} (h : RecordsSame s t) (k : RunLaw s) : RunLaw t where
  running := h.runsRunning k.running
  may l hl := by
    rw [h.ctx] at hl
    exact (h.mayRun l).2 (k.may l hl)
  entry l hl := by
    rw [h.ctx] at hl
    have hent := k.entry l hl
    unfold HasEntry State.facts at hent ⊢
    rw [h.ctx, h.flows]
    exact hent
  owned y hy ho := by
    unfold State.facts at hy
    rw [h.flows] at hy
    obtain ⟨l, hl⟩ := k.owned y hy ho
    exact ⟨l, by rw [h.ctx]; exact hl⟩

end Sys2Proof.Machine
end

section
/-!
SUPPORT. The law of the runs and their TEST_RETURN entries (O56): every deed keeps it (R30, R50, R51, R141).
-/

namespace Sys2Proof.Machine

/-- Runs with the contexts, links and entries that the law reads (R141). -/
theorem runLaw_of {s t : State} (hfacts : t.facts = s.facts) (hctx : t.qual.ctx = s.qual.ctx) (hlinks : t.links = s.links)
    (hrun : s.startup.state = .running → t.startup.state = .running) (k : RunLaw s) : RunLaw t := by
  have hc : ∀ l, t.ctx l = s.ctx l := fun l => by unfold State.ctx; rw [hctx]
  have hm : ∀ l, t.mayRun l ↔ s.mayRun l := fun l => by unfold State.mayRun State.link; rw [hlinks]
  refine ⟨fun ht l => ?_, fun l hl => ?_, fun l hl => ?_, fun y hy ho => ?_⟩
  · rw [hc]
    exact k.running (fun h => ht (hrun h)) l
  · rw [hc] at hl
    exact (hm l).2 (k.may l hl)
  · rw [hc] at hl
    have hent := k.entry l hl
    unfold HasEntry at hent ⊢
    rw [hc, hfacts]
    exact hent
  · rw [hfacts] at hy
    obtain ⟨l, hl⟩ := k.owned y hy ho
    exact ⟨l, by rw [hc]; exact hl⟩

/-- No run is under way and no entry is a TEST entry. -/
theorem runLaw_idle {s : State} (hidle : ∀ l, (s.ctx l).underWay = false) (hfacts : ∀ y, y ∈ s.facts → y.2.2 ≠ .test) :
    RunLaw s :=
  have hno : ∀ l, (s.ctx l).underWay ≠ true := fun l hl => Bool.false_ne_true ((hidle l).symm.trans hl)
  ⟨fun _ => hidle, fun l hl => absurd hl (hno l), fun l hl => absurd hl (hno l), fun y hy ho => absurd ho (hfacts y hy)⟩

theorem loadedFlows_facts (t : List (Nat × FlowSpec)) : ∀ y, y ∈ (loadedFlows t).map entryFacts → y.2.2 ≠ .test := by
  intro y hy
  unfold loadedFlows at hy
  rw [List.map_map] at hy
  obtain ⟨x, _, rfl⟩ := List.mem_map.1 hy
  intro h
  cases h

theorem runLaw_relinks {s : State} {c : Classes} {ls : PerLink LinkUnit} {q : PerLink Context} {x : AllocTable}
    (h : Relinks s (s.withRecords c ls q x)) (k : RunLaw s) : RunLaw (s.withRecords c ls q x) := by
  refine ⟨fun ht l => ?_, fun l hl => ?_, fun l hl => ?_, fun y hy ho => ?_⟩
  · cases hu : ((s.withRecords c ls q x).ctx l).underWay with
    | false => rfl
    | true =>
      have := k.running ht l
      rw [(h.runs l hu).1] at this
      cases this
  · obtain ⟨hrun, hmay, _⟩ := h.runs l hl
    exact hmay (k.may l hrun)
  · obtain ⟨hrun, _, hslot, hkey⟩ := h.runs l hl
    have hent := k.entry l hrun
    unfold HasEntry at hent ⊢
    rw [hslot, hkey]
    exact hent
  · obtain ⟨l, hrun, hslot⟩ := k.owned y hy ho
    have hu := (h.gone l hrun).resolve_right fun hno => hno (k.may l hrun)
    exact ⟨l, hu, (h.runs l hu).2.2.1.trans hslot⟩

/-- The entries of the table with one placed (R30). -/
theorem mem_facts_runBegun {s : State} {l : Link} {n : Nat} {key : FlowKey} {x : LinkUnit} {c : Context}
    (y : Nat × FlowSpec × Owner) :
    y ∈ (s.runBegun l n key x c).facts ↔ y = (n, (testEntry key).spec, Owner.test) ∨ y ∈ s.facts := by
  have hperm := (placeEntry_perm n (testEntry key) s.flows).map entryFacts
  rw [show (s.runBegun l n key x c).facts = (placeEntry n (testEntry key) s.flows).map entryFacts from rfl,
    hperm.mem_iff, List.map_cons, List.mem_cons]
  rfl

theorem ctx_runBegun {s : State} {l : Link} {n : Nat} {key : FlowKey} {x : LinkUnit} {c : Context} (k : Link) :
    (s.runBegun l n key x c).ctx k = if k = l then c else s.ctx k := PerLink.get_set _ _ _ _

theorem link_runBegun {s : State} {l : Link} {n : Nat} {key : FlowKey} {x : LinkUnit} {c : Context} (k : Link) :
    (s.runBegun l n key x c).link k = if k = l then x else s.link k := PerLink.get_set _ _ _ _

theorem runLaw_begins {s : State} {l : Link} {n : Nat} {key : FlowKey} {x : LinkUnit} {c : Context}
    (h : BeginsRun l n key x c s) (k : RunLaw s) : RunLaw (s.runBegun l n key x c) := by
  have hidle : (s.ctx l).underWay = false := by
    cases hu : (s.ctx l).underWay with
    | false => rfl
    | true => exact absurd (k.may l hu) (h.idle hu)
  obtain ⟨hrun, hslot, hkey, hport⟩ := h.run
  refine ⟨fun ht => absurd h.running ht, fun m hm => ?_, fun m hm => ?_, fun y hy ho => ?_⟩
  · unfold State.mayRun
    rw [ctx_runBegun] at hm
    rw [link_runBegun]
    split
    · exact h.link
    · next hne =>
      rw [if_neg hne] at hm
      exact k.may m hm
  · unfold HasEntry
    rw [ctx_runBegun] at hm ⊢
    split
    · next heq => exact ⟨n, _, hslot, (mem_facts_runBegun _).2 (.inl rfl), rfl, hkey, heq ▸ hport⟩
    · next hne =>
      rw [if_neg hne] at hm
      obtain ⟨n', x', h1, h2, h3⟩ := k.entry m hm
      exact ⟨n', x', h1, (mem_facts_runBegun _).2 (.inr h2), h3⟩
  · rcases (mem_facts_runBegun y).1 hy with rfl | hy
    · exact ⟨l, by rw [ctx_runBegun, if_pos rfl]; exact ⟨hrun, hslot⟩⟩
    · obtain ⟨m, hm, hms⟩ := k.owned y hy ho
      have hne : m ≠ l := fun heq => by
        rw [heq, hidle] at hm
        cases hm
      exact ⟨m, by rw [ctx_runBegun, if_neg hne]; exact ⟨hm, hms⟩⟩

/-- In a lawful table a slot holds one entry (R21). -/
theorem facts_unique {s : State} (h : flowLaw s.flows) {n : Nat} {x y : FlowSpec × Owner} (hx : (n, x) ∈ s.facts)
    (hy : (n, y) ∈ s.facts) : x = y := by
  have hnodup : (s.facts.map fun z => z.1).Nodup := ((flowLaw_iff s.flows).1 h).1.imp fun hlt => hlt.ne
  exact (Prod.ext_iff.1 (List.inj_on_of_nodup_map hnodup hx hy rfl)).2

theorem mem_facts_withoutTest {s : State} {l : Link} {q : Qual} (y : Nat × FlowSpec × Owner) :
    y ∈ ({ s with qual := q, flows := withoutTest l s } : State).facts
      ↔ y ∈ s.facts ∧ ¬(some y.1 = (s.ctx l).slot ∧ y.2.2 = .test) := by
  unfold State.facts withoutTest
  simp only [List.mem_map, List.mem_filter, Bool.not_eq_true', Bool.and_eq_false_iff, beq_eq_false_iff_ne,
    decide_eq_false_iff_not]
  constructor
  · rintro ⟨x, ⟨hx, hne⟩, rfl⟩
    exact ⟨⟨x, hx, rfl⟩, fun hboth => hne.elim (fun h => h hboth.1) fun h => h hboth.2⟩
  · rintro ⟨⟨x, hx, rfl⟩, hne⟩
    exact ⟨x, ⟨hx, not_and_or.1 hne⟩, rfl⟩

theorem runLaw_ends {s : State} {l : Link} {r : Context} (hrun : (s.ctx l).underWay = true) (hend : r.underWay = false)
    (hflow : flowLaw s.flows) (k : RunLaw s) :
    RunLaw { s with qual := { s.qual with ctx := s.qual.ctx.set l r }, flows := withoutTest l s } := by
  have hctx : ∀ m, ({ s with qual := { s.qual with ctx := s.qual.ctx.set l r }, flows := withoutTest l s } : State).ctx m
      = if m = l then r else s.ctx m := fun m => PerLink.get_set _ _ _ _
  have hold : ∀ m, (({ s with qual := { s.qual with ctx := s.qual.ctx.set l r }, flows := withoutTest l s } : State).ctx
      m).underWay = true → m ≠ l ∧ (s.ctx m).underWay = true := fun m hm => by
    rw [hctx] at hm
    split at hm
    · rw [hend] at hm
      cases hm
    · next hne => exact ⟨hne, hm⟩
  refine ⟨fun ht m => ?_, fun m hm => k.may m (hold m hm).2, fun m hm => ?_, fun y hy ho => ?_⟩
  · rw [hctx]
    split
    · exact hend
    · exact k.running ht m
  · obtain ⟨hne, hm⟩ := hold m hm
    obtain ⟨n, x, hslot, hmem, hact, hkey, hport⟩ := k.entry m hm
    obtain ⟨n', x', hslot', hmem', _, _, hport'⟩ := k.entry l hrun
    unfold HasEntry
    rw [hctx, if_neg hne]
    refine ⟨n, x, hslot, (mem_facts_withoutTest _).2 ⟨hmem, fun hboth => hne ?_⟩, hact, hkey, hport⟩
    have hn : n = n' := Option.some.inj (hboth.1.trans hslot')
    subst hn
    have hx := congrArg Prod.fst (facts_unique hflow hmem hmem')
    dsimp only at hx
    rw [hx, hport'] at hport
    cases hport
    rfl
  · obtain ⟨hy, hne⟩ := (mem_facts_withoutTest y).1 hy
    obtain ⟨m, hm, hms⟩ := k.owned y hy ho
    have hml : m ≠ l := fun heq => hne ⟨by rw [← heq, hms], ho⟩
    exact ⟨m, by rw [hctx, if_neg hml]; exact ⟨hm, hms⟩⟩

theorem runLaw_tables {s : State} {f : List (Nat × FlowEntry)}
    (tests : ∀ y : Nat × FlowSpec × Owner, y.2.2 = .test → (y ∈ f.map entryFacts ↔ y ∈ s.facts)) (k : RunLaw s) :
    RunLaw { s with flows := f } := by
  refine ⟨k.running, k.may, fun l hl => ?_, fun y hy ho => k.owned y ((tests y ho).1 hy) ho⟩
  obtain ⟨n, x, hslot, hmem, hrest⟩ := k.entry l hl
  exact ⟨n, x, hslot, (tests _ rfl).2 hmem, hrest⟩

theorem Deed.runLaw {c : Option Instr} {s t : State} (h : Deed c s t) (hc : ClassLaws s) (k : RunLaw s) : RunLaw t := by
  cases h with
  | sheds h _ => exact h.toRecordsSame.runLaw k
  | relinks _ _ _ _ h ht => exact ht.runLaw (runLaw_relinks h k)
  | begins _ _ _ _ _ h ht => exact ht.runLaw (runLaw_begins h k)
  | ends _ _ hrun hend ht => exact ht.runLaw (runLaw_ends hrun hend hc.1 k)
  | tables _ _ tests ht => exact ht.runLaw (runLaw_tables (tests hc.1) k)
  | loads b x early _ _ _ ht =>
    refine ht.runLaw (runLaw_idle ?_ (loadedFlows_facts b.flows))
    exact k.running (by rw [early]; decide)
  | times _ _ ht => exact ht.runLaw (runLaw_of (s := s) rfl rfl rfl id k)
  | idles _ _ _ ht => exact ht.runLaw (runLaw_of (s := s) rfl rfl rfl id k)
  | stores _ _ ht => exact ht.runLaw (runLaw_of (s := s) rfl rfl rfl id k)
  | starts _ running _ ht => exact ht.runLaw (runLaw_of (s := s) rfl rfl rfl running k)
  | retires _ _ ht => exact ht.runLaw (runLaw_of (s := s) rfl rfl rfl id k)
  | refills _ ht =>
    generalize cellsWithout s.pool.retired = free at ht
    exact ht.runLaw (runLaw_of (s := s) rfl rfl rfl id k)

theorem Loads.runLaw {s t : State} (h : Loads s t) : RunLaw t := by
  obtain ⟨b, x, _, _, _, ht⟩ := h.body
  exact ht.runLaw (runLaw_idle h.idle (loadedFlows_facts b.flows))

theorem runLaw_hardReset (k : ResetKind) (s : State) : RunLaw (hardReset k s) :=
  runLaw_idle (fun l => by cases l <;> rfl) fun y hy => by cases hy

/-! ## Runs in RUNNING only, by itself -/

theorem Deed.runsRunning {c : Option Instr} {s t : State} (h : Deed c s t) (k : RunsRunning s) : RunsRunning t := by
  cases h with
  | sheds h _ => exact h.toRecordsSame.runsRunning k
  | relinks cl ls q x h ht =>
    refine ht.runsRunning fun hs l => ?_
    cases hu : ((s.withRecords cl ls q x).ctx l).underWay with
    | false => rfl
    | true =>
      have := k hs l
      rw [(h.runs l hu).1] at this
      cases this
  | begins _ _ _ _ _ h ht => exact ht.runsRunning fun hs => absurd h.running hs
  | ends l r hrun _ ht => exact ht.runsRunning fun hs => absurd ((k hs l).symm.trans hrun) (by decide)
  | tables _ _ _ ht => exact ht.runsRunning k
  | loads _ _ _ _ _ _ ht => exact ht.runsRunning k
  | times _ _ ht => exact ht.runsRunning k
  | idles _ _ _ ht => exact ht.runsRunning k
  | stores _ _ ht => exact ht.runsRunning k
  | starts _ running _ ht => exact ht.runsRunning fun hs => k fun h => hs (running h)
  | retires _ _ ht => exact ht.runsRunning k
  | refills _ ht =>
    generalize cellsWithout s.pool.retired = free at ht
    exact ht.runsRunning k

theorem Loads.runsRunning {s t : State} (h : Loads s t) : RunsRunning t := h.runLaw.running

/-! ## Every command -/

theorem StepTaken.classLaws {c : Option Instr} {s t : State} (h : StepTaken c s t) (k : ClassLaws s) : ClassLaws t :=
  h.keeps (fun _ _ => Deed.classLaws) (fun _ _ => QueueJoins.classLaws) (fun _ _ => Loads.classLaws)
    (fun _ _ kind _ hr hs => hr.classLaws (classLaws_hardReset kind hs)) k

theorem StepTaken.runLaw {c : Option Instr} {s t : State} (h : StepTaken c s t) (hc : ClassLaws s) (k : RunLaw s) :
    RunLaw t :=
  (h.keeps (P := fun u => ClassLaws u ∧ RunLaw u) (fun _ _ hd hs => ⟨hd.classLaws hs.1, hd.runLaw hs.1 hs.2⟩)
    (fun _ _ hj hs => ⟨hj.classLaws hs.1, hj.toRecordsSame.runLaw hs.2⟩) (fun _ _ hl hs => ⟨hl.classLaws hs.1, hl.runLaw⟩)
    (fun s _ kind _ hr hs => ⟨hr.classLaws (classLaws_hardReset kind hs.1), hr.runLaw (runLaw_hardReset kind s)⟩)
    ⟨hc, k⟩).2

end Sys2Proof.Machine
end

section
/-!
SUPPORT. The laws of time (O56, O58) and of the retired groups (O59): every deed keeps them (R16, R102, R103, R110, R129,
R132).
-/

namespace Sys2Proof.Machine

/-! ## Site time and the schedule (R103, R129, R132) -/

/-- Site time is not valid before RUNNING or FAULT (R103). -/
def EarlyInvalid (s : State) : Prop := s.startup.state.early → s.time.valid = false

/-- Every entry lies ahead of valid site time, or the firing of those it has reached waits (R129, R132). -/
def EntriesAhead (s : State) : Prop :=
  s.time.valid = true → (∀ e, e ∈ s.cfg.schedule → s.time.site.seconds < e.time) ∨ Instr.scheduleFire ∈ s.pending

theorem scheduleAhead_iff (s : State) : ScheduleAhead s ↔ EarlyInvalid s ∧ EntriesAhead s := Iff.rfl

/-- What the order of the schedule rests on, beside the entries themselves. -/
structure ClockLaw (s : State) : Prop where
  classes : ClassLaws s
  nanos : s.time.site.nanos < 1000000000
  early : EarlyInvalid s

theorem RecordsSame.nanos {s t : State} (h : RecordsSame s t) (k : s.time.site.nanos < 1000000000) :
    t.time.site.nanos < 1000000000 := by
  rw [h.time]
  exact k

theorem RecordsSame.early {s t : State} (h : RecordsSame s t) (k : EarlyInvalid s) : EarlyInvalid t := by
  intro ht
  rw [h.startup] at ht
  rw [h.time]
  exact k ht

theorem RecordsSame.entriesAhead {s t : State} (h : RecordsSame s t) (k : EntriesAhead s) : EntriesAhead t := by
  intro hv
  rw [h.time] at hv
  rw [h.cfg, h.time, h.pending]
  exact k hv

theorem RecordsSame.clockLaw {s t : State} (h : RecordsSame s t) (k : ClockLaw s) : ClockLaw t :=
  ⟨h.classLaws k.classes, h.nanos k.nanos, h.early k.early⟩

theorem Deed.nanos {c : Option Instr} {s t : State} (h : Deed c s t) (k : s.time.site.nanos < 1000000000) :
    t.time.site.nanos < 1000000000 := by
  cases h with
  | sheds h _ => exact h.toRecordsSame.nanos k
  | relinks _ _ _ _ _ ht => exact ht.nanos k
  | begins _ _ _ _ _ _ ht => exact ht.nanos k
  | ends _ _ _ _ ht => exact ht.nanos k
  | tables _ _ _ ht => exact ht.nanos k
  | loads _ _ _ _ _ _ ht => exact ht.nanos k
  | times _ h ht => exact ht.nanos (h.nanos k)
  | idles _ _ h ht => exact ht.nanos (h.nanos k)
  | stores _ _ ht => exact ht.nanos k
  | starts _ _ _ ht => exact ht.nanos k
  | retires _ _ ht => exact ht.nanos k
  | refills _ ht => exact ht.nanos k

theorem Deed.early {c : Option Instr} {s t : State} (h : Deed c s t) (k : EarlyInvalid s) : EarlyInvalid t := by
  cases h with
  | sheds h _ => exact h.toRecordsSame.early k
  | relinks _ _ _ _ _ ht => exact ht.early k
  | begins _ _ _ _ _ _ ht => exact ht.early k
  | ends _ _ _ _ ht => exact ht.early k
  | tables _ _ _ ht => exact ht.early k
  | loads _ _ _ _ _ _ ht => exact ht.early k
  | times x h ht =>
    refine ht.early fun he => ?_
    rcases h.valid with hv | ⟨_, hrun, _⟩
    · exact hv.trans (k he)
    · have he' : s.startup.state.early := he
      unfold StartState.early at he'
      rw [hrun] at he'
      rcases he' with h | h | h <;> cases h
  | idles x p h ht => exact ht.early fun he => h.valid.trans (k he)
  | stores _ _ ht => exact ht.early k
  | starts _ _ early ht => exact ht.early fun he => k (early he)
  | retires _ _ ht => exact ht.early k
  | refills _ ht =>
    generalize cellsWithout s.pool.retired = free at ht
    exact ht.early k

theorem Deed.clockLaw {c : Option Instr} {s t : State} (h : Deed c s t) (k : ClockLaw s) : ClockLaw t :=
  ⟨h.classLaws k.classes, h.nanos k.nanos, h.early k.early⟩

theorem Deed.entriesAhead {c : Option Instr} {s t : State} (h : Deed c s t) (hc : ClockLaw s) (k : EntriesAhead s) :
    EntriesAhead t := by
  cases h with
  | sheds h _ => exact h.toRecordsSame.entriesAhead k
  | relinks cl ls q x h ht =>
    refine ht.entriesAhead fun hv => (k hv).imp (fun hall e he => ?_) id
    exact (h.ahead e he).elim (hall e) fun hnew => hnew hv
  | begins _ _ _ _ _ _ ht => exact ht.entriesAhead k
  | ends _ _ _ _ ht => exact ht.entriesAhead k
  | tables _ _ _ ht => exact ht.entriesAhead k
  | loads b x early _ _ _ ht =>
    refine ht.entriesAhead fun hv => ?_
    have hno : s.time.valid = false := hc.early (.inr (.inr early))
    exact absurd (hno.symm.trans hv) (by decide)
  | times x h ht =>
    refine ht.entriesAhead fun hv => ?_
    rcases h.ahead hc.classes.2.1 hc.nanos hv with hall | ⟨hsv, hle⟩
    · exact .inl hall
    · exact (k hsv).imp (fun hall e he => lt_of_le_of_lt hle (hall e he)) id
  | idles x p h ht =>
    refine ht.entriesAhead fun hv => ?_
    refine h.ahead hc.classes.2.1 ((k (h.valid.symm.trans hv)).resolve_right ?_) hv
    rw [h.empty]
    exact List.not_mem_nil
  | stores _ _ ht => exact ht.entriesAhead k
  | starts _ _ _ ht => exact ht.entriesAhead k
  | retires _ _ ht => exact ht.entriesAhead k
  | refills _ ht =>
    generalize cellsWithout s.pool.retired = free at ht
    exact ht.entriesAhead k

/-- After a firing every entry lies ahead of valid site time (R132, R133). -/
theorem entriesAhead_fireEntries {s : State} (hlaw : scheduleLaw s.cfg.schedule) : EntriesAhead (fireEntries s) := by
  have hwait : ∀ e, e ∈ waitingEntries s.time.site.seconds s.cfg.schedule → s.time.site.seconds < e.time := fun e he => by
    rw [(due_eq _ _ hlaw).2] at he
    exact of_decide_eq_true (List.mem_filter.1 he).2
  rcases fireEntries_cases s with ⟨hv, h⟩ | ⟨_, hall, h⟩ | ⟨k, x, _, h⟩
  · rw [h]
    intro hv'
    exact absurd (hv.symm.trans hv') (by decide)
  · rw [h]
    exact fun _ => .inl fun e he => hwait e (by rw [hall]; exact he)
  · exact h.entriesAhead fun _ => .inl hwait

theorem hardReset_time (k : ResetKind) (s : State) : (hardReset k s).time = State.reset.time := rfl

theorem Loads.clockLaw {s t : State} (h : Loads s t) (k : ClockLaw s) : ClockLaw t := by
  refine ⟨h.classLaws k.classes, ?_, ?_⟩ <;> obtain ⟨b, x, _, _, _, ht⟩ := h.body
  · exact ht.nanos k.nanos
  · exact ht.early k.early

theorem clockLaw_hardReset {s : State} (kind : ResetKind) (k : ClassLaws s) : ClockLaw (hardReset kind s) :=
  ⟨classLaws_hardReset kind k, by rw [hardReset_time]; decide, fun _ => by rw [hardReset_time]; rfl⟩

theorem StepTaken.nanos {c : Option Instr} {s t : State} (h : StepTaken c s t) (k : s.time.site.nanos < 1000000000) :
    t.time.site.nanos < 1000000000 :=
  h.keeps (P := fun u => u.time.site.nanos < 1000000000) (fun _ _ => Deed.nanos) (fun _ _ hj => hj.toRecordsSame.nanos)
    (fun _ _ hl hs => by obtain ⟨b, x, _, _, _, ht⟩ := hl.body; exact ht.nanos hs)
    (fun _ _ kind _ hr _ => hr.nanos (by rw [hardReset_time]; decide)) k

theorem StepTaken.clockLaw {c : Option Instr} {s t : State} (h : StepTaken c s t) (k : ClockLaw s) : ClockLaw t :=
  h.keeps (fun _ _ => Deed.clockLaw) (fun _ _ hj => hj.toRecordsSame.clockLaw) (fun _ _ => Loads.clockLaw)
    (fun _ _ kind _ hr hs => hr.clockLaw (clockLaw_hardReset kind hs.classes)) k

/-- Deeds keep the entries ahead of site time. -/
theorem Deeds.entriesAhead {c : Option Instr} {s t : State} (h : Deeds c s t) (hc : ClockLaw s) (k : EntriesAhead s) :
    EntriesAhead t :=
  (h.keeps (P := fun u => ClockLaw u ∧ EntriesAhead u)
    (fun _ _ hd hs => ⟨hd.clockLaw hs.1, hd.entriesAhead hs.1 hs.2⟩) ⟨hc, k⟩).2

/-- A load ends with the firing of what its schedule has in the past (R137). -/
theorem StepTaken.entriesAhead {c : Option Instr} {s t : State} (h : StepTaken c s t) (hc : ClockLaw s)
    (k : EntriesAhead s) : EntriesAhead t := by
  have hdeeds : ∀ {u v : State}, Deeds c u v → ClockLaw u → ClockLaw v := fun h => h.keeps fun _ _ => Deed.clockLaw
  cases h with
  | plain h => exact h.entriesAhead hc k
  | joined u v before h after =>
    exact after.entriesAhead (h.toRecordsSame.clockLaw (hdeeds before hc))
      (h.toRecordsSame.entriesAhead (before.entriesAhead hc k))
  | loaded u v w before h between after =>
    have hw : ClockLaw (recompute w) := hdeeds (deeds_recompute w) (hdeeds between (h.clockLaw (hdeeds before hc)))
    exact after.entriesAhead (hdeeds (deeds_fireEntries _) hw) (entriesAhead_fireEntries hw.classes.2.1)
  | resets u kind _ h _ =>
    refine h.entriesAhead fun hv => ?_
    rw [hardReset_time] at hv
    cases hv

/-! ## The servo and the validity flag (R103, R110) -/

theorem RecordsSame.servoLaw {s t : State} (h : RecordsSame s t) (k : servoLaw s) : servoLaw t := by
  unfold Machine.servoLaw
  rw [h.time]
  exact k

theorem Deed.servoLaw {c : Option Instr} {s t : State} (h : Deed c s t) (k : servoLaw s) : servoLaw t := by
  cases h with
  | sheds h _ => exact h.toRecordsSame.servoLaw k
  | relinks _ _ _ _ _ ht => exact ht.servoLaw k
  | begins _ _ _ _ _ _ ht => exact ht.servoLaw k
  | ends _ _ _ _ ht => exact ht.servoLaw k
  | tables _ _ _ ht => exact ht.servoLaw k
  | loads _ _ _ _ _ _ ht => exact ht.servoLaw k
  | times _ h ht => exact ht.servoLaw (h.servo k)
  | idles x p h ht =>
    refine ht.servoLaw ?_
    unfold Machine.servoLaw
    rw [show ({ s with time := x, pending := p } : State).time.servo = x.servo from rfl, h.servo]
    exact k
  | stores _ _ ht => exact ht.servoLaw k
  | starts _ _ _ ht => exact ht.servoLaw k
  | retires _ _ ht => exact ht.servoLaw k
  | refills _ ht =>
    generalize cellsWithout s.pool.retired = free at ht
    exact ht.servoLaw k

theorem servoLaw_hardReset (k : ResetKind) (s : State) : servoLaw (hardReset k s) := by
  unfold servoLaw
  rw [hardReset_time]
  decide

theorem StepTaken.servoLaw {c : Option Instr} {s t : State} (h : StepTaken c s t) (k : servoLaw s) : servoLaw t :=
  h.keeps (fun _ _ => Deed.servoLaw) (fun _ _ hj => hj.toRecordsSame.servoLaw)
    (fun _ _ hl hs => by obtain ⟨b, x, _, _, _, ht⟩ := hl.body; exact ht.servoLaw hs)
    (fun s _ kind _ hr _ => hr.servoLaw (servoLaw_hardReset kind s)) k

theorem Deed.valid {c : Option Instr} {s t : State} (h : Deed c s t) :
    t.time.valid = s.time.valid ∨ (maySetTime c ∧ t.time.valid = true) := by
  cases h with
  | sheds h _ => exact .inl (congrArg TimeUnit.valid h.time)
  | relinks _ _ _ _ _ ht => exact .inl (congrArg TimeUnit.valid ht.time)
  | begins _ _ _ _ _ _ ht => exact .inl (congrArg TimeUnit.valid ht.time)
  | ends _ _ _ _ ht => exact .inl (congrArg TimeUnit.valid ht.time)
  | tables _ _ _ ht => exact .inl (congrArg TimeUnit.valid ht.time)
  | loads _ _ _ _ _ _ ht => exact .inl (congrArg TimeUnit.valid ht.time)
  | times x h ht =>
    rw [show t.time.valid = x.valid from congrArg TimeUnit.valid ht.time]
    exact h.valid.imp id fun ⟨hc, _, hv⟩ => ⟨hc, hv⟩
  | idles x p h ht => exact .inl ((congrArg TimeUnit.valid ht.time).trans h.valid)
  | stores _ _ ht => exact .inl (congrArg TimeUnit.valid ht.time)
  | starts _ _ _ ht => exact .inl (congrArg TimeUnit.valid ht.time)
  | retires _ _ ht => exact .inl (congrArg TimeUnit.valid ht.time)
  | refills _ ht => exact .inl (congrArg TimeUnit.valid ht.time)

theorem Loads.valid {s t : State} (h : Loads s t) : t.time.valid = s.time.valid := by
  obtain ⟨b, x, _, _, _, ht⟩ := h.body
  exact congrArg TimeUnit.valid ht.time

/-- The validity flag becomes true only by a command that can set site time (R103). -/
theorem StepTaken.becomesValid {c : Option Instr} {s t : State} (h : StepTaken c s t) (hs : s.time.valid = false)
    (ht : t.time.valid = true) : maySetTime c := by
  have hkeep : t.time.valid = true → maySetTime c :=
    h.keeps (P := fun u => u.time.valid = true → maySetTime c)
      (fun _ _ hd hs ht => hd.valid.elim (fun h => hs (h.symm.trans ht)) fun h => h.1)
      (fun _ _ hj hs ht => hs ((congrArg TimeUnit.valid hj.time).symm.trans ht))
      (fun _ _ hl hs ht => hs (hl.valid.symm.trans ht))
      (fun s t kind _ hr _ ht => by
        have hv : t.time.valid = false := congrArg TimeUnit.valid (hr.time.trans (hardReset_time kind s))
        exact absurd (hv.symm.trans ht) (by decide))
      (fun hv => absurd (hs.symm.trans hv) (by decide))
  exact hkeep ht

/-- The validity flag becomes false only by a reset that asserts reset-out (R103, R176). -/
theorem StepTaken.becomesInvalid {c : Option Instr} {s t : State} (h : StepTaken c s t) (hs : s.time.valid = true)
    (ht : t.time.valid = false) : t.startup.state = .reset ∧ t.time.elapsed = 0 := by
  have hdeed : ∀ {u v : State}, Deeds c u v → u.time.valid = true → v.time.valid = true := fun h =>
    h.keeps (P := fun u => u.time.valid = true) fun _ _ hd hs => hd.valid.elim (fun h => h.trans hs) fun h => h.2
  have hno : t.time.valid ≠ true := fun h => absurd (ht.symm.trans h) (by decide)
  cases h with
  | plain h => exact absurd (hdeed h hs) hno
  | joined u v before h after =>
    exact absurd (hdeed after ((congrArg TimeUnit.valid h.time).trans (hdeed before hs))) hno
  | loaded u v w before h between after =>
    refine absurd (hdeed after (hdeed (deeds_fireEntries _) (hdeed (deeds_recompute w) (hdeed between ?_)))) hno
    exact h.valid.trans (hdeed before hs)
  | resets u kind _ h _ =>
    rw [h.startup, h.time]
    exact ⟨rfl, rfl⟩

/-! ## The retired groups (R16) -/

theorem insertGroup_mem (g : Nat) (t : List Nat) (x : Nat) : x ∈ insertGroup g t ↔ x = g ∨ x ∈ t := by
  induction t with
  | nil => simp [insertGroup]
  | cons y rest ih =>
    unfold insertGroup
    split
    · simp
    · split
      · next h => simp [h]
      · simp only [List.mem_cons, ih]
        exact or_left_comm

theorem insertGroup_sorted (g : Nat) (t : List Nat) (h : t.Pairwise (· < ·)) : (insertGroup g t).Pairwise (· < ·) := by
  induction t with
  | nil => simp [insertGroup]
  | cons y rest ih =>
    obtain ⟨hy, hrest⟩ := List.pairwise_cons.1 h
    unfold insertGroup
    split
    · next hlt =>
      refine List.pairwise_cons.2 ⟨fun z hz => ?_, h⟩
      rcases List.mem_cons.1 hz with rfl | hz
      · exact hlt
      · exact hlt.trans (hy z hz)
    · split
      · exact h
      · next hge hne =>
        refine List.pairwise_cons.2 ⟨fun z hz => ?_, ih hrest⟩
        rcases (insertGroup_mem g rest z).1 hz with rfl | hz
        · omega
        · exact hy z hz

/-- The retired groups of another state are in order where those of this one are, and include them. -/
def RetiredOnly (s t : State) : Prop := (retiredLaw s.pool → retiredLaw t.pool) ∧ ∀ g, g ∈ s.pool.retired → g ∈ t.pool.retired

theorem RetiredOnly.trans {s t u : State} (h : RetiredOnly s t) (k : RetiredOnly t u) : RetiredOnly s u :=
  ⟨fun hs => k.1 (h.1 hs), fun g hg => k.2 g (h.2 g hg)⟩

theorem retiredOnly_of {s t : State} (h : t.pool.retired = s.pool.retired) : RetiredOnly s t := by
  unfold RetiredOnly retiredLaw
  rw [h]
  exact ⟨id, fun _ => id⟩

theorem Deed.retired {c : Option Instr} {s t : State} (h : Deed c s t) : RetiredOnly s t := by
  cases h with
  | sheds h _ => exact retiredOnly_of h.retired
  | relinks _ _ _ _ _ ht => exact retiredOnly_of ht.retired
  | begins _ _ _ _ _ _ ht => exact retiredOnly_of ht.retired
  | ends _ _ _ _ ht => exact retiredOnly_of ht.retired
  | tables _ _ _ ht => exact retiredOnly_of ht.retired
  | loads _ _ _ _ _ _ ht => exact retiredOnly_of ht.retired
  | times _ _ ht => exact retiredOnly_of ht.retired
  | idles _ _ _ ht => exact retiredOnly_of ht.retired
  | stores _ _ ht => exact retiredOnly_of ht.retired
  | starts _ _ _ ht => exact retiredOnly_of ht.retired
  | retires g _ ht =>
    have hret : t.pool.retired = insertGroup g s.pool.retired := ht.retired
    unfold RetiredOnly retiredLaw
    rw [hret]
    exact ⟨insertGroup_sorted g _, fun x hx => (insertGroup_mem g _ x).2 (.inr hx)⟩
  | refills _ ht => exact retiredOnly_of ht.retired

theorem hardReset_retired (k : ResetKind) (s : State) :
    (hardReset k s).pool.retired = if k = .powerOn then [] else s.pool.retired := by
  obtain ⟨_, _, _, hcut⟩ := cutOp_beside s
  show (if k = .powerOn then [] else (cutOp s).pool.retired) = _
  rw [hcut]

theorem StepTaken.retiredLaw {c : Option Instr} {s t : State} (h : StepTaken c s t) (k : retiredLaw s.pool) :
    retiredLaw t.pool :=
  h.keeps (P := fun u => Machine.retiredLaw u.pool) (fun _ _ hd => hd.retired.1) (fun _ _ hj => (retiredOnly_of hj.retired).1)
    (fun _ _ hl => by obtain ⟨b, x, _, _, _, ht⟩ := hl.body; exact (retiredOnly_of ht.retired).1)
    (fun s t kind _ hr hs => by
      unfold Machine.retiredLaw at hs ⊢
      rw [hr.retired, hardReset_retired]
      split
      · exact List.Pairwise.nil
      · exact hs) k

/-- A group leaves the retired-group list only by a power-on reset (R16, R176). -/
theorem StepTaken.staysRetired {c : Option Instr} {s t : State} (h : StepTaken c s t) (hc : c ≠ some .powerOnReset)
    {g : Nat} (hg : g ∈ s.pool.retired) : g ∈ t.pool.retired :=
  h.keeps (P := fun u => g ∈ u.pool.retired) (fun _ _ hd => hd.retired.2 g)
    (fun _ _ hj => (retiredOnly_of hj.retired).2 g)
    (fun _ _ hl => by obtain ⟨b, x, _, _, _, ht⟩ := hl.body; exact (retiredOnly_of ht.retired).2 g)
    (fun s t kind power hr hs => by
      rw [hr.retired, hardReset_retired, if_neg fun h => hc (power h)]
      exact hs) hg

end Sys2Proof.Machine
end

section
/-!
SUPPORT. The allocation table's laws (O57): what a computation gives keeps them (R71 to R79), and every deed does.
-/

namespace Sys2Proof.Machine

/-! ## The water-fill gives out what there is (R76, R77) -/

/-- What the rows of a water-fill hold together. -/
def heldSum (rows : List FillRow) : Nat := (rows.map fun r => r.held).sum

@[simp] theorem heldSum_nil : heldSum [] = 0 := rfl

@[simp] theorem heldSum_cons (r : FillRow) (rows : List FillRow) : heldSum (r :: rows) = r.held + heldSum rows := rfl

/-- A part of a water-fill: what is left and what is held stay the same together, and no row loses. -/
structure Filled (p : Nat) (rows : List FillRow) (x : Nat × List FillRow) : Prop where
  sum : x.1 + heldSum x.2 = p + heldSum rows
  grows : List.Forall₂ (fun r r' : FillRow => r.held ≤ r'.held) rows x.2

theorem Filled.refl (p : Nat) (rows : List FillRow) : Filled p rows (p, rows) :=
  ⟨rfl, List.forall₂_same.2 fun _ _ => le_refl _⟩

theorem Filled.trans {p : Nat} {rows : List FillRow} {x y : Nat × List FillRow} (h : Filled p rows x)
    (k : Filled x.1 x.2 y) : Filled p rows y := by
  refine ⟨k.sum.trans h.sum, ?_⟩
  have : ∀ {a b c : List FillRow}, List.Forall₂ (fun r r' : FillRow => r.held ≤ r'.held) a b →
      List.Forall₂ (fun r r' : FillRow => r.held ≤ r'.held) b c →
      List.Forall₂ (fun r r' : FillRow => r.held ≤ r'.held) a c := by
    intro a b c hab
    induction hab generalizing c with
    | nil => exact id
    | cons hxy _ ih =>
      intro hbc
      cases hbc with
      | cons hyz hrest => exact .cons (hxy.trans hyz) (ih hrest)
  exact this h.grows k.grows

theorem filled_remainderPass (p : Nat) (rows : List FillRow) : Filled p rows (remainderPass p rows) := by
  induction rows generalizing p with
  | nil => exact ⟨rfl, .nil⟩
  | cons r rs ih =>
    unfold remainderPass
    split
    · next h =>
      obtain ⟨hsum, hgrows⟩ := ih (p - 1)
      refine ⟨?_, .cons (Nat.le_add_right _ _) hgrows⟩
      have hheld : (r.grant 1).held = r.held + 1 := rfl
      simp only [heldSum_cons, hheld]
      omega
    · obtain ⟨hsum, hgrows⟩ := ih p
      refine ⟨?_, .cons (le_refl _) hgrows⟩
      simp only [heldSum_cons]
      omega

theorem filled_remainder (fuel p : Nat) (rows : List FillRow) : Filled p rows (remainder fuel p rows) := by
  induction fuel generalizing p rows with
  | zero => exact Filled.refl _ _
  | succ fuel ih =>
    have hpass := filled_remainderPass p rows
    unfold remainder
    dsimp only
    split
    · exact Filled.refl _ _
    · exact hpass.trans (ih _ _)

/-- Parts rounded down sum to no more than the whole. -/
theorem sum_div_le {α : Type} (L : List α) (p w : Nat) (f : α → Nat) :
    (L.map fun x => p * f x / w).sum ≤ p * (L.map f).sum / w := by
  induction L with
  | nil => simp
  | cons x rest ih =>
    simp only [List.map_cons, List.sum_cons, Nat.mul_add]
    exact (Nat.add_le_add_left ih _).trans Nat.div_add_div_le_add_div

/-- The shares of a round sum to no more than what is left (R76). -/
theorem shares_le (p : Nat) (rows : List FillRow) : (rows.map (shareOf p (weightSum rows))).sum ≤ p := by
  have hshare : rows.map (shareOf p (weightSum rows))
      = rows.map fun r => p * (if r.inS then r.weight else 0) / weightSum rows := by
    refine List.map_congr_left fun r _ => ?_
    unfold shareOf
    split
    · rfl
    · simp
  rw [hshare]
  refine (sum_div_le rows p _ _).trans ?_
  show p * weightSum rows / weightSum rows ≤ p
  rcases Nat.eq_zero_or_pos (weightSum rows) with hw | hw
  · rw [hw, Nat.div_zero]
    exact Nat.zero_le _
  · rw [Nat.mul_div_cancel _ hw]

theorem overGrant_le (p w : Nat) (r : FillRow) : overGrant p w r ≤ shareOf p w r := by
  unfold overGrant
  split
  · next h =>
    simp only [Bool.and_eq_true] at h
    unfold overLimit at h
    cases hl : r.limit with
    | none => exact Nat.zero_le _
    | some n =>
      rw [hl] at h
      exact le_of_lt (of_decide_eq_true h.2)
  · exact Nat.zero_le _

/-- Grants of no more than what is left are a part of a water-fill. -/
theorem filled_grants {p : Nat} {rows : List FillRow} (n : FillRow → Nat) (f : FillRow → FillRow)
    (hf : ∀ r, (f r).held = r.held + n r) (hn : (rows.map n).sum ≤ p) :
    Filled p rows (p - (rows.map n).sum, rows.map f) := by
  have hsum : ∀ rs : List FillRow, heldSum (rs.map f) = heldSum rs + (rs.map n).sum := by
    intro rs
    induction rs with
    | nil => rfl
    | cons r rest ih =>
      simp only [List.map_cons, heldSum_cons, List.sum_cons, hf, ih]
      omega
  refine ⟨?_, ?_⟩
  · rw [hsum]
    omega
  · rw [List.forall₂_map_right_iff]
    exact List.forall₂_same.2 fun r _ => by rw [hf]; exact Nat.le_add_right _ _

theorem filled_waterFill (fuel p : Nat) (rows : List FillRow) : Filled p rows (waterFill fuel p rows) := by
  induction fuel generalizing p rows with
  | zero => exact Filled.refl _ _
  | succ fuel ih =>
    have hshares := shares_le p rows
    unfold waterFill
    split
    · exact Filled.refl _ _
    · dsimp only
      split
      · refine (filled_grants (overGrant p (weightSum rows)) _ (fun r => ?_) ?_).trans (ih _ _)
        · split
          · rfl
          · next h =>
            unfold overGrant
            rw [if_neg h]
            rfl
        · exact (List.sum_le_sum fun r _ => overGrant_le p (weightSum rows) r).trans hshares
      · exact (filled_grants (shareOf p (weightSum rows)) _ (fun r => rfl) hshares).trans (filled_remainder _ _ _)

/-! ## A computation (R74 to R79) -/

theorem heldSum_headroom (ts : List ShareInput) (rows : List FillRow) (h : ts.length = rows.length) :
    heldSum (List.zipWith (fun t r => headroomRow t r.held) ts rows) = heldSum rows := by
  induction ts generalizing rows with
  | nil =>
    cases rows with
    | nil => rfl
    | cons r rs => cases h
  | cons t ts ih =>
    cases rows with
    | nil => cases h
    | cons r rs =>
      simp only [List.zipWith_cons_cons, heldSum_cons, ih rs (Nat.succ.inj h)]
      rfl

theorem heldSum_needs (u : Nat) (ts : List ShareInput) : heldSum (ts.map (needRow u)) = (ts.map (guaranteeOf u)).sum := by
  unfold heldSum
  rw [List.map_map]
  rfl

/-- The guarantees of a lawful set are within U (R65, R75). -/
theorem guarantees_le (u : Nat) (ts : List ShareInput)
    (h : (ts.map fun t => if t.active then t.share.guarantee else 0).sum ≤ 1000) : (ts.map (guaranteeOf u)).sum ≤ u := by
  have hle : ∀ t : ShareInput, guaranteeOf u t ≤ u * (if t.active then t.share.guarantee else 0) / 1000 := fun t => by
    unfold guaranteeOf capped
    split
    · split
      · exact le_refl _
      · exact min_le_left _ _
    · exact Nat.zero_le _
  refine (List.sum_le_sum fun t _ => hle t).trans ((sum_div_le ts u 1000 _).trans ?_)
  exact Nat.div_le_of_le_mul (by rw [Nat.mul_comm 1000 u]; exact Nat.mul_le_mul_left u h)

/-- The rows of the third step, and of the fourth (R76, R78). -/
theorem allocate_filled (u : Nat) (ts : List ShareInput) :
    let p := u - (ts.map (guaranteeOf u)).sum
    let third := waterFill 9 p (ts.map (needRow u))
    let rows := List.zipWith (fun t r => headroomRow t r.held) ts third.2
    let fourth := waterFill 9 third.1 rows
    allocate u ts = (fourth.1, fourth.2.map fun r => r.held) ∧ Filled p (ts.map (needRow u)) third
      ∧ Filled third.1 rows fourth ∧ ts.length = third.2.length := by
  refine ⟨rfl, filled_waterFill _ _ _, filled_waterFill _ _ _, ?_⟩
  exact (List.length_map _).symm.trans (filled_waterFill _ _ _).grows.length_eq

/-- What is left and the allocations are U together (R79). -/
theorem allocate_sum (u : Nat) (ts : List ShareInput) (h : (ts.map (guaranteeOf u)).sum ≤ u) :
    (allocate u ts).1 + (allocate u ts).2.sum = u := by
  obtain ⟨heq, hthird, hfourth, hlen⟩ := allocate_filled u ts
  have h3 := hthird.sum
  have h4 := hfourth.sum
  rw [heldSum_needs] at h3
  rw [heldSum_headroom _ _ hlen] at h4
  rw [heq]
  show _ + heldSum _ = u
  omega

theorem allocate_length (u : Nat) (ts : List ShareInput) : (allocate u ts).2.length = ts.length := by
  obtain ⟨heq, _, hfourth, hlen⟩ := allocate_filled u ts
  rw [heq, List.length_map, ← hfourth.grows.length_eq, List.length_zipWith, ← hlen, Nat.min_self]

/-- No allocation lies below its guarantee (R75, R79). -/
theorem allocate_ge (u : Nat) (ts : List ShareInput) (i : Nat) (hi : i < ts.length) :
    guaranteeOf u ts[i] ≤ (allocate u ts).2.getD i 0 := by
  have hlen' : i < (allocate u ts).2.length := by rw [allocate_length]; exact hi
  rw [List.getD_eq_getElem _ _ hlen']
  obtain ⟨heq, hthird, hfourth, hlen⟩ := allocate_filled u ts
  have h3 := List.Forall₂.get hthird.grows (i := i) (by rw [List.length_map]; exact hi) (by rw [← hlen]; exact hi)
  have h4 := List.Forall₂.get hfourth.grows (i := i) (by rw [List.length_zipWith, ← hlen, Nat.min_self]; exact hi)
    (by rw [← hfourth.grows.length_eq, List.length_zipWith, ← hlen, Nat.min_self]; exact hi)
  simp only [heq, List.getElem_map]
  simp only [List.get_eq_getElem, List.getElem_map, List.getElem_zipWith] at h3 h4
  exact h3.trans h4

theorem shareInputs_get (v : State) (i : Tenant) (h : i.val < ((List.finRange 8).map (shareInput v)).length) :
    ((List.finRange 8).map (shareInput v))[i.val] = shareInput v i := by
  rw [List.getElem_map, List.getElem_finRange]
  rfl

/-- A table's rows, from the water-fill's result (R79). -/
theorem computeTable_rows (v : State) : ∃ res, res = allocate (computeTable v).u ((List.finRange 8).map (shareInput v))
    ∧ (computeTable v).unassigned = res.1
    ∧ (computeTable v).tenants = Vector.ofFn fun i => {
        active := (v.tenantCfg i).active, demand := (v.tenant i).demand
        guarantee := guaranteeOf (computeTable v).u (shareInput v i), allocation := res.2.getD i.val 0 } := by
  refine ⟨_, rfl, ?_, ?_⟩ <;> simp only [computeTable]

theorem computeTable_u (v : State) :
    (computeTable v).u = (computeTable v).g - ((computeTable v).tRes + (computeTable v).x) := rfl

/-- The allocations of a table's rows are the water-fill's. -/
theorem allocations_ofFn {f : Fin 8 → AllocTenant} {res : List Nat} (hlen : res.length = 8)
    (hf : ∀ i, (f i).allocation = res.getD i.val 0) : ((Vector.ofFn f).toList.map fun x => x.allocation) = res := by
  refine List.ext_getElem (by rw [List.length_map, Vector.length_toList, hlen]) fun i h1 h2 => ?_
  rw [List.getElem_map, Vector.getElem_toList, Vector.getElem_ofFn, hf, List.getD_eq_getElem _ 0 h2]

theorem computeTable_law {v : State} (h : shareSumLaw v) : allocationLaw (computeTable v) := by
  have hset : guaranteeSum v.cfg.tenants (tget v.cfg.sets v.cfg.activeSet) ≤ 1000 := by
    unfold shareSumLaw shareLaw at h
    exact of_decide_eq_true (List.all_eq_true.1 h v.cfg.activeSet (List.mem_finRange _))
  obtain ⟨res, hres, hleft, hrows⟩ := computeTable_rows v
  have hsum := allocate_sum (computeTable v).u ((List.finRange 8).map (shareInput v))
    (guarantees_le _ _ (by rw [List.map_map]; exact hset))
  have hlen : res.2.length = 8 := by rw [hres, allocate_length, List.length_map, List.length_finRange]
  rw [← hres] at hsum
  unfold allocationLaw
  rw [hrows, allocations_ofFn hlen fun i => rfl, hleft, Nat.add_comm, computeTable_u]
  exact ⟨hsum.trans (computeTable_u v), Nat.sub_le _ _⟩

theorem computeTable_guarantee (v : State) (i : Tenant) :
    (tget (computeTable v).tenants i).guarantee = guaranteeOf (computeTable v).u (shareInput v i) := by
  obtain ⟨res, _, _, hrows⟩ := computeTable_rows v
  rw [hrows, tget_ofFn]

theorem computeTable_tableLaw (v : State) : tableLaw (computeTable v) := by
  refine ⟨rfl, rfl, computeTable_u v, fun i => ?_⟩
  obtain ⟨res, hres, _, hrows⟩ := computeTable_rows v
  have hi : i.val < ((List.finRange 8).map (shareInput v)).length := by
    rw [List.length_map, List.length_finRange]
    exact i.isLt
  have hge := allocate_ge (computeTable v).u ((List.finRange 8).map (shareInput v)) i.val hi
  rw [shareInputs_get, ← hres] at hge
  rw [hrows, tget_ofFn]
  exact hge

/-- A computed table counts the links as they are (R40, R71). -/
theorem fresh_counted {u : State} (h : Fresh u) : LinksCounted u := by
  obtain ⟨v, ht, hcfg, hlinks⟩ := h
  have hel : ∀ l, v.el l = u.el l := fun l => by unfold State.el State.link; rw [hcfg, hlinks]
  have hin : ∀ l, v.inService l = u.inService l := fun l => by unfold State.inService State.link; rw [hlinks]
  have hrow : ∀ l, (computeTable v).links.get l = allocLink v l := fun l => by cases l <;> rfl
  intro l
  rw [ht, hrow]
  exact ⟨hin l, fun _ => hel l⟩

theorem fresh_law {u : State} (h : Fresh u) (k : shareSumLaw u) : allocationLaw u.share.table := by
  obtain ⟨v, ht, hcfg, _⟩ := h
  rw [ht]
  refine computeTable_law ?_
  unfold shareSumLaw
  rw [hcfg]
  exact k

theorem fresh_tableLaw {u : State} (h : Fresh u) : tableLaw u.share.table := by
  obtain ⟨v, ht, _⟩ := h
  rw [ht]
  exact computeTable_tableLaw v

/-! ## Every deed keeps the table's laws -/

theorem RecordsSame.shareSumLaw {s t : State} (h : RecordsSame s t) (k : shareSumLaw s) : shareSumLaw t := by
  unfold Machine.shareSumLaw
  rw [h.cfg]
  exact k

theorem linksCounted_of {s t : State} (ht : t.share.table = s.share.table) (h : CountedAlike s t) (k : LinksCounted s) :
    LinksCounted t := by
  intro l
  obtain ⟨hel, hin⟩ := h l
  rw [ht, hel, hin]
  exact k l

theorem RecordsSame.alike {s t : State} (h : RecordsSame s t) : CountedAlike s t := fun l =>
  ⟨by unfold State.el State.link; rw [h.cfg, h.links], h.inService l⟩

theorem RecordsSame.linksCounted {s t : State} (h : RecordsSame s t) (k : LinksCounted s) : LinksCounted t :=
  linksCounted_of h.table h.alike k

/-- A change that leaves the table, or computes it afresh. -/
structure TableKept (s t : State) : Prop where
  shares : shareSumLaw s → shareSumLaw t
  table : t.share.table = s.share.table ∨ Fresh t
  counted : LinksCounted s → LinksCounted t

theorem Fresh.core {u t : State} (h : Fresh u) (k : RecordsSame u t) : Fresh t := by
  obtain ⟨v, ht, hcfg, hlinks⟩ := h
  exact ⟨v, k.table.trans ht, hcfg.trans k.cfg.symm, hlinks.trans k.links.symm⟩

theorem RecordsSame.tableKept {s t : State} (h : RecordsSame s t) : TableKept s t :=
  ⟨h.shareSumLaw, .inl h.table, h.linksCounted⟩

theorem TableKept.core {s u t : State} (h : TableKept s u) (k : RecordsSame u t) : TableKept s t :=
  ⟨fun hs => k.shareSumLaw (h.shares hs), h.table.imp k.table.trans fun hf => hf.core k,
    fun hs => k.linksCounted (h.counted hs)⟩

/-- Nothing that the table's laws read changed. -/
theorem RecordsSame.beside {s u t : State} (k : RecordsSame u t) (ht : u.share.table = s.share.table) (hcfg : u.cfg = s.cfg)
    (hlinks : u.links = s.links) : TableKept s t := by
  refine TableKept.core ⟨fun h => ?_, .inl ht, linksCounted_of ht fun l => ⟨?_, ?_⟩⟩ k
  · unfold Machine.shareSumLaw
    rw [hcfg]
    exact h
  · unfold State.el State.link
    rw [hcfg, hlinks]
  · unfold State.inService State.link
    rw [hlinks]

theorem Deed.tableKept {c : Option Instr} {s t : State} (h : Deed c s t) : TableKept s t := by
  cases h with
  | sheds h _ => exact h.toRecordsSame.tableKept
  | relinks _ _ _ _ h ht =>
    refine TableKept.core ⟨h.shares, ?_, fun hs => ?_⟩ ht.toRecordsSame
    · exact h.table.elim .inr fun h => .inl h.1
    · exact h.table.elim fresh_counted fun h => linksCounted_of h.1 h.2 hs
  | begins l n key x r h ht =>
    have hkept : TableKept s (s.runBegun l n key x r) := ⟨id, .inl rfl, linksCounted_of rfl h.alike⟩
    exact hkept.core ht.toRecordsSame
  | ends _ _ _ _ ht => exact ht.toRecordsSame.beside rfl rfl rfl
  | tables _ _ _ ht => exact ht.toRecordsSame.beside rfl rfl rfl
  | loads b x _ _ law fresh ht =>
    have hkept : TableKept s (s.loaded b x) := ⟨fun _ => law, .inr fresh, fun _ => fresh_counted fresh⟩
    exact hkept.core ht.toRecordsSame
  | times _ _ ht => exact ht.toRecordsSame.beside rfl rfl rfl
  | idles _ _ _ ht => exact ht.toRecordsSame.beside rfl rfl rfl
  | stores _ _ ht => exact ht.toRecordsSame.beside rfl rfl rfl
  | starts _ _ _ ht => exact ht.toRecordsSame.beside rfl rfl rfl
  | retires _ _ ht => exact ht.toRecordsSame.beside rfl rfl rfl
  | refills _ ht =>
    generalize cellsWithout s.pool.retired = free at ht
    exact ht.toRecordsSame.beside rfl rfl rfl

/-- The table's two laws by themselves (R71 to R79). -/
structure TableLaws (s : State) : Prop where
  shares : shareSumLaw s
  law : allocationLaw s.share.table

theorem TableKept.laws {s t : State} (h : TableKept s t) (k : TableLaws s) : TableLaws t := by
  refine ⟨h.shares k.shares, ?_⟩
  rcases h.table with ht | hf
  · rw [ht]
    exact k.law
  · exact fresh_law hf (h.shares k.shares)

theorem TableKept.tableLaw {s t : State} (h : TableKept s t) (k : tableLaw s.share.table) : tableLaw t.share.table := by
  rcases h.table with ht | hf
  · rw [ht]
    exact k
  · exact fresh_tableLaw hf

theorem Loads.shares {s t : State} (h : Loads s t) : shareSumLaw t := by
  obtain ⟨b, x, _, law, _, ht⟩ := h.body
  exact ht.shareSumLaw law

theorem Loads.table {s t : State} (h : Loads s t) : t.share.table = s.share.table ∨ Fresh t := by
  obtain ⟨b, x, _, _, htable, ht⟩ := h.body
  rcases htable with rfl | hf
  · exact .inl ht.table
  · exact .inr (hf.core ht.toRecordsSame)

theorem hardReset_records (k : ResetKind) (s : State) : (hardReset k s).cfg = State.reset.cfg := rfl

theorem hardReset_links (k : ResetKind) (s : State) : (hardReset k s).links = State.reset.links := rfl

theorem hardReset_table (k : ResetKind) (s : State) : (hardReset k s).share.table = State.reset.share.table := rfl

theorem StepTaken.tableLaws {c : Option Instr} {s t : State} (h : StepTaken c s t) (k : TableLaws s) : TableLaws t :=
  h.keeps (fun _ _ hd => hd.tableKept.laws) (fun _ _ hj => hj.toRecordsSame.tableKept.laws)
    (fun s t hl hs => ⟨hl.shares, by
      rcases hl.table with ht | hf
      · rw [ht]
        exact hs.law
      · exact fresh_law hf hl.shares⟩)
    (fun s t kind _ hr _ => by
      obtain ⟨_, hlaw, _⟩ := resetMeetsTheLaws
      obtain ⟨_, _, hshare, _⟩ := classLaws_reset
      refine ⟨hr.shareSumLaw ?_, ?_⟩
      · unfold shareSumLaw at hshare ⊢
        rw [hardReset_records]
        exact hshare
      rw [hr.table, hardReset_table]
      exact hlaw) k

theorem StepTaken.tableLaw {c : Option Instr} {s t : State} (h : StepTaken c s t) (k : tableLaw s.share.table) :
    tableLaw t.share.table :=
  h.keeps (P := fun u => Machine.tableLaw u.share.table) (fun _ _ hd => hd.tableKept.tableLaw)
    (fun _ _ hj => hj.toRecordsSame.tableKept.tableLaw)
    (fun s t hl hs => by
      rcases hl.table with ht | hf
      · rw [ht]
        exact hs
      · exact fresh_tableLaw hf)
    (fun s t kind _ hr _ => by
      obtain ⟨_, _, _, _, hlaw, _⟩ := resetMeetsTheLaws
      rw [hr.table, hardReset_table]
      exact hlaw) k

theorem linksCounted_hardReset (k : ResetKind) (s : State) : LinksCounted (hardReset k s) := by
  obtain ⟨_, _, _, _, _, hlinks, _⟩ := resetMeetsTheLaws
  refine linksCounted_of (hardReset_table k s) (fun l => ⟨?_, ?_⟩) hlinks
  · unfold State.el State.link
    rw [hardReset_records, hardReset_links]
  · unfold State.inService State.link
    rw [hardReset_links]

/-- A load ends with a computation, which counts the links as they are (R172). -/
theorem StepTaken.linksCounted {c : Option Instr} {s t : State} (h : StepTaken c s t) (k : LinksCounted s) :
    LinksCounted t := by
  have hdeeds : ∀ {u v : State}, Deeds c u v → LinksCounted u → LinksCounted v := fun h =>
    h.keeps fun _ _ hd => hd.tableKept.counted
  cases h with
  | plain h => exact hdeeds h k
  | joined u v before h after => exact hdeeds after (h.toRecordsSame.linksCounted (hdeeds before k))
  | loaded u v w before h between after =>
    have hw : LinksCounted (recompute w) :=
      (core_recompute w).linksCounted (fresh_counted ⟨w, rfl, rfl, rfl⟩)
    exact hdeeds after (hdeeds (deeds_fireEntries _) hw)
  | resets u kind _ h _ => exact h.linksCounted (linksCounted_hardReset kind u)

end Sys2Proof.Machine
end

section
/-!
SUPPORT. The laws of the buffer pool, of the queues and of the store (O40, O50, O59): every deed keeps them (R6, R11, R12,
R15, R17, R168).
-/

namespace Sys2Proof.Machine

/-! ## What moves frames, and what does not -/

/-- Queues and transmissions are the same in two states. -/
def TrafficSame (s t : State) : Prop := t.queues = s.queues ∧ ∀ p, (t.port p).tx = (s.port p).tx

theorem CoreSame.same {s u t : State} (h : CoreSame u t) (hq : u.queues = s.queues) (hp : u.ports = s.ports) :
    TrafficSame s t :=
  ⟨h.queues.trans hq, fun p => (h.tx p).trans (by unfold State.port; rw [hp])⟩

/-- A deed sheds frames, or moves none. -/
theorem Deed.moves {c : Option Instr} {s t : State} (h : Deed c s t) :
    (Traffic s t ∧ ∀ p, (t.port p).tx = (s.port p).tx ∨ (t.port p).tx = none) ∨ TrafficSame s t := by
  cases h with
  | sheds h stops => exact .inl ⟨h, stops⟩
  | relinks _ _ _ _ _ ht => exact .inr (ht.same rfl rfl)
  | begins _ _ _ _ _ _ ht => exact .inr (ht.same rfl rfl)
  | ends _ _ _ _ ht => exact .inr (ht.same rfl rfl)
  | tables _ _ _ ht => exact .inr (ht.same rfl rfl)
  | loads _ _ _ _ _ _ ht => exact .inr (ht.same rfl rfl)
  | times _ _ ht => exact .inr (ht.same rfl rfl)
  | idles _ _ _ ht => exact .inr (ht.same rfl rfl)
  | stores _ _ ht => exact .inr (ht.same rfl rfl)
  | starts _ _ _ ht => exact .inr (ht.same rfl rfl)
  | retires _ _ ht => exact .inr (ht.same rfl rfl)
  | refills _ ht => exact .inr (ht.same rfl rfl)

theorem Loads.same {s t : State} (h : Loads s t) : TrafficSame s t := by
  obtain ⟨b, x, _, _, _, ht⟩ := h.body
  exact ht.same rfl rfl

theorem reset_tx (p : Port) : (State.reset.port p).tx = none := by
  rcases p with i | _ | l
  · exact congrArg PortUnit.tx (tget_replicate _ i)
  · rfl
  · cases l <;> rfl

/-- After a reset nothing waits and nothing is sent (R6, R19). -/
theorem hardReset_traffic {k : ResetKind} {s t : State} (h : CoreSame (hardReset k s) t) :
    t.queues = emptyQueues ∧ ∀ p, (t.port p).tx = none := by
  have hports : (hardReset k s).ports = State.reset.ports := rfl
  have hqueues : (hardReset k s).queues = emptyQueues := rfl
  refine ⟨h.queues.trans hqueues, fun p => ?_⟩
  rw [h.tx]
  unfold State.port
  rw [hports]
  exact reset_tx p

/-! ## Local stores (R17) -/

theorem TrafficSame.localLaw {s t : State} (h : TrafficSame s t) (k : LocalLaw s) : LocalLaw t := by
  intro p
  rw [placesTaken_congr (s := s) (t := t) (by unfold State.localQ; rw [h.1]) (h.2 p)]
  exact k p

theorem Traffic.localLaw {s t : State} (h : Traffic s t) (k : LocalLaw s) : LocalLaw t := fun p =>
  (h.places p).elim id fun hle => hle.trans (k p)

theorem StepTaken.localLaw {c : Option Instr} {s t : State} (h : StepTaken c s t) (k : LocalLaw s) : LocalLaw t :=
  h.keeps (fun _ _ hd hs => hd.moves.elim (fun h => h.1.localLaw hs) fun h => h.localLaw hs)
    (fun _ _ hj hs p => by rw [hj.places]; exact hs p) (fun _ _ hl hs => hl.same.localLaw hs)
    (fun s t kind _ hr _ p => by
      obtain ⟨hq, htx⟩ := hardReset_traffic hr
      have hlen : (t.localQ p) = [] := by
        unfold State.localQ
        rw [hq]
        rcases p with i | _ | l
        · exact tget_replicate _ i
        · rfl
        · cases l <;> rfl
      unfold State.placesTaken State.sendingPlace
      rw [hlen, htx]
      decide) k

/-! ## First in, first out (R12) -/

/-- Each queue of frames is first in, first out, and takes at most one frame. -/
structure Fifos (s t : State) : Prop where
  tenant : ∀ i, Fifo (s.tenantQ i) (t.tenantQ i)
  timing : Fifo s.queues.timing t.queues.timing
  test : ∀ l, Fifo (s.queues.test.get l) (t.queues.test.get l)
  down : ∀ p, Fifo (s.queues.down.get p) (t.queues.down.get p)

theorem Fifo.suffix {α : Type} {q r w : List α} (h : Fifo q r) (k : w <:+ r) : Fifo q w :=
  h.imp k.trans fun ⟨d, hd⟩ => ⟨d, k.trans hd⟩

theorem Fifos.shrinks {s t u : State} (h : Fifos s t) (k : Shrinks t u) : Fifos s u :=
  ⟨fun i => (h.tenant i).suffix (k.tenant i), h.timing.suffix k.timing, fun l => (h.test l).suffix (k.test l),
    fun p => (h.down p).suffix (k.down p)⟩

theorem Shrinks.fifos {s t : State} (h : Shrinks s t) : Fifos s t :=
  ⟨fun i => .inl (h.tenant i), .inl h.timing, fun l => .inl (h.test l), fun p => .inl (h.down p)⟩

theorem Shrinks.refl (s : State) : Shrinks s s := .of_queues rfl

theorem Deed.shrinks {c : Option Instr} {s t : State} (h : Deed c s t) : Shrinks s t :=
  h.moves.elim (fun h => h.1.shrinks) fun h => .of_queues h.1

theorem Deeds.shrinks {c : Option Instr} {s t : State} (h : Deeds c s t) : Shrinks s t :=
  h.keeps (P := Shrinks s) (fun _ _ hd hs => hs.trans hd.shrinks) (Shrinks.refl s)

theorem fifo_join {α : Type} {q r w : List α} (h : r <:+ q) (k : w = r ∨ ∃ d, w = r ++ [d]) : Fifo q w := by
  rcases k with rfl | ⟨d, rfl⟩
  · exact .inl h
  · refine .inr ⟨d, ?_⟩
    obtain ⟨x, rfl⟩ := h
    exact ⟨x, (List.append_assoc _ _ _).symm⟩

theorem shrinks_emptied {s t : State} (h : t.queues = emptyQueues) : Shrinks s t := by
  have hnil : ∀ {α : Type} (q r : List α), r = [] → r <:+ q := fun q r hr => hr ▸ List.nil_suffix
  refine ⟨fun i => hnil _ _ ?_, hnil _ _ ?_, fun l => hnil _ _ ?_, fun p => hnil _ _ ?_⟩
  · unfold State.tenantQ
    rw [h]
    exact tget_emptyQueues i
  · rw [h]
    rfl
  · rw [h]
    cases l <;> rfl
  · rw [h]
    rcases p with i | _ | l
    · exact tget_replicate _ i
    · rfl
    · cases l <;> rfl

theorem StepTaken.fifos {c : Option Instr} {s t : State} (h : StepTaken c s t) : Fifos s t := by
  cases h with
  | plain h => exact h.shrinks.fifos
  | joined u v before h after =>
    have hb := before.shrinks
    refine Fifos.shrinks ⟨fun i => fifo_join (hb.tenant i) (h.tenant i), fifo_join hb.timing h.timing,
      fun l => fifo_join (hb.test l) ((h.test l).imp id fun ⟨d, hd, _⟩ => ⟨d, hd⟩),
      fun p => fifo_join (hb.down p) (h.down p)⟩ after.shrinks
  | loaded u v w before h between after =>
    refine Shrinks.fifos (before.shrinks.trans ((Shrinks.of_queues h.same.1).trans (between.shrinks.trans ?_)))
    exact (Deeds.shrinks (c := c) (deeds_recompute w)).trans
      ((Deeds.shrinks (c := c) (deeds_fireEntries _)).trans after.shrinks)
  | resets u k _ h _ => exact (shrinks_emptied (hardReset_traffic h).1).fifos

/-! ## The test queues, and what is being sent (R11, R12, R93) -/

theorem Shrinks.testQueues {s t : State} (h : Shrinks s t) (k : TestQueues s) : TestQueues t := fun l d hd =>
  k l d ((h.test l).subset hd)

theorem StepTaken.testQueues {c : Option Instr} {s t : State} (h : StepTaken c s t) (k : TestQueues s) : TestQueues t :=
  h.keeps (fun _ _ hd hs => hd.shrinks.testQueues hs)
    (fun _ _ hj hs l d hd => by
      rcases hj.test l with hq | ⟨e, hq, he⟩ <;> rw [hq] at hd
      · exact hs l d hd
      · rcases List.mem_append.1 hd with hd | hd
        · exact hs l d hd
        · rw [List.mem_singleton.1 hd]
          exact he)
    (fun _ _ hl hs => (Shrinks.of_queues hl.same.1).testQueues hs)
    (fun _ _ _ _ hr hs => (shrinks_emptied (hardReset_traffic hr).1).testQueues hs) k

/-- Before the departures no transmission starts. -/
theorem StepTaken.tx {c : Option Instr} {s t : State} (h : StepTaken c s t) (p : Port) :
    (t.port p).tx = (s.port p).tx ∨ (t.port p).tx = none := by
  have hstep : ∀ {u v : State}, (v.port p).tx = (u.port p).tx ∨ (v.port p).tx = none →
      (u.port p).tx = (s.port p).tx ∨ (u.port p).tx = none → (v.port p).tx = (s.port p).tx ∨ (v.port p).tx = none :=
    fun hv hu => hv.elim (fun h => h ▸ hu) .inr
  exact h.keeps (P := fun u => (u.port p).tx = (s.port p).tx ∨ (u.port p).tx = none)
    (fun _ _ hd hs => hstep (hd.moves.elim (fun h => h.2 p) fun h => .inl (h.2 p)) hs)
    (fun _ _ hj hs => hstep (.inl (hj.tx p)) hs) (fun _ _ hl hs => hstep (.inl (hl.same.2 p)) hs)
    (fun _ _ _ _ hr _ => .inr ((hardReset_traffic hr).2 p)) (.inl rfl)

/-! ## The buffer pool (R6, R15) -/

/-- The pool's law, cell by cell. -/
structure PoolCounts (s : State) : Prop where
  cells : ∀ c, s.pool.free.count c + cellsHeld c s = (cellsWithout s.pool.retired).count c
  off : s.startup.state ≠ .running → ∀ c, cellsHeld c s = 0

theorem poolLaw_iff (s : State) : PoolLaw s ↔ PoolCounts s := by
  have hnil : heldCells s = [] ↔ ∀ c, cellsHeld c s = 0 := by
    rw [List.eq_nil_iff_forall_not_mem]
    exact forall_congr' fun c => by rw [← List.count_eq_zero, count_heldCells]
  unfold PoolLaw
  rw [List.perm_iff_count, hnil]
  simp only [List.count_append, count_heldCells]
  exact ⟨fun h => ⟨h.1, h.2⟩, fun h => ⟨h.1, h.2⟩⟩

theorem TrafficSame.held {s t : State} (h : TrafficSame s t) (c : Nat) : cellsHeld c t = cellsHeld c s := by
  unfold cellsHeld
  rw [h.1]
  simp only [h.2]

theorem TrafficSame.pool {s t : State} (h : TrafficSame s t) (hpool : t.pool = s.pool)
    (hrun : s.startup.state = .running → t.startup.state = .running) (k : PoolCounts s) : PoolCounts t := by
  refine ⟨fun c => ?_, fun ht c => ?_⟩
  · rw [h.held, hpool]
    exact k.cells c
  · rw [h.held]
    exact k.off (fun hs => ht (hrun hs)) c

theorem CoreSame.pool {s t : State} (h : CoreSame s t) : t.pool = s.pool := by
  have hfree := h.free
  have hret := h.retired
  cases hs : s.pool
  cases ht : t.pool
  rw [hs, ht] at hfree hret
  cases hfree
  cases hret
  rfl

theorem CoreSame.poolCounts {s u t : State} (h : CoreSame u t) (k : PoolCounts s) (hq : u.queues = s.queues)
    (hp : u.ports = s.ports) (hpool : u.pool = s.pool)
    (hrun : s.startup.state = .running → u.startup.state = .running) : PoolCounts t :=
  (h.same hq hp).pool (h.pool.trans hpool) (fun hs => by rw [h.startup]; exact hrun hs) k

theorem Traffic.poolCounts {s t : State} (h : Traffic s t) (k : PoolCounts s) : PoolCounts t := by
  refine ⟨fun c => ?_, fun ht c => ?_⟩
  · rw [h.cells, h.retired]
    exact k.cells c
  · rw [h.startup] at ht
    exact Nat.le_zero.1 ((h.held c).trans (k.off ht c).le)

/-- The cells without a group more (R16). -/
theorem cellsWithout_insertGroup (g : Nat) (r : List Nat) :
    cellsWithout (insertGroup g r) = (cellsWithout r).filter fun c => c / 256 != g := by
  unfold cellsWithout
  rw [List.filter_filter]
  refine List.filter_congr fun c _ => ?_
  rw [Bool.eq_iff_iff]
  simp only [Bool.not_eq_true', Bool.and_eq_true, bne_iff_ne, ne_eq, ← Bool.not_eq_true, List.contains_iff_mem,
    insertGroup_mem, not_or]

theorem count_filter_group (c g : Nat) (t : List Nat) :
    (t.filter fun x => x / 256 != g).count c = if c / 256 = g then 0 else t.count c := by
  split
  · next h =>
    refine List.count_eq_zero.2 fun hm => ?_
    have := (List.mem_filter.1 hm).2
    simp [h] at this
  · next h => exact List.count_filter (by simpa using h)

theorem Deed.poolCounts {c : Option Instr} {s t : State} (h : Deed c s t) (k : PoolCounts s) : PoolCounts t := by
  cases h with
  | sheds h _ => exact h.poolCounts k
  | relinks _ _ _ _ _ ht => exact ht.poolCounts k rfl rfl rfl id
  | begins _ _ _ _ _ _ ht => exact ht.poolCounts k rfl rfl rfl id
  | ends _ _ _ _ ht => exact ht.poolCounts k rfl rfl rfl id
  | tables _ _ _ ht => exact ht.poolCounts k rfl rfl rfl id
  | loads _ _ _ _ _ _ ht => exact ht.poolCounts k rfl rfl rfl id
  | times _ _ ht => exact ht.poolCounts k rfl rfl rfl id
  | idles _ _ _ ht => exact ht.poolCounts k rfl rfl rfl id
  | stores _ _ ht => exact ht.poolCounts k rfl rfl rfl id
  | starts _ running _ ht => exact ht.poolCounts k rfl rfl rfl running
  | retires g off ht =>
    have hsame : TrafficSame s t := ht.same rfl rfl
    have hfree : t.pool.free = s.pool.free.filter fun c => c / 256 != g := ht.free
    have hret : t.pool.retired = insertGroup g s.pool.retired := ht.retired
    refine ⟨fun x => ?_, fun _ x => (hsame.held x).trans (k.off off x)⟩
    have hcells := k.cells x
    rw [k.off off x, Nat.add_zero] at hcells
    rw [hfree, hret, hsame.held, k.off off x, cellsWithout_insertGroup, count_filter_group, count_filter_group, hcells,
      Nat.add_zero]
  | refills off ht =>
    generalize hfree : cellsWithout s.pool.retired = free at ht
    have hsame : TrafficSame s t := ht.same rfl rfl
    refine ⟨fun x => ?_, fun _ x => (hsame.held x).trans (k.off off x)⟩
    rw [hsame.held, k.off off x, Nat.add_zero, ht.free, ht.retired, ← hfree]

theorem QueueJoins.poolCounts {s t : State} (h : QueueJoins s t) (hr : RunsRunning s) (k : PoolCounts s) : PoolCounts t := by
  refine ⟨fun c => ?_, fun ht => ?_⟩
  · rw [h.cells, h.retired]
    exact k.cells c
  · rw [h.startup] at ht
    rcases h.may with hrun | ⟨l, hl⟩
    · exact absurd hrun ht
    · rw [hr ht l] at hl
      cases hl

theorem Loads.poolCounts {s t : State} (h : Loads s t) (k : PoolCounts s) : PoolCounts t := by
  obtain ⟨b, x, _, _, _, ht⟩ := h.body
  exact ht.poolCounts k rfl rfl rfl id

theorem cellsHeld_none {t : State} (hq : t.queues = emptyQueues) (htx : ∀ p, (t.port p).tx = none) (c : Nat) :
    cellsHeld c t = 0 := by
  have hsame : TrafficSame State.reset t :=
    ⟨hq, fun p => (htx p).trans (reset_tx p).symm⟩
  rw [hsame.held, ← count_heldCells, heldCells_reset]
  rfl

theorem StepTaken.poolCounts {c : Option Instr} {s t : State} (h : StepTaken c s t) (hr : RunsRunning s)
    (k : PoolCounts s) : PoolCounts t :=
  (h.keeps (P := fun u => RunsRunning u ∧ PoolCounts u)
    (fun _ _ hd hs => ⟨hd.runsRunning hs.1, hd.poolCounts hs.2⟩)
    (fun _ _ hj hs => ⟨hj.toRecordsSame.runsRunning hs.1, hj.poolCounts hs.1 hs.2⟩)
    (fun _ _ hl hs => ⟨hl.runsRunning, hl.poolCounts hs.2⟩)
    (fun s t kind _ hreset _ => by
      obtain ⟨hq, htx⟩ := hardReset_traffic hreset
      refine ⟨hreset.runsRunning (runLaw_hardReset kind s).running, fun c => ?_, fun _ c => cellsHeld_none hq htx c⟩
      rw [cellsHeld_none hq htx, Nat.add_zero, hreset.pool, hardReset_pool])
    ⟨hr, k⟩).2

/-! ## The store (R168 to R171, R173) -/

/-- What the store's law asks of the images alone (R168). -/
structure ImagesLaw (x : Store) : Prop where
  slot : ∀ j, (tget x.slots j).erased = true → (tget x.slots j).marker ≠ markerValid
  page : x.info.erased = true → x.info.marker ≠ markerValid

theorem storeLaw_idle {x : Store} (h : ImagesLaw x) (hop : x.op = none) : StoreLaw x :=
  ⟨h.slot, h.page, fun o ho => by rw [hop] at ho; cases ho⟩

theorem StoreLaw.images {x : Store} (h : StoreLaw x) : ImagesLaw x := ⟨h.1, h.2.1⟩

theorem erased_updSlot {s : State} {k : Fin 4} {f : SlotImage → SlotImage} (h : ImagesLaw s.store)
    (hf : (f (tget s.store.slots k)).erased = true → (f (tget s.store.slots k)).marker ≠ markerValid) :
    ImagesLaw (updSlot k f s).store := by
  refine ⟨fun j => ?_, h.page⟩
  change (tget (tset s.store.slots k (f (tget s.store.slots k))) j).erased = true →
    (tget (tset s.store.slots k (f (tget s.store.slots k))) j).marker ≠ markerValid
  rw [tget_tset]
  split
  · exact hf
  · exact h.slot j

theorem erased_updInfo {s : State} {f : InfoImage → InfoImage} (h : ImagesLaw s.store)
    (hf : (f s.store.info).erased = true → (f s.store.info).marker ≠ markerValid) : ImagesLaw (updInfo f s).store :=
  ⟨h.slot, hf⟩

theorem markerNone_invalid : markerNone ≠ markerValid := by decide

theorem cutErase_images (job : StoreJob) {s : State} (h : ImagesLaw s.store) : ImagesLaw (cutErase job s).store := by
  cases job with
  | eraseSlot k =>
    refine erased_updSlot (s := { s with freeCount := s.freeCount + 1 + 1 }) h ?_
    unfold cutSlot
    split
    · exact h.slot k
    · next hno =>
      cases Config.eraseLeftover s.freeCount with
      | allOnes => exact fun _ => markerNone_invalid
      | untouched => exact fun he => absurd he hno
      | damaged m => exact fun he => by cases he
  | eraseInfo =>
    refine erased_updInfo (s := { s with freeCount := s.freeCount + 1 + 1 }) h ?_
    unfold cutInfo
    split
    · exact h.page
    · next hno =>
      cases Config.eraseLeftover s.freeCount with
      | allOnes => exact fun _ => markerNone_invalid
      | untouched => exact fun he => absurd he hno
      | damaged m => exact fun he => by cases he
  | saveSlot k b c => exact h
  | invalidateSlot k => exact h
  | writeInfo a b => exact h

theorem cutProgram_images (job : StoreJob) (total n : Nat) {s : State} (h : ImagesLaw s.store) :
    ImagesLaw (cutProgram job total n s).store := by
  cases job with
  | eraseSlot k => exact h
  | eraseInfo => exact h
  | saveSlot k b c => exact erased_updSlot (s := { s with freeCount := s.freeCount + 1 }) h fun he => by cases he
  | invalidateSlot k => exact erased_updSlot (s := { s with freeCount := s.freeCount + 1 }) h fun he => by cases he
  | writeInfo a b => exact erased_updInfo (s := { s with freeCount := s.freeCount + 1 }) h fun he => by cases he

theorem cutOp_images {s : State} (h : ImagesLaw s.store) : ImagesLaw (cutOp s).store := by
  have hop : ∀ {u : State}, ImagesLaw u.store → ImagesLaw (updStore (fun x => { x with op := none }) u).store :=
    fun h => ⟨h.slot, h.page⟩
  unfold cutOp
  split
  · next o _ =>
    cases o.phase with
    | erase => exact hop (cutErase_images o.job h)
    | program => exact hop (cutProgram_images o.job o.total (o.done + 1) h)
    | recovery => exact hop h
  · exact h

theorem storeLaw_hardReset {s : State} (k : ResetKind) (h : StoreLaw s.store) : StoreLaw (hardReset k s).store := by
  have himages := cutOp_images h.images
  exact storeLaw_idle ⟨himages.slot, himages.page⟩ rfl

theorem Deed.storeLaw {c : Option Instr} {s t : State} (h : Deed c s t) (k : StoreLaw s.store) : StoreLaw t.store := by
  cases h with
  | sheds h _ => exact h.store ▸ k
  | relinks _ _ _ _ _ ht => exact ht.store ▸ k
  | begins _ _ _ _ _ _ ht => exact ht.store ▸ k
  | ends _ _ _ _ ht => exact ht.store ▸ k
  | tables _ _ _ ht => exact ht.store ▸ k
  | loads _ _ _ _ _ _ ht => exact ht.store ▸ k
  | times _ _ ht => exact ht.store ▸ k
  | idles _ _ _ ht => exact ht.store ▸ k
  | stores x h ht =>
    rw [show t.store = x from ht.store]
    exact h.law k
  | starts _ _ _ ht => exact ht.store ▸ k
  | retires _ _ ht => exact ht.store ▸ k
  | refills _ ht => exact ht.store ▸ k

theorem StepTaken.storeLaw {c : Option Instr} {s t : State} (h : StepTaken c s t) (k : StoreLaw s.store) :
    StoreLaw t.store :=
  h.keeps (P := fun u => StoreLaw u.store) (fun _ _ => Deed.storeLaw) (fun _ _ hj hs => hj.store ▸ hs)
    (fun _ _ hl hs => by obtain ⟨b, x, _, _, _, ht⟩ := hl.body; exact ht.store ▸ hs)
    (fun s t kind _ hr hs => by
      rw [hr.store]
      exact storeLaw_hardReset kind hs) k

end Sys2Proof.Machine
end

section
/-!
SUPPORT. The deeds of requests that write a class of the configuration (O40, O50, O56 to O59): PORT, TENANT, SHARE_SET,
PARAMETERS, LINK, STEP, SCHEDULE, PULSE_OUTPUT, NOTICE_CONFIG and ACTIVATE_SET.
-/

namespace Sys2Proof.Machine

/-! ## Small steps that no law reads -/

theorem core_setRate (b : BucketId) (r : Nat) (s : State) : CoreSame s (setRate b r s) := by
  obtain ⟨d, e, h, _⟩ := setRate_shape b r s
  rw [h]
  exact (core_sched s d).trans (core_ev _ e)

theorem core_setDepth (i : Tenant) (n : Nat) (s : State) : CoreSame s (setDepth i n s) := by
  obtain ⟨d, e, h, _⟩ := setDepth_shape i n s
  rw [h]
  exact (core_sched s d).trans (core_ev _ e)

theorem core_kick (p : Port) (s : State) : CoreSame s (kick p s) := core_ev s _

theorem core_kickBackhaul (s : State) : CoreSame s (kickBackhaul s) := by
  obtain ⟨e, h⟩ := kickBackhaul_shape s
  rw [h]
  exact core_ev s e

theorem core_notice (s : State) (n : NoticeState) : CoreSame s (s.setNotice n) := (notice_steady s n).core (by decide)

theorem core_noticeFallsDue (s : State) : CoreSame s (noticeFallsDue s) := (noticeFallsDue_steady s).core (by decide)

theorem core_mgmt (s : State) (x : Mgmt) : CoreSame s { s with mgmt := x } :=
  ⟨⟨rfl, rfl, rfl, rfl, rfl, rfl, rfl, rfl, rfl, rfl⟩, rfl, fun _ => rfl, rfl⟩

theorem core_share {s : State} {x : Calc} (h : x.table = s.share.table) : CoreSame s { s with share := x } :=
  ⟨⟨rfl, rfl, rfl, h, rfl, rfl, rfl, rfl, rfl, rfl⟩, rfl, fun _ => rfl, rfl⟩

/-! ## Classes of the configuration -/

/-- Other classes than the profiles change, and no link counts otherwise. -/
theorem deeds_cfg {c : Option Instr} {s t : State} {k : Classes} (ht : CoreSame { s with cfg := k } t)
    (hprof : k.profiles = s.cfg.profiles) (shares : shareSumLaw s → shareLaw k.tenants k.sets = true)
    (schedule : scheduleLaw s.cfg.schedule → scheduleLaw k.schedule)
    (ahead : ∀ e, e ∈ k.schedule → e ∈ s.cfg.schedule ∨ (s.time.valid = true → s.time.site.seconds < e.time)) :
    Deeds c s t := by
  have hsame : s.withRecords k s.links s.qual.ctx s.share.table = { s with cfg := k } := rfl
  refine deeds_records (k := k) (ls := s.links) (x := s.share.table) (hsame ▸ ht) shares schedule ahead (fun _ _ h => h)
    (.inr ⟨rfl, fun l => ⟨?_, rfl⟩⟩)
  show capacityE (s.link l) (k.profiles.get l) = capacityE (s.link l) (s.cfg.profiles.get l)
  rw [hprof]

/-- A class that is neither the profiles, the tenants, the sets nor the schedule changes. -/
theorem deeds_plainCfg {c : Option Instr} {s t : State} {k : Classes} (ht : CoreSame { s with cfg := k } t)
    (hprof : k.profiles = s.cfg.profiles) (hten : k.tenants = s.cfg.tenants) (hsets : k.sets = s.cfg.sets)
    (hsched : k.schedule = s.cfg.schedule) : Deeds c s t :=
  deeds_cfg ht hprof (fun h => by rw [hten, hsets]; exact h) (fun h => by rw [hsched]; exact h)
    fun e he => .inl (by rw [← hsched]; exact he)

/-- Deeds, and a computation of what they leave. -/
theorem deeds_then_recompute {c : Option Instr} {s t : State} (h : Deeds c s t) : Deeds c s (recompute t) :=
  h.trans (deeds_recompute t)

/-! ## What a request answers -/

/-- What follows by deeds is still one step. -/
def Works (c : Option Instr) (s t : State) : Prop := ∀ u, Deeds c t u → StepTaken c s u

theorem Deeds.works {c : Option Instr} {s t : State} (h : Deeds c s t) : Works c s t := fun _ k => .plain (h.trans k)

theorem Works.deeds {c : Option Instr} {s t u : State} (h : Works c s t) (k : Deeds c t u) : Works c s u :=
  fun v hv => h v (k.trans hv)

theorem Works.taken {c : Option Instr} {s t : State} (h : Works c s t) : StepTaken c s t := h t .refl

theorem StepTaken.before {c : Option Instr} {r s t : State} (k : Deeds c r s) (h : StepTaken c s t) : StepTaken c r t := by
  cases h with
  | plain h => exact .plain (k.trans h)
  | joined u v before h after => exact .joined u v (k.trans before) h after
  | loaded u v w before h between after => exact .loaded u v w (k.trans before) h between after
  | resets u kind before h power => exact .resets u kind (k.trans before) h power

theorem Works.before {c : Option Instr} {r s t : State} (k : Deeds c r s) (h : Works c s t) : Works c r t :=
  fun u hu => (h u hu).before k

/-- A request either changes nothing, or works and leaves nothing to follow its response. -/
def Answers (c : Option Instr) (s : State) (x : Reply × State) : Prop :=
  x.2 = s ∨ (x.1.after = .nothing ∧ Works c s x.2)

theorem answers_refuse (c : Option Instr) (st : Status) (s : State) : Answers c s (refuse st s) := .inl rfl

theorem answers_okay {c : Option Instr} {s t : State} {items : State → List Item} (h : Works c s t) :
    Answers c s (okay items t) := .inr ⟨rfl, h⟩

theorem answers_checked {c : Option Instr} {s : State} {valid : Bool} {f : State → Reply × State}
    (h : saveRuns s = false → Answers c s (f s)) : Answers c s (checked valid f s) := by
  unfold checked
  split
  · exact answers_refuse _ _ _
  · split
    · exact answers_refuse _ _ _
    · next hs => exact h (by simpa using hs)

/-! ## PORT, STEP, PARAMETERS, PULSE_OUTPUT and NOTICE_CONFIG -/

theorem answers_portClassWrite (c : Option Instr) (sel : Selector) (body : List Field) (s : State) :
    Answers c s (portClassWrite sel body s) := by
  unfold portClassWrite
  split
  · exact answers_refuse _ _ _
  · refine answers_checked fun _ => ?_
    dsimp only
    split
    · exact answers_okay (Deeds.works (deeds_plainCfg (CoreSame.refl _) rfl rfl rfl rfl))
    · exact answers_refuse _ _ _

theorem answers_stepClassWrite (c : Option Instr) (sel : Selector) (body : List Field) (s : State) :
    Answers c s (stepClassWrite sel body s) := by
  unfold stepClassWrite
  split
  · exact answers_refuse _ _ _
  · exact answers_checked fun _ => answers_okay (Deeds.works (deeds_plainCfg (CoreSame.refl _) rfl rfl rfl rfl))

theorem answers_paramClassWrite (c : Option Instr) (body : List Field) (s : State) :
    Answers c s (paramClassWrite body s) := by
  refine answers_checked fun _ => answers_okay (Deeds.works ?_)
  unfold applyParams
  dsimp only
  split
  · exact deeds_then_recompute (deeds_plainCfg (CoreSame.refl _) rfl rfl rfl rfl)
  · exact deeds_plainCfg (CoreSame.refl _) rfl rfl rfl rfl

/-- Only the outputs of the Time Unit change (R116). -/
theorem deeds_pulses {c : Option Instr} (s : State) (v : Vector PulseUnit 4) :
    Deeds c s { s with time := { s.time with pulses := v } } :=
  .single (.times { s.time with pulses := v }
    { servo := id, valid := .inl rfl, nanos := id, ahead := fun _ _ hv => .inr ⟨hv, le_refl _⟩ } (CoreSame.refl _))

theorem deeds_squelch {c : Option Instr} (s : State) : Deeds c s (squelch s) := deeds_pulses s _

theorem answers_pulseClassWrite (c : Option Instr) (sel : Selector) (body : List Field) (s : State) :
    Answers c s (pulseClassWrite sel body s) := by
  unfold pulseClassWrite
  split
  · exact answers_refuse _ _ _
  · next i _ =>
    refine answers_checked fun _ => answers_okay (Deeds.works ?_)
    have hcfg : Deeds c s (updCfg (fun k => { k with
        pulses := tset k.pulses i (pulseWritten body (tget k.pulses i)) }) s) :=
      deeds_plainCfg (CoreSame.refl _) rfl rfl rfl rfl
    exact hcfg.trans (deeds_squelch _)

theorem core_retakeDue (s : State) : CoreSame s (retakeDue s) := by
  unfold retakeDue
  split
  · dsimp only
    split
    · exact (core_notice s _).trans (core_noticeFallsDue _)
    · exact core_notice s _
  · exact CoreSame.refl s

theorem answers_noticeClassWrite (c : Option Instr) (body : List Field) (s : State) :
    Answers c s (noticeClassWrite body s) := by
  refine answers_checked fun _ => answers_okay (Deeds.works ?_)
  have hcfg : Deeds c s (updCfg (fun k => { k with notice := noticeWritten body k.notice }) s) :=
    deeds_plainCfg (CoreSame.refl _) rfl rfl rfl rfl
  unfold applyNotice
  dsimp only
  split
  · exact hcfg.trans (deeds_core (core_retakeDue _))
  · exact hcfg

/-! ## TENANT, SHARE_SET and ACTIVATE_SET (R62, R64, R66) -/

/-- With no tenant activated the share-sum law stays (R61, R65). -/
theorem shareLaw_tset {v : Vector TenantConfig 8} {sets : Vector ShareSet 4} {i : Tenant} {x : TenantConfig}
    (hx : x.active = true → (tget v i).active = true) (h : shareLaw v sets = true) : shareLaw (tset v i x) sets = true := by
  unfold shareLaw at h ⊢
  rw [List.all_eq_true] at h ⊢
  intro k hk
  refine decide_eq_true ((List.sum_le_sum fun j _ => ?_).trans (of_decide_eq_true (h k hk)))
  rw [tget_tset]
  by_cases hj : j = i
  · rw [if_pos hj]
    cases hact : x.active with
    | false => exact Nat.zero_le _
    | true =>
      rw [hj, hx hact]
  · rw [if_neg hj]

theorem deeds_applyTenant {c : Option Instr} {i : Tenant} {body : List Field} {x : TenantConfig} {s : State}
    (h : shareSumLaw s → shareLaw (tset s.cfg.tenants i x) s.cfg.sets = true) : Deeds c s (applyTenant i body x s) := by
  have hcfg : Deeds c s (updCfg (fun k => { k with tenants := tset k.tenants i x }) s) :=
    deeds_cfg (CoreSame.refl _) rfl h id fun _ he => .inl he
  have hdepth : Deeds c s (if (bytes? body 4).isSome then
      setDepth i x.depth (updCfg (fun k => { k with tenants := tset k.tenants i x }) s)
      else updCfg (fun k => { k with tenants := tset k.tenants i x }) s) := by
    split
    · exact hcfg.trans (deeds_core (core_setDepth _ _ _))
    · exact hcfg
  unfold applyTenant
  dsimp only
  split
  · exact hdepth
  · exact deeds_then_recompute (hdepth.trans (deeds_core (core_kickBackhaul _)))

theorem answers_tenantClassWrite (c : Option Instr) (sel : Selector) (body : List Field) (s : State) :
    Answers c s (tenantClassWrite sel body s) := by
  unfold tenantClassWrite
  split
  · exact answers_refuse _ _ _
  · next i _ =>
    refine answers_checked fun _ => ?_
    dsimp only
    split
    · exact answers_refuse _ _ _
    · next hno =>
      refine answers_okay (Deeds.works (deeds_applyTenant fun hs => ?_))
      by_cases hact : (tenantWritten body (s.tenantCfg i)).active = true ∧ (s.tenantCfg i).active = false
      · simpa [hact] using hno
      · exact shareLaw_tset (fun hx => show (s.tenantCfg i).active = true by simpa [hx] using hact) hs

/-- A lawful set keeps the share-sum law (R64, R65). -/
theorem shareLaw_set {v : Vector TenantConfig 8} {sets : Vector ShareSet 4} {k : SetId} {x : ShareSet}
    (hx : guaranteeSum v x ≤ 1000) (h : shareLaw v sets = true) : shareLaw v (tset sets k x) = true := by
  unfold shareLaw at h ⊢
  rw [List.all_eq_true] at h ⊢
  intro j hj
  rw [tget_tset]
  split
  · exact decide_eq_true hx
  · exact h j hj

theorem answers_shareClassWrite (c : Option Instr) (sel : Selector) (body : List Field) (s : State) :
    Answers c s (shareClassWrite sel body s) := by
  unfold shareClassWrite
  split
  · exact answers_paramClassWrite c body s
  · split
    · exact answers_refuse _ _ _
    · next k _ =>
      refine answers_checked fun _ => ?_
      dsimp only
      split
      · next hle =>
        have hcfg : Deeds c s (updCfg (fun y => { y with sets := tset y.sets k (setWritten body (tget s.cfg.sets k)) }) s) :=
          deeds_cfg (CoreSame.refl _) rfl (shareLaw_set hle) id fun _ he => .inl he
        refine answers_okay (Deeds.works ?_)
        unfold applySet
        dsimp only
        split
        · exact deeds_then_recompute hcfg
        · exact hcfg
      · exact answers_refuse _ _ _

theorem deeds_setActive {c : Option Instr} (k : SetId) (s : State) : Deeds c s (setActive k s) :=
  deeds_plainCfg (CoreSame.refl _) rfl rfl rfl rfl

theorem answers_activateCommand (c : Option Instr) (body : List Field) (s : State) :
    Answers c s (activateCommand body s) := by
  unfold activateCommand
  split
  · exact answers_refuse _ _ _
  · refine answers_checked fun _ => ?_
    split
    · exact answers_okay (Deeds.works .refl)
    · exact answers_okay (Deeds.works (deeds_then_recompute (deeds_setActive _ s)))

/-! ## LINK (R36) -/

theorem answers_linkClassWrite (c : Option Instr) (sel : Selector) (body : List Field) (s : State) :
    Answers c s (linkClassWrite sel body s) := by
  unfold linkClassWrite
  split
  · exact answers_refuse _ _ _
  · next l _ =>
    refine answers_checked fun _ => answers_okay (Deeds.works ?_)
    have hcfg : Deeds c s (updCfg (fun k => { k with links := k.links.set l (linkWritten body (s.cfg.links.get l)) }) s) :=
      deeds_plainCfg (CoreSame.refl _) rfl rfl rfl rfl
    unfold applyLinkWrite
    dsimp only
    split
    · have hrate := hcfg.trans (deeds_core (c := c)
        (core_setRate (.reflect l) (linkWritten body (s.cfg.links.get l)).reflectAllowance _))
      split
      · exact deeds_then_recompute hrate
      · exact hrate
    · exact hcfg

/-! ## SCHEDULE (R130, R131) -/

theorem answers_scheduleClassWrite (c : Option Instr) (body : List Field) (s : State) :
    Answers c s (scheduleClassWrite body s) := by
  unfold scheduleClassWrite
  split
  · exact answers_refuse _ _ _
  · next e _ =>
    refine answers_checked fun _ => ?_
    unfold placeScheduled
    split
    · exact answers_refuse _ _ _
    · next hpast =>
      split
      · exact answers_refuse _ _ _
      · next hdup =>
        split
        · exact answers_refuse _ _ _
        · refine answers_okay (Deeds.works (deeds_cfg (CoreSame.refl _) rfl id (fun h => ?_) fun x hx => ?_))
          · exact insertEntry_law h fun x hx heq => hdup (List.any_eq_true.2 ⟨x, hx, by simpa using heq⟩)
          · rcases List.mem_cons.1 ((insertEntry_perm e s.cfg.schedule).mem_iff.1 hx) with rfl | hx
            · refine .inr fun hv => ?_
              simpa [hv] using hpast
            · exact .inl hx

theorem answers_scheduleClassDelete (c : Option Instr) (sel : Selector) (body : List Field) (s : State) :
    Answers c s (scheduleClassDelete sel body s) := by
  unfold scheduleClassDelete
  split
  · exact answers_refuse _ _ _
  · refine answers_checked fun _ => ?_
    unfold deleteScheduled
    split
    · exact answers_refuse _ _ _
    · next k _ =>
      split
      · exact answers_refuse _ _ _
      · have hsub := List.eraseIdx_sublist s.cfg.schedule k
        exact answers_okay (Deeds.works (deeds_cfg (CoreSame.refl _) rfl id (scheduleLaw_sublist hsub)
          fun _ hx => .inl (hsub.subset hx)))

end Sys2Proof.Machine
end

section
/-!
SUPPORT. The deeds of the Time Unit (O56, O58): the clock, the pulse input, the servo, SET_TIME, TIMING and the firing
(R101 to R117, R132 to R137).
-/

namespace Sys2Proof.Machine

/-! ## The Time Unit within an event -/

theorem deeds_times {c : Option Instr} {s t : State} {x : TimeUnit} (ht : CoreSame { s with time := x } t)
    (h : Times c x s) : Deeds c s t := .single (.times x h ht)

/-- The servo, the outputs and other parts of the Time Unit change, and site time does not. -/
theorem deeds_servo {c : Option Instr} {s t : State} {x : TimeUnit} (ht : CoreSame { s with time := x } t)
    (hsite : x.site = s.time.site) (hvalid : x.valid = s.time.valid) (hf : servoLaw s → servoLaw { s with time := x }) :
    Deeds c s t :=
  deeds_times ht
    { servo := hf, valid := .inl hvalid, nanos := fun h => by rw [hsite]; exact h
      ahead := fun _ _ hv => .inr ⟨hvalid.symm.trans hv, by rw [hsite]⟩ }

/-- A change of the servo that keeps its adjustment within the limits (R110). -/
theorem deeds_updServo {c : Option Instr} {f : Servo → Servo} (s : State)
    (hf : ∀ v : Servo, -200000 ≤ v.f ∧ v.f ≤ 200000 → -200000 ≤ (f v).f ∧ (f v).f ≤ 200000) :
    Deeds c s (updServo f s) :=
  deeds_servo (x := { s.time with servo := f s.time.servo }) (CoreSame.refl _) rfl rfl (hf _)

theorem CoreSame.withRecords {s t : State} (h : CoreSame s t) (k : Classes) (x : AllocTable) :
    CoreSame (s.withRecords k s.links s.qual.ctx x) (t.withRecords k t.links t.qual.ctx x) :=
  ⟨⟨rfl, h.flows, h.retired, rfl, h.links, h.time, h.runs, h.store, h.startup, h.pending⟩, h.queues, h.tx, h.free⟩

/-- In order, the entries that wait lie after the seconds count (R129). -/
theorem waitingEntries_after {n : Nat} {t : List ScheduleEntry} (h : scheduleLaw (waitingEntries n t)) :
    ∀ e, e ∈ waitingEntries n t → n < e.time := by
  unfold waitingEntries scheduleLaw at *
  cases hw : t.dropWhile fun e => decide (e.time ≤ n) with
  | nil => intro e he; cases he
  | cons x rest =>
    have hx : ¬x.time ≤ n := by
      have := List.head?_dropWhile_not (p := fun e : ScheduleEntry => decide (e.time ≤ n)) (l := t)
      rw [hw] at this
      simpa using this
    rw [hw, List.map_cons, List.pairwise_cons] at h
    intro e he
    rcases List.mem_cons.1 he with rfl | he
    · omega
    · have := h.1 e.time (List.mem_map_of_mem he)
      omega

theorem Fresh.of_eq {u v : State} (h : Fresh u) (ht : v.share.table = u.share.table) (hcfg : v.cfg = u.cfg)
    (hlinks : v.links = u.links) : Fresh v := by
  obtain ⟨w, h1, h2, h3⟩ := h
  exact ⟨w, ht.trans h1, h2.trans hcfg.symm, h3.trans hlinks.symm⟩

/-- Site time is set or moved, and what it has reached fires in the same event (R132, R133, R135). -/
theorem deeds_setAndFire {c : Option Instr} {s u : State} {x : TimeUnit} (hu : CoreSame { s with time := x } u)
    (servo : servoLaw s → servoLaw { s with time := x })
    (valid : x.valid = s.time.valid ∨ (maySetTime c ∧ s.startup.state = .running ∧ x.valid = true))
    (nanos : s.time.site.nanos < 1000000000 → x.site.nanos < 1000000000) : Deeds c s (fireEntries u) := by
  have htime : u.time = x := hu.time
  have hcfg : u.cfg = s.cfg := hu.cfg
  rcases fireEntries_cases u with ⟨hv, h⟩ | ⟨_, hall, h⟩ | ⟨k, y, ⟨_, hfresh⟩, h⟩
  · rw [h]
    rw [htime] at hv
    exact deeds_times hu ⟨servo, valid, nanos, fun _ _ hx => absurd (hv.symm.trans hx) (by decide)⟩
  · rw [h]
    rw [htime, hcfg] at hall
    refine deeds_times hu ⟨servo, valid, nanos, fun hlaw _ _ => .inl fun e he => ?_⟩
    rw [← hall] at hlaw he
    exact waitingEntries_after hlaw e he
  · rw [htime, hcfg] at hfresh h
    have hback := (hu.withRecords { s.cfg with
      schedule := waitingEntries x.site.seconds s.cfg.schedule, activeSet := k } y).trans h
    have hfirst : Deeds c s (s.withRecords { s.cfg with
        schedule := waitingEntries x.site.seconds s.cfg.schedule, activeSet := k } s.links s.qual.ctx y) :=
      deeds_records (CoreSame.refl _) id (scheduleLaw_sublist (waitingEntries_sublist _ _))
        (fun e he => .inl ((waitingEntries_sublist _ _).subset he)) (fun _ _ h => h)
        (.inl (hfresh.of_eq rfl rfl hu.links.symm))
    refine hfirst.trans (deeds_times (x := x) hback ⟨servo, valid, nanos, fun hlaw _ _ => .inl ?_⟩)
    exact fun e he => waitingEntries_after hlaw e he

/-! ## SET_TIME and TIMING (R104, R114) -/

theorem settledSite_nanos {st : ServoState} {sec ns : Nat} {x : SiteTime} (hns : ns ≤ 999999999)
    (hx : x.nanos < 1000000000) : (settledSite st sec ns x).nanos < 1000000000 := by
  cases st with
  | locked => exact hx
  | holdover => exact hx
  | freeRun => exact Nat.lt_of_le_of_lt hns (by decide)
  | acquiring => exact Nat.lt_of_le_of_lt hns (by decide)

theorem deeds_applyTime {c : Option Instr} {sec ns : Nat} {s : State} (hc : maySetTime c)
    (hrun : s.startup.state = .running) (hns : ns ≤ 999999999) : Deeds c s (applyTime sec ns s) := by
  unfold applyTime
  dsimp only
  split
  · exact deeds_setAndFire (CoreSame.refl _) id (.inr ⟨hc, hrun, rfl⟩) (settledSite_nanos hns)
  · next hno =>
    simp only [Bool.or_eq_true, Bool.not_eq_true', not_or, Bool.not_eq_false] at hno
    refine deeds_times (CoreSame.refl _) ⟨id, .inr ⟨hc, hrun, rfl⟩, settledSite_nanos hns, fun _ _ _ => .inr ⟨hno.1, ?_⟩⟩
    have hlater := hno.2
    unfold SiteTime.later at hlater
    simp only [decide_eq_true_eq, not_or] at hlater
    exact Nat.le_of_not_lt hlater.1

theorem answers_setTimeCommand {c : Option Instr} (body : List Field) {s : State} (hc : maySetTime c)
    (hrun : s.startup.state = .running) : Answers c s (setTimeCommand body s) := by
  unfold setTimeCommand
  split
  · split
    · next hok => exact answers_okay (Deeds.works (deeds_applyTime hc hrun hok.2.2))
    · exact answers_refuse _ _ _
  · exact answers_refuse _ _ _

theorem deeds_holdoverExpires {c : Option Instr} (s : State) : Deeds c s (holdoverExpires s) :=
  ((deeds_updServo (f := fun v => { v with state := .freeRun, holdoverStart := none, holdoverEnds := none }) s
    fun _ => id).trans (deeds_core (core_raise _ _ _))).trans (deeds_squelch _)

theorem retakeLimit_f (n : Nat) (v : Servo) : (v.retakeLimit n).f = v.f := by
  unfold Servo.retakeLimit
  split <;> rfl

theorem answers_timingClassWrite (c : Option Instr) (body : List Field) (s : State) :
    Answers c s (timingClassWrite body s) := by
  refine answers_checked fun _ => answers_okay (Deeds.works ?_)
  have hcfg : Deeds c s (updCfg (fun k => { k with timing := timingWritten body k.timing }) s) :=
    deeds_plainCfg (CoreSame.refl _) rfl rfl rfl rfl
  unfold applyTiming
  dsimp only
  split
  · have hretaken := hcfg.trans (deeds_updServo (f := Servo.retakeLimit (timingWritten body s.cfg.timing).holdoverLimit) _
      fun v h => by rw [retakeLimit_f]; exact h)
    split
    · exact hretaken.trans (deeds_holdoverExpires _)
    · exact hretaken
  · exact hcfg

/-! ## The pulse input and the servo (R106 to R113) -/

theorem clampF_bounds (f : Int) : -200000 ≤ clampF f ∧ clampF f ≤ 200000 := by
  unfold clampF
  omega

theorem deeds_servoDiscipline {c : Option Instr} (e : Int) (t : Ns) (s : State) : Deeds c s (servoDiscipline e t s) := by
  have hservo : Deeds c s (updServo (fun v => { v with
      state := stateAfterEdge s.cfg.timing (updServo (Servo.disciplined s.cfg.timing e t) s).time.servo })
      (updServo (Servo.disciplined s.cfg.timing e t) s)) :=
    (deeds_updServo s fun _ _ => clampF_bounds _).trans (deeds_updServo _ fun _ => id)
  unfold servoDiscipline
  dsimp only
  refine Relation.ReflTransGen.trans ?_ (deeds_squelch _)
  split
  · exact hservo.trans (deeds_core (core_raise _ _ _))
  · exact hservo

/-- A move of site time by the phase error of an edge: the nanoseconds stay below a second, and a move that is not
forward keeps the seconds (R108, R109). -/
theorem move_phaseError {x : SiteTime} {comp : Nat} :
    (x.move (-phaseErrorOf x.nanos comp)).nanos < 1000000000
      ∧ (x.nanos < 1000000000 → ¬phaseErrorOf x.nanos comp < 0 →
          (x.move (-phaseErrorOf x.nanos comp)).seconds ≤ x.seconds) := by
  unfold SiteTime.move phaseErrorOf secondsWrap
  dsimp only
  refine ⟨by omega, fun hn he => ?_⟩
  split at he
  · next hd =>
    rw [if_pos hd]
    omega
  · omega

/-- A servo step before the firing: site time, the servo and the outputs have changed. -/
theorem servoStepped_core (e : Int) (s : State) :
    ∃ v, CoreSame { s with time := { s.time with
        site := s.time.site.move (-e), servo := s.time.servo.stepped, pulses := v } }
      (squelch (raise .timeStepped none (updServo Servo.stepped (updSite (SiteTime.move (-e)) s)))) := by
  obtain ⟨x, w, h⟩ := raise_shape .timeStepped none (updServo Servo.stepped (updSite (SiteTime.move (-e)) s))
  rw [h]
  exact ⟨_, ⟨⟨rfl, rfl, rfl, rfl, rfl, rfl, rfl, rfl, rfl, rfl⟩, rfl, fun _ => rfl, rfl⟩⟩

theorem deeds_servoStep {c : Option Instr} {s : State} {comp : Nat} :
    Deeds c s (servoStep (phaseErrorOf s.time.site.nanos comp) s) := by
  obtain ⟨hnanos, hback⟩ := move_phaseError (x := s.time.site) (comp := comp)
  obtain ⟨v, hu⟩ := servoStepped_core (phaseErrorOf s.time.site.nanos comp) s
  unfold servoStep
  dsimp only
  split
  · exact deeds_setAndFire hu id (.inl rfl) fun _ => hnanos
  · next he =>
    exact deeds_times hu
      { servo := id, valid := .inl rfl, nanos := fun _ => hnanos, ahead := fun _ hn hv => .inr ⟨hv, hback hn he⟩ }

theorem deeds_takeEdge {c : Option Instr} (s : State) : Deeds c s (takeEdge s) := by
  unfold takeEdge
  split
  · unfold acceptEdge
    dsimp only
    refine (deeds_updServo (f := fun v => { v with
      accepted := v.accepted + 1, reference := some s.nowNs
      phaseError := some (phaseErrorOf s.time.site.nanos s.cfg.timing.comp) }) s fun _ => id).trans ?_
    split
    · exact deeds_servoStep (comp := s.cfg.timing.comp)
    · exact deeds_servoDiscipline _ _ _
  · exact (deeds_updServo (f := fun v => { v with rejected := v.rejected + 1 }) s fun _ => id).trans
      (deeds_core (core_raise _ _ _))

theorem deeds_pulseLost {c : Option Instr} (s : State) : Deeds c s (pulseLost s) := by
  have hlost : Deeds c s (updServo Servo.lost s) := deeds_updServo s fun _ => id
  unfold pulseLost
  dsimp only
  split
  · exact ((hlost.trans (deeds_updServo (f := Servo.hold s.nowNs s.cfg.timing.holdoverLimit) _ fun _ => id)).trans
      (deeds_core (core_raise _ _ _))).trans (deeds_squelch _)
  · exact ((hlost.trans (deeds_updServo (f := fun v => { v with state := .freeRun }) _ fun _ => id)).trans
      (deeds_core (core_raise _ _ _))).trans (deeds_squelch _)
  · exact hlost

theorem deeds_slewEnds {c : Option Instr} (s : State) : Deeds c s (slewEnds s) :=
  deeds_updServo (f := fun v => { v with slew := 0, slewEnd := none }) s fun _ => id

theorem deeds_pulseRise {c : Option Instr} (k : Fin 4) (s : State) : Deeds c s (pulseRise k s) := by
  unfold pulseRise
  split
  · exact deeds_pulses s _
  · exact .refl

theorem deeds_pulseFall {c : Option Instr} (k : Fin 4) (s : State) : Deeds c s (pulseFall k s) := deeds_pulses s _

/-- The wrap of the seconds moves site time back (R102, R134). -/
theorem deeds_wrapSeconds {c : Option Instr} (s : State) : Deeds c s (wrapSeconds s) := by
  refine deeds_times (CoreSame.refl _) { servo := id, valid := .inl rfl, nanos := id, ahead := fun _ _ hv => .inr ⟨hv, ?_⟩ }
  show (if secondsWrap ≤ s.time.site.seconds then s.time.site.seconds - secondsWrap else s.time.site.seconds) ≤ _
  split
  · exact Nat.sub_le _ _
  · exact le_refl _

/-! ## The clock of the empty queue (R101, R102) -/

theorem core_clock {s : State} {x : TimeUnit} {p : List Instr} {n : Nat} :
    CoreSame { s with time := x, pending := p } { s with time := x, pending := p, freeCount := n } :=
  core_freeCount { s with time := x, pending := p } n

theorem deeds_tick {s : State} (hp : s.pending = []) : Deeds none s (tick s) := by
  by_cases hns : (s.time.elapsed + 1).extractLsb' 0 16 = 0#16
  · obtain ⟨n, events, hshape, hreach, _⟩ := joinReached_shape
      (reachedBySite (advancedState s) (advanceSteps (driftOf s.time.servo) s.time.site)) (advancedState s)
    rw [tick_advances hns, hshape]
    refine .single (.idles (advancedState s).time _ ⟨hp, rfl, rfl, fun _ => ?_, fun hlaw _ hv => ?_⟩ core_clock)
    · exact Nat.mod_lt _ (by decide)
    · by_cases hdue : fireDue (advancedState s) = true
      · refine .inr (List.mem_append_right _ (hreach _ ?_))
        exact (mem_reachedBySite _ _).1.2 hdue
      · refine .inl fun e he => Nat.lt_of_not_le fun hle => hdue ?_
        exact fireDue_of_due (s := advancedState s) hlaw hv ⟨e, he, hle⟩
  · rw [tick_within hns]
    exact .single (.idles { s.time with elapsed := s.time.elapsed + 1 } s.pending
      ⟨hp, rfl, rfl, id, fun _ hall _ => .inl hall⟩ (CoreSame.refl _))

theorem deeds_idle {s : State} (hp : s.pending = []) : Deeds none s (idle s) := by
  unfold idle takeFree
  dsimp only
  split
  · exact deeds_tick hp
  · exact .single (.idles s.time _ ⟨hp, rfl, rfl, id, fun _ hall _ => .inl hall⟩ core_clock)

end Sys2Proof.Machine
end

section
/-!
SUPPORT. The deeds of requests that write the Flow Table, and of a lookup (O56): FLOW WRITE and DELETE (R24 to R31).
-/

namespace Sys2Proof.Machine

/-! ## The report of REFLECT entries (R31) -/

theorem deeds_reportReflect {c : Option Instr} (l : Link) (p : Bool) (s : State) : Deeds c s (reportReflect l p s) := by
  by_cases h : s.share.reflectPresent.get l = p
  · rw [reportReflect_same h]
  · have hheld : Deeds c s (presentHeld l p s) := deeds_core (core_share rfl)
    cases hin : s.inService l with
    | true =>
      rw [reportReflect_inside h hin]
      exact deeds_then_recompute hheld
    | false =>
      rw [reportReflect_outside h hin]
      exact hheld

theorem deeds_reportReflects {c : Option Instr} (s : State) : Deeds c s (reportReflects s) := by
  rw [reportReflects_eq]
  exact (deeds_reportReflect _ _ s).trans (deeds_reportReflect _ _ _)

theorem deeds_setFlows {c : Option Instr} {s : State} {f : List (Nat × FlowEntry)}
    (law : flowLaw s.flows → flowLaw f)
    (tests : flowLaw s.flows → ∀ y : Nat × FlowSpec × Owner, y.2.2 = .test → (y ∈ f.map entryFacts ↔ y ∈ s.facts)) :
    Deeds c s (setFlows f s) :=
  (Relation.ReflTransGen.single (.tables f law tests (CoreSame.refl _))).trans (deeds_reportReflects _)

/-! ## Placing, replacing and removing a MANAGEMENT entry (R25, R26) -/

/-- In a lawful table the entry of a slot is the only one there (R21). -/
theorem slot_unique {t : List (Nat × FlowEntry)} (h : flowLaw t) {x y : Nat × FlowEntry} (hx : x ∈ t) (hy : y ∈ t)
    (hslot : x.1 = y.1) : x = y :=
  List.inj_on_of_nodup_map (h.1.imp fun hlt => hlt.ne) hx hy hslot

theorem tests_place (n : Nat) (e : FlowEntry) (t : List (Nat × FlowEntry)) (he : e.owner = .management)
    (y : Nat × FlowSpec × Owner) (hy : y.2.2 = .test) :
    y ∈ (placeEntry n e t).map entryFacts ↔ y ∈ t.map entryFacts := by
  rw [((placeEntry_perm n e t).map entryFacts).mem_iff, List.map_cons, List.mem_cons]
  refine ⟨fun h => h.resolve_left fun heq => ?_, .inr⟩
  rw [heq, show (entryFacts (n, e)).2.2 = e.owner from rfl, he] at hy
  cases hy

theorem tests_update {n : Nat} {e : FlowEntry} {f : FlowEntry → FlowEntry} {t : List (Nat × FlowEntry)} (h : flowLaw t)
    (hmem : (n, e) ∈ t) (he : e.owner ≠ .test) (hf : (f e).owner ≠ .test) (y : Nat × FlowSpec × Owner) (hy : y.2.2 = .test) :
    y ∈ (updateSlot n f t).map entryFacts ↔ y ∈ t.map entryFacts := by
  have hother : ∀ x, x ∈ t → x.1 = n → x = (n, e) := fun x hx hslot => slot_unique h hx hmem hslot
  unfold updateSlot
  rw [List.map_map]
  simp only [List.mem_map, Function.comp]
  refine exists_congr fun x => and_congr_right fun hx => ?_
  split
  · next hslot =>
    rw [hother x hx hslot]
    refine ⟨fun heq => absurd hy ?_, fun heq => absurd hy ?_⟩
    · rw [← heq]
      exact hf
    · rw [← heq]
      exact he
  · rfl

theorem flowLaw_update {n : Nat} {e : FlowEntry} {f : FlowEntry → FlowEntry} {t : List (Nat × FlowEntry)} (h : flowLaw t)
    (hmem : (n, e) ∈ t) (hkey : (f e).spec.key = e.spec.key) : flowLaw (updateSlot n f t) := by
  have hslots : (updateSlot n f t).map (fun x => x.1) = t.map fun x => x.1 := by
    unfold updateSlot
    rw [List.map_map]
    refine List.map_congr_left fun x _ => ?_
    simp only [Function.comp]
    split <;> rfl
  have hkeys : (updateSlot n f t).map (fun x => x.2.spec.key) = t.map fun x => x.2.spec.key := by
    unfold updateSlot
    rw [List.map_map]
    refine List.map_congr_left fun x hx => ?_
    simp only [Function.comp]
    split
    · next hslot =>
      rw [slot_unique h hx hmem hslot]
      exact hkey
    · rfl
  unfold flowLaw
  rw [hslots, hkeys]
  exact h

theorem tests_free {n : Nat} {e : FlowEntry} {t : List (Nat × FlowEntry)} (h : flowLaw t) (hmem : (n, e) ∈ t)
    (he : e.owner ≠ .test) (y : Nat × FlowSpec × Owner) (hy : y.2.2 = .test) :
    y ∈ (freeSlot n t).map entryFacts ↔ y ∈ t.map entryFacts := by
  unfold freeSlot
  simp only [List.mem_map, List.mem_filter, bne_iff_ne, ne_eq]
  refine exists_congr fun x => ⟨fun ⟨⟨hx, _⟩, heq⟩ => ⟨hx, heq⟩, fun ⟨hx, heq⟩ => ⟨⟨hx, fun hslot => he ?_⟩, heq⟩⟩
  rw [slot_unique h hx hmem hslot] at heq
  rw [← hy, ← heq]
  rfl

theorem findKey_mem {k : FlowKey} {t : List (Nat × FlowEntry)} {x : Nat × FlowEntry} (h : findKey k t = some x) :
    x ∈ t ∧ x.2.spec.key = k :=
  ⟨List.mem_of_find?_eq_some h, by simpa using List.find?_some h⟩

theorem slotEntry_mem {n : Nat} {t : List (Nat × FlowEntry)} {e : FlowEntry} (h : slotEntry n t = some e) : (n, e) ∈ t := by
  obtain ⟨x, hx, rfl⟩ := Option.map_eq_some_iff.1 h
  have hn : x.1 = n := by simpa using List.find?_some hx
  exact hn ▸ List.mem_of_find?_eq_some hx

theorem namedFlow_mem {f : FlowName} {s : State} {x : Nat × FlowEntry} (h : namedFlow f s = some x) : x ∈ s.flows := by
  cases f with
  | slot k =>
    obtain ⟨e, he, rfl⟩ := Option.map_eq_some_iff.1 h
    exact slotEntry_mem he
  | key k => exact (findKey_mem h).1

theorem answers_flowClassWrite (c : Option Instr) (sel : Selector) (body : List Field) (s : State) :
    Answers c s (flowClassWrite sel body s) := by
  unfold flowClassWrite
  split
  · exact answers_refuse _ _ _
  · next x _ =>
    refine answers_checked fun _ => ?_
    unfold placeFlow
    split
    · next hnone =>
      split
      · exact answers_refuse _ _ _
      · next n hn =>
        exact answers_okay (Deeds.works (deeds_setFlows (fun h => flowLaw_place h hn hnone)
          fun _ => tests_place n _ _ rfl))
    · next n e hfind =>
      obtain ⟨hmem, hkey⟩ := findKey_mem hfind
      split
      · exact answers_refuse _ _ _
      · next hown =>
        exact answers_okay (Deeds.works (deeds_setFlows (fun h => flowLaw_update h hmem hkey.symm)
          fun h => tests_update h hmem hown Owner.noConfusion))

theorem answers_flowClassDelete (c : Option Instr) (sel : Selector) (body : List Field) (s : State) :
    Answers c s (flowClassDelete sel body s) := by
  unfold flowClassDelete
  split
  · exact answers_refuse _ _ _
  · refine answers_checked fun _ => ?_
    unfold deleteFlow
    split
    · exact answers_refuse _ _ _
    · next n e hnamed =>
      split
      · exact answers_refuse _ _ _
      · next hown =>
        exact answers_okay (Deeds.works (deeds_setFlows (flowLaw_sublist List.filter_sublist)
          fun h => tests_free h (namedFlow_mem hnamed) hown))

/-- A lookup records a hit, which no law reads (R28). -/
theorem core_lookup (k : FlowKey) (s : State) : CoreSame s (lookup k s).2 := by
  unfold lookup
  split
  · exact CoreSame.refl s
  · exact core_flows (facts_updateSlot _ _ _ fun e => ⟨rfl, rfl⟩)

end Sys2Proof.Machine
end

section
/-!
SUPPORT. The deeds of Link Control's reports, of aborted runs, and of the entries into the states of a link (O56, O57):
R40, R54, R148, R152.
-/

namespace Sys2Proof.Machine

/-! ## Test rates, aborts and the check of E_L (R148, R152) -/

theorem core_rateHeld (l : Link) (r : Nat) (s : State) : CoreSame s (rateHeld l r s) := core_share rfl

theorem deeds_reportTestRate {c : Option Instr} (l : Link) (r : Nat) (s : State) : Deeds c s (reportTestRate l r s) := by
  cases hin : s.inService l with
  | false =>
    rw [reportTestRate_outside hin]
    exact deeds_core (core_rateHeld l r s)
  | true =>
    by_cases hr : s.share.testRate.get l = r
    · rw [(reportTestRate_same hr).1]
    · rw [reportTestRate_inside hr hin]
      exact deeds_then_recompute (deeds_core (core_rateHeld l r s))

theorem deeds_abortRun {c : Option Instr} (l : Link) (cause : Cause) (s : State) : Deeds c s (abortRun l cause s) := by
  cases hrun : (s.ctx l).underWay with
  | false => rw [abortRun_idle hrun]
  | true =>
    rw [abortRun_eq hrun]
    have hend : Deeds c s (abortHeld l cause s) := .single (.ends l ((s.ctx l).abortedBy cause) hrun rfl (CoreSame.refl _))
    exact hend.trans (deeds_reportTestRate l 0 _)

theorem deeds_capacityCheck {c : Option Instr} (l : Link) (s : State) : Deeds c s (capacityCheck l s) := by
  by_cases hover : overCapacity l s
  · rw [capacityCheck_over hover]
    exact deeds_abortRun l .capacity s
  · rw [capacityCheck_under hover]

/-! ## Reports (R40) -/

/-- A report's computation, before the check of E_L. -/
theorem core_reportComputed (l : Link) (el0 : Nat) (m : State) :
    ∃ x, CoreSame (m.withRecords m.cfg m.links m.qual.ctx x) (reportComputed l el0 m)
      ∧ Fresh (m.withRecords m.cfg m.links m.qual.ctx x) := by
  unfold reportComputed
  split
  · exact ⟨computeTable m, core_recompute m, m, rfl, rfl, rfl⟩
  · let v := setRate (.pacing l) (m.el l) m
    have hv : CoreSame m v := core_setRate _ _ m
    refine ⟨computeTable v, (hv.withRecords m.cfg (computeTable v)).trans ?_, v, rfl, hv.cfg, hv.links⟩
    rw [← hv.cfg]
    exact core_recompute v

/-- What a report does to the state whatever was held of the link before. -/
theorem deeds_reportLink {c : Option Instr} (l : Link) (el0 : Nat) (svc0 : Bool) (m : State) :
    Deeds c m (reportLink l el0 svc0 m) := by
  have hcomputed : Deeds c m (reportComputed l el0 m) := by
    unfold reportComputed
    split
    · exact deeds_recompute m
    · exact deeds_then_recompute (deeds_core (core_setRate _ _ m))
  rcases reportLink_cases l el0 svc0 m with ⟨_, h⟩ | ⟨_, _, h⟩ | ⟨_, h⟩
  · rw [h]
  · rw [h]; exact hcomputed
  · rw [h]; exact hcomputed.trans (deeds_abortRun l .capacity _)

/-- Classes, links and contexts change with the table beside: what a report adds to such a change. -/
structure Prepared (l : Link) (k : Classes) (ls : PerLink LinkUnit) (q : PerLink Context) (s m : State) : Prop where
  core : CoreSame (s.withRecords k ls q s.share.table) m
  shares : shareSumLaw s → shareLaw k.tenants k.sets = true
  schedule : scheduleLaw s.cfg.schedule → scheduleLaw k.schedule
  ahead : ∀ e, e ∈ k.schedule → e ∈ s.cfg.schedule ∨ (s.time.valid = true → s.time.site.seconds < e.time)
  runs : ∀ j, (q.get j).underWay = true → (s.ctx j).underWay = true
    ∧ (s.mayRun j → (ls.get j).state = .qualifying ∨ (ls.get j).state = .inService)
    ∧ (q.get j).slot = (s.ctx j).slot ∧ (q.get j).testKey = (s.ctx j).testKey
  gone : ∀ j, (s.ctx j).underWay = true → (q.get j).underWay = true ∨ ¬s.mayRun j
  other : ∀ j, j ≠ l → m.el j = s.el j ∧ m.inService j = s.inService j

theorem Prepared.relinks {l : Link} {k : Classes} {ls : PerLink LinkUnit} {q : PerLink Context} {s m : State}
    (h : Prepared l k ls q s m) {x : AllocTable}
    (ht : Fresh (s.withRecords k ls q x) ∨ (x = s.share.table ∧ CountedAlike s (s.withRecords k ls q x))) :
    Relinks s (s.withRecords k ls q x) :=
  ⟨h.shares, h.schedule, h.ahead, h.runs, h.gone, ht⟩

theorem Prepared.unreported {c : Option Instr} {l : Link} {k : Classes} {ls : PerLink LinkUnit} {q : PerLink Context}
    {s m : State} (h : Prepared l k ls q s m) (hl : m.el l = s.el l ∧ m.inService l = s.inService l) : Deeds c s m := by
  refine .single (.relinks k ls q s.share.table (h.relinks (.inr ⟨rfl, fun j => ?_⟩)) h.core)
  have hsame : m.el j = s.el j ∧ m.inService j = s.inService j := by
    by_cases hj : j = l
    · exact hj ▸ hl
    · exact h.other j hj
  obtain ⟨hel, hin⟩ := el_congr h.core.cfg h.core.links j
  exact ⟨hel.symm.trans hsame.1, hin.symm.trans hsame.2⟩

theorem Prepared.computed {c : Option Instr} {l : Link} {k : Classes} {ls : PerLink LinkUnit} {q : PerLink Context}
    {s m : State} (h : Prepared l k ls q s m) (el0 : Nat) : Deeds c s (reportComputed l el0 m) := by
  obtain ⟨x, hx, hfresh⟩ := core_reportComputed l el0 m
  have hk := h.core
  have hback : CoreSame (s.withRecords k ls q x) (m.withRecords m.cfg m.links m.qual.ctx x) := by
    have hcfg : m.cfg = k := hk.cfg
    rw [hcfg]
    exact hk.withRecords k x
  exact .single (.relinks k ls q x (h.relinks (.inl (hfresh.of_eq rfl hk.cfg.symm hk.links.symm))) (hback.trans hx))

theorem Prepared.reported {c : Option Instr} {l : Link} {k : Classes} {ls : PerLink LinkUnit} {q : PerLink Context}
    {s m : State} (h : Prepared l k ls q s m) : Deeds c s (reportLink l (s.el l) (s.inService l) m) := by
  rcases reportLink_cases l (s.el l) (s.inService l) m with ⟨hsame, hr⟩ | ⟨_, _, hr⟩ | ⟨_, hr⟩
  · rw [hr]
    exact h.unreported hsame
  · rw [hr]
    exact h.computed _
  · rw [hr]
    exact (h.computed _).trans (deeds_abortRun l .capacity _)

/-! ## One link's record (R49 to R54) -/

/-- A link's E_L and whether it is in service are read from its record and its profiles (R38). -/
theorem alike_of_link {s t : State} {l : Link} (hcfg : t.cfg = s.cfg) (hlink : t.link l = s.link l) :
    t.el l = s.el l ∧ t.inService l = s.inService l := by
  unfold State.el State.inService
  rw [hcfg, hlink]
  exact ⟨rfl, rfl⟩

/-- The state's contexts keep their runs, on links that may run if they did. -/
def RunsOn (l : Link) (u : LinkUnit) (s : State) : Prop :=
  (s.ctx l).underWay = true → s.mayRun l → u.state = .qualifying ∨ u.state = .inService

theorem prepared_link {l : Link} {u : LinkUnit} {s m : State} (hm : CoreSame (s.setLink l u) m) (hrun : RunsOn l u s) :
    Prepared l s.cfg (s.links.set l u) s.qual.ctx s m where
  core := hm
  shares := id
  schedule := id
  ahead := fun _ he => .inl he
  runs := fun j hj => ⟨hj, fun hmay => by
    rw [PerLink.get_set]
    split
    · next heq => exact hrun (heq ▸ hj) (heq ▸ hmay)
    · exact hmay, rfl, rfl⟩
  gone := fun _ hj => .inl hj
  other := fun j hj => by
    obtain ⟨hel, hin⟩ := el_congr hm.cfg hm.links j
    have hlink : (s.setLink l u).link j = s.link j := by
      unfold State.link State.setLink
      rw [PerLink.get_set, if_neg hj]
    rw [hel, hin]
    exact alike_of_link (t := s.setLink l u) rfl hlink

theorem deeds_reported {c : Option Instr} {l : Link} {u : LinkUnit} {s m : State} (hm : CoreSame (s.setLink l u) m)
    (hrun : RunsOn l u s) : Deeds c s (reportLink l (s.el l) (s.inService l) m) := (prepared_link hm hrun).reported

/-- A link's record changes without its state and what its E_L depends on, and nothing is reported. -/
theorem deeds_setLink {c : Option Instr} {l : Link} {u : LinkUnit} {s m : State} (hm : CoreSame (s.setLink l u) m)
    (hrun : RunsOn l u s) (hel : m.el l = s.el l) (hin : m.inService l = s.inService l) : Deeds c s m :=
  (prepared_link hm hrun).unreported ⟨hel, hin⟩

theorem CoreSame.updLink {l : Link} {u : LinkUnit} {s m : State} (h : CoreSame (s.setLink l u) m)
    (f : LinkUnit → LinkUnit) : CoreSame (s.setLink l (f u)) (updLink l f m) := by
  have hlink : m.link l = u := by
    unfold State.link
    rw [h.links]
    exact PerLink.get_set_same _ _ _
  have hset : (s.setLink l u).setLink l (f u) = s.setLink l (f u) := by
    unfold State.setLink
    rw [PerLink.set_set]
  unfold Machine.updLink
  rw [hlink, ← hset]
  exact ⟨⟨h.cfg, h.flows, h.retired, h.table, congrArg (fun ls => PerLink.set ls l (f u)) h.links, h.time, h.runs, h.store,
    h.startup, h.pending⟩, h.queues, h.tx, h.free⟩

theorem core_updLink (l : Link) (f : LinkUnit → LinkUnit) (s : State) :
    CoreSame (s.setLink l (f (s.link l))) (updLink l f s) := CoreSame.refl _

end Sys2Proof.Machine
end

section
/-!
SUPPORT. The deeds of the link state machine without a start: entries into states, carrier-absent reports, rate notices
on links that need no admission, and the link timers (O56, O57): R41 to R54.
-/

namespace Sys2Proof.Machine

/-! ## Entries into states (R51, R53, R54) -/

/-- No run is under way on a link, unless the link is in a state in which none may be. -/
def NoRun (l : Link) (s : State) : Prop := (s.ctx l).underWay = true → ¬s.mayRun l

theorem NoRun.runsOn {l : Link} {s : State} (h : NoRun l s) (u : LinkUnit) : RunsOn l u s := fun hrun hmay =>
  absurd hmay (h hrun)

theorem noRun_idle {l : Link} {s : State} (h : (s.ctx l).underWay = false) : NoRun l s := fun hrun => by
  rw [h] at hrun
  cases hrun

theorem abortRun_noRun (l : Link) (cause : Cause) (s : State) : ((abortRun l cause s).ctx l).underWay = false := by
  cases hrun : (s.ctx l).underWay with
  | false => rw [abortRun_idle hrun]; exact hrun
  | true =>
    unfold State.ctx
    rw [abortRun_eq hrun, (reportTestRate_reads l 0 _).1]
    show (((s.qual.ctx.set l ((s.ctx l).abortedBy cause)).get l)).underWay = false
    rw [PerLink.get_set_same] <;> rfl

theorem deeds_enterInService {c : Option Instr} (l : Link) (s : State) : Deeds c s (enterInService l s) := by
  have hm := ((((core_updLink l (fun u => { u with
    state := .inService, admitted := true, barCause := .none, holdTimer := none }) s).updLink (fun u => { u with
      supTimer := match u.supTimer with
                  | some t => some t
                  | none => some (afterMs s.now (s.cfg.links.get l).supervision) })).trans (core_kickBackhaul _)).trans
    (core_raise (.linkAdmitted l) none _))
  exact deeds_reported hm fun _ _ => .inr rfl

theorem deeds_enterBarred {c : Option Instr} {l : Link} (cause : Cause) {s : State} (h : NoRun l s) :
    Deeds c s (enterBarred l cause s) := by
  have hm := ((core_updLink l (fun u => { u with state := .barred, barCause := cause, supTimer := none }) s).trans
    (core_kickBackhaul _)).trans (core_raise (.linkBarred l) none _)
  exact deeds_reported hm (h.runsOn _)

theorem CoreSame.enterDown {l : Link} {u : LinkUnit} {s m : State} (h : CoreSame (s.setLink l u) m) :
    CoreSame (s.setLink l { u with state := .down, stale := false, supTimer := none, holdTimer := none }) (enterDown l m) :=
  ((h.updLink fun u => { u with state := .down, stale := false, supTimer := none, holdTimer := none }).trans
    (core_kickBackhaul _)).trans (core_raise _ _ _)

theorem CoreSame.fade {l : Link} {u : LinkUnit} {s m : State} (h : CoreSame (s.setLink l u) m) :
    ∃ v, CoreSame (s.setLink l v) (fade l m) := by
  have hfaded := ((h.updLink (fun u => { u with
      state := .faded, supTimer := none, holdTimer := some (afterMs m.now (m.cfg.links.get l).holdOff)
      counters := { u.counters with fades := u.counters.fades + 1 } })).trans (core_kickBackhaul _)).trans
    (core_raise (.linkFaded l) none _)
  unfold Machine.fade
  dsimp only
  split
  · exact ⟨_, CoreSame.enterDown hfaded⟩
  · exact ⟨_, hfaded⟩

/-! ## A report, and an abort after it (R50) -/

theorem withoutTest_facts {l : Link} {s t : State} (h : CoreSame s t) :
    (withoutTest l t).map entryFacts = (withoutTest l s).map entryFacts := by
  have hmap : ∀ (o : Option Nat) (f : List (Nat × FlowEntry)),
      (f.filter fun y => !(some y.1 == o && decide (y.2.owner = .test))).map entryFacts
        = (f.map entryFacts).filter fun y => !(some y.1 == o && decide (y.2.2 = .test)) := fun o f => by
    rw [List.filter_map] <;> rfl
  unfold withoutTest State.ctx
  rw [hmap, hmap, h.flows, h.runs]

theorem CoreSame.abortHeld {l : Link} {cause : Cause} {s t : State} (h : CoreSame s t) :
    CoreSame (abortHeld l cause s) (abortHeld l cause t) := by
  have hctx : t.ctx l = s.ctx l := congrArg (fun q => PerLink.get q l) h.runs
  refine ⟨⟨h.cfg, withoutTest_facts h, h.retired, h.table, h.links, h.time, ?_, h.store, h.startup, h.pending⟩, h.queues,
    h.tx, h.free⟩
  show t.qual.ctx.set l ((t.ctx l).abortedBy cause) = s.qual.ctx.set l ((s.ctx l).abortedBy cause)
  rw [hctx, h.runs]

/-- Outside service an abort holds the test rate 0, and computes nothing. -/
theorem core_abortHeld {l : Link} {cause : Cause} {s : State} (hrun : (s.ctx l).underWay = true)
    (hout : s.inService l = false) : CoreSame (abortHeld l cause s) (abortRun l cause s) := by
  rw [abortRun_eq hrun, reportTestRate_outside (s := Machine.abortHeld l cause s) hout]
  exact core_rateHeld l 0 _

/-- A link that leaves service changes, is reported, and its run is aborted after the report: the same as the abort first. -/
theorem deeds_reported_abort {c : Option Instr} {l : Link} {u : LinkUnit} {cause : Cause} {s m : State}
    (hm : CoreSame (s.setLink l u) m) (hu : u.state ≠ .inService) :
    Deeds c s (abortRun l cause (reportLink l (s.el l) (s.inService l) m)) := by
  have hmout : m.inService l = false := by
    rw [(el_congr hm.cfg hm.links l).2]
    unfold State.inService State.link State.setLink
    rw [PerLink.get_set_same]
    exact decide_eq_false hu
  cases hrun : (s.ctx l).underWay with
  | false => exact (deeds_reported hm ((noRun_idle hrun).runsOn u)).trans (deeds_abortRun l cause _)
  | true =>
    have hend : Deeds c s (abortHeld l cause s) := .single (.ends l ((s.ctx l).abortedBy cause) hrun rfl (CoreSame.refl _))
    have hidle : ((abortHeld l cause s).ctx l).underWay = false := by
      show ((s.qual.ctx.set l ((s.ctx l).abortedBy cause)).get l).underWay = false
      rw [PerLink.get_set_same] <;> rfl
    have hset : CoreSame ((abortHeld l cause s).setLink l u) (abortHeld l cause m) := hm.abortHeld
    have hprep := prepared_link hset ((noRun_idle hidle).runsOn u)
    have habort : ∀ v : State, CoreSame m v ∨ v = reportComputed l (s.el l) m →
        CoreSame (abortHeld l cause v) (abortRun l cause v) := fun v hv => by
      have hreads : (v.ctx l).underWay = true ∧ v.inService l = false := by
        rcases hv with hv | rfl
        · have hctx : v.ctx l = s.ctx l := congrArg (fun q => PerLink.get q l) (hv.runs.trans hm.runs)
          exact ⟨hctx ▸ hrun, (el_congr hv.cfg hv.links l).2.trans hmout⟩
        · obtain ⟨x, hx, _⟩ := core_reportComputed l (s.el l) m
          have hctx : (reportComputed l (s.el l) m).ctx l = s.ctx l :=
            congrArg (fun q => PerLink.get q l) (hx.runs.trans hm.runs)
          exact ⟨hctx ▸ hrun, (el_congr (s := m) hx.cfg hx.links l).2.trans hmout⟩
      exact core_abortHeld hreads.1 hreads.2
    refine hend.trans ?_
    rcases reportLink_cases l (s.el l) (s.inService l) m with ⟨hsame, hr⟩ | ⟨_, _, hr⟩ | ⟨⟨_, hin, _⟩, _⟩
    · rw [hr]
      exact (hprep.unreported hsame).trans (deeds_core (habort m (.inl (CoreSame.refl m))))
    · rw [hr]
      obtain ⟨x, hx, hfresh⟩ := core_reportComputed l (s.el l) m
      have hback : CoreSame ((abortHeld l cause s).withRecords s.cfg (s.links.set l u) (abortHeld l cause s).qual.ctx x)
          (abortHeld l cause (reportComputed l (s.el l) m)) := by
        refine CoreSame.trans ?_ (hx.abortHeld (cause := cause))
        have hcfg : m.cfg = s.cfg := hm.cfg
        rw [hcfg]
        exact hset.withRecords s.cfg x
      exact (Relation.ReflTransGen.single (.relinks _ _ _ x
        (hprep.relinks (.inl (hfresh.of_eq rfl hm.cfg.symm hm.links.symm))) hback)).trans
        (deeds_core (habort _ (.inr rfl)))
    · rw [hmout] at hin
      cases hin

/-! ## Carrier-absent reports (R43, R50, R51) -/

theorem deeds_carrierAbsent {c : Option Instr} (l : Link) (clearStale : Bool) (s : State) :
    Deeds c s (carrierAbsent l clearStale s) := by
  unfold carrierAbsent
  split
  · obtain ⟨v, hv⟩ := (core_updLink l (LinkUnit.carrierLost clearStale) (abortRun l .carrier s)).fade
    exact (deeds_abortRun l .carrier s).trans
      (deeds_reported hv ((noRun_idle (abortRun_noRun l .carrier s)).runsOn v))
  · exact deeds_reported_abort (core_updLink l (LinkUnit.carrierLost clearStale) s).enterDown LinkState.noConfusion
  · exact deeds_reported (core_updLink l (LinkUnit.carrierLost clearStale) s) fun _ hmay => hmay

/-! ## Rate notices (R41 to R44) -/

theorem core_raiseUnknown (l : Link) (i : Fin 16) (s : State) : CoreSame s (raiseUnknown l i s) := by
  unfold raiseUnknown
  split
  · exact core_raise _ _ _
  · exact CoreSame.refl s

theorem deeds_countLink {c : Option Instr} (l : Link) (f : LinkCounters → LinkCounters) (s : State) :
    Deeds c s (countLink l f s) := by
  refine deeds_setLink (core_updLink l (fun u => { u with counters := f u.counters }) s) (fun _ hmay => hmay) ?_ ?_
  · show capacityE ((s.links.set l { s.link l with counters := f (s.link l).counters }).get l) (s.cfg.profiles.get l) = s.el l
    rw [PerLink.get_set_same] <;> rfl
  · show decide (((s.links.set l { s.link l with counters := f (s.link l).counters }).get l).state = .inService) = _
    rw [PerLink.get_set_same] <;> rfl

theorem deeds_storeLevel {c : Option Instr} (l : Link) (v : BitVec 8) (s : State) : Deeds c s (storeLevel l v s) := by
  refine deeds_setLink (core_updLink l (fun u => { u with level := some v }) s) (fun _ hmay => hmay) ?_ ?_
  · show capacityE ((s.links.set l { s.link l with level := some v }).get l) (s.cfg.profiles.get l) = s.el l
    rw [PerLink.get_set_same] <;> rfl
  · show decide (((s.links.set l { s.link l with level := some v }).get l).state = .inService) = _
    rw [PerLink.get_set_same] <;> rfl

theorem deeds_pendingPresent {c : Option Instr} (l : Link) (i : Fin 16) (s : State) : Deeds c s (pendingPresent l i s) :=
  deeds_reported ((core_updLink l _ s).trans (core_raiseUnknown l i _)) fun _ hmay => hmay

/-! ## Timers (R45, R48, R50, R52) -/

theorem deeds_pendingExpires {c : Option Instr} (l : Link) (s : State) : Deeds c s (pendingExpires l s) :=
  deeds_reported (core_updLink l _ s) fun _ hmay => hmay

theorem deeds_supervisionExpires {c : Option Instr} (l : Link) (s : State) : Deeds c s (supervisionExpires l s) := by
  unfold supervisionExpires
  split
  · have hself : CoreSame (s.setLink l (s.link l)) s := by
      unfold State.setLink State.link
      rw [PerLink.set_get]
      exact CoreSame.refl s
    exact deeds_reported_abort hself.enterDown LinkState.noConfusion
  · exact deeds_reported ((core_updLink l _ s).trans (core_raise (.stale l) none _)) fun _ hmay => hmay
  · exact .refl

theorem deeds_holdOffExpires {c : Option Instr} (l : Link) (s : State) : Deeds c s (holdOffExpires l s) := by
  unfold holdOffExpires
  split
  · next hf =>
    have hself : CoreSame (s.setLink l (s.link l)) s := by
      unfold State.setLink State.link
      rw [PerLink.set_get]
      exact CoreSame.refl s
    refine deeds_reported hself.enterDown (NoRun.runsOn (fun _ hmay => ?_) _)
    unfold State.mayRun at hmay
    rw [hf] at hmay
    exact hmay.elim LinkState.noConfusion LinkState.noConfusion
  · exact .refl

end Sys2Proof.Machine
end

section
/-!
SUPPORT. The deeds of the Qualification Engine: steps, phases, verdicts, starts, and what calls for them (O56, O57):
R49, R55 to R58, R143 to R151.
-/

namespace Sys2Proof.Machine

/-! ## Contexts (R141) -/

/-- The context of one link changes, and of its record what no report reads. -/
theorem prepared_ctx {l : Link} {u : LinkUnit} {r : Context} {s m : State}
    (hm : CoreSame (s.withRecords s.cfg (s.links.set l u) (s.qual.ctx.set l r) s.share.table) m)
    (hruns : r.underWay = true → (s.ctx l).underWay = true
      ∧ (s.mayRun l → u.state = .qualifying ∨ u.state = .inService) ∧ r.slot = (s.ctx l).slot ∧ r.testKey = (s.ctx l).testKey)
    (hgone : (s.ctx l).underWay = true → r.underWay = true ∨ ¬s.mayRun l) :
    Prepared l s.cfg (s.links.set l u) (s.qual.ctx.set l r) s m where
  core := hm
  shares := id
  schedule := id
  ahead := fun _ he => .inl he
  runs := fun j hj => by
    rw [PerLink.get_set] at hj ⊢
    rw [PerLink.get_set]
    split
    · next heq =>
      rw [if_pos heq] at hj
      exact heq ▸ hruns hj
    · next hne =>
      rw [if_neg hne] at hj
      exact ⟨hj, id, rfl, rfl⟩
  gone := fun j hj => by
    rw [PerLink.get_set]
    split
    · next heq => exact heq ▸ hgone (heq ▸ hj)
    · exact .inl hj
  other := fun j hj => by
    obtain ⟨hel, hin⟩ := el_congr hm.cfg hm.links j
    have hlink : (s.withRecords s.cfg (s.links.set l u) (s.qual.ctx.set l r) s.share.table).link j = s.link j := by
      unfold State.link State.withRecords
      rw [PerLink.get_set, if_neg hj]
    rw [hel, hin]
    exact alike_of_link rfl hlink

theorem deeds_setCtx {c : Option Instr} {l : Link} {r : Context} {s m : State} (hm : CoreSame (s.setCtx l r) m)
    (hu : r.underWay = (s.ctx l).underWay) (hslot : r.slot = (s.ctx l).slot) (hkey : r.testKey = (s.ctx l).testKey) :
    Deeds c s m := by
  have hset : CoreSame (s.withRecords s.cfg (s.links.set l (s.link l)) (s.qual.ctx.set l r) s.share.table) m := by
    unfold State.link
    rw [PerLink.set_get]
    exact hm
  refine (prepared_ctx hset (fun hr => ⟨hu ▸ hr, id, hslot, hkey⟩) fun hrun => .inl (hu.trans hrun)).unreported ?_
  exact el_congr (s := s) hm.cfg hm.links l

/-! ## Steps and phases (R145, R150, R151) -/

theorem underWay_settle {x : Context} (h : x.state = .settle) : x.underWay = true := by
  unfold Context.underWay
  rw [h] <;> rfl

theorem deeds_stepStart {c : Option Instr} {l : Link} (i : Fin 32) {s : State} (hrun : (s.ctx l).underWay = true) :
    Deeds c s (stepStart l i s) := by
  have hset : Deeds c s (s.setCtx l ((s.ctx l).begins i (tget s.cfg.steps i) s.now)) :=
    deeds_setCtx (CoreSame.refl _) ((underWay_settle rfl).trans hrun.symm) rfl rfl
  exact (hset.trans (deeds_reportTestRate l _ _)).trans (deeds_capacityCheck l _)

theorem deeds_toRecover {c : Option Instr} {l : Link} (e : Instant) (r : StepRecord) {s : State}
    (hrun : (s.ctx l).underWay = true) : Deeds c s (toRecover l e r s) := by
  let x : Context := { s.ctx l with state := .recover, phaseEnd := some (afterMs e r.recover), gen := .none }
  have hx : x.underWay = true := rfl
  have hset : Deeds c s (s.setCtx l x) := deeds_setCtx (CoreSame.refl _) (hx.trans hrun.symm) rfl rfl
  exact hset.trans (deeds_reportTestRate l 0 _)

theorem underWay_concluded (passed : Bool) (x : Context) : (x.concluded passed).underWay = false := by
  cases passed <;> rfl

/-- A run concluded by its verdict: its context and its entry. -/
def endedBy (l : Link) (passed : Bool) (s : State) : State :=
  { s with qual := { s.qual with ctx := s.qual.ctx.set l ((s.ctx l).concluded passed) }, flows := withoutTest l s }

/-- The end of a run, with its test rate reported and its condition raised (R151). -/
def endReported (l : Link) (passed : Bool) (s : State) : State :=
  raise (.qualifyDone l) none (reportTestRate l 0 (endedBy l passed s))

theorem endRun_reported (l : Link) (passed : Bool) (s : State) :
    endRun l passed s
      = if (s.ctx l).inService then
          if passed then endReported l passed s else raise (.retestFailed l) none (endReported l passed s)
        else if ((endReported l passed s).link l).state = .qualifying then
          if passed then enterInService l (endReported l passed s) else enterBarred l .stepFailed (endReported l passed s)
        else endReported l passed s := by
  have hheld : endReported l passed s = raise (.qualifyDone l) none (reportTestRate l 0
      (removeTest (s.ctx l).slot (s.setCtx l ((s.ctx l).concluded passed)))) := by
    rw [removeTest_eq] <;> rfl
  rw [hheld] <;> rfl

theorem endReported_noRun (l : Link) (passed : Bool) (s : State) : ((endReported l passed s).ctx l).underWay = false := by
  have hctx : (endReported l passed s).ctx l = (endedBy l passed s).ctx l := by
    unfold State.ctx endReported
    rw [(core_raise _ _ _).runs, (reportTestRate_reads l 0 _).1]
  rw [hctx]
  show ((s.qual.ctx.set l ((s.ctx l).concluded passed)).get l).underWay = false
  rw [PerLink.get_set_same]
  exact underWay_concluded passed _

theorem deeds_endRun {c : Option Instr} {l : Link} (passed : Bool) {s : State} (hrun : (s.ctx l).underWay = true) :
    Deeds c s (endRun l passed s) := by
  have hx : Deeds c s (endReported l passed s) :=
    ((Relation.ReflTransGen.single (.ends l _ hrun (underWay_concluded passed _) (CoreSame.refl (endedBy l passed s)))).trans
      (deeds_reportTestRate l 0 _)).trans (deeds_core (core_raise _ _ _))
  rw [endRun_reported]
  split
  · split
    · exact hx
    · exact hx.trans (deeds_core (core_raise _ _ _))
  · split
    · split
      · exact hx.trans (deeds_enterInService l _)
      · exact hx.trans (deeds_enterBarred .stepFailed (noRun_idle (endReported_noRun l passed s)))
    · exact hx

theorem core_qual {s : State} {q : Qual} (h : q.ctx = s.qual.ctx) : CoreSame s { s with qual := q } :=
  ⟨⟨rfl, rfl, rfl, rfl, rfl, rfl, h, rfl, rfl, rfl⟩, rfl, fun _ => rfl, rfl⟩

theorem deeds_verdict {c : Option Instr} {l : Link} (i : Fin 32) (r : StepRecord) {s : State}
    (hrun : (s.ctx l).underWay = true) : Deeds c s (verdict l i r s) := by
  have hjudged : Deeds c s (judged l i r s) := deeds_core (core_qual rfl)
  unfold verdict
  dsimp only
  split
  · split
    · exact hjudged.trans (deeds_endRun (s := judged l i r s) true hrun)
    · exact hjudged.trans (deeds_stepStart (s := judged l i r s) _ hrun)
  · exact hjudged.trans (deeds_endRun (s := judged l i r s) false hrun)

theorem deeds_nextPhase {c : Option Instr} {l : Link} (e : Instant) (r : StepRecord) (i : Fin 32) {s : State}
    (hrun : (s.ctx l).underWay = true) : Deeds c s (nextPhase l e r i s) := by
  unfold nextPhase
  split
  · split
    · exact deeds_toRecover e r hrun
    · exact deeds_setCtx (CoreSame.refl _) (Eq.trans rfl hrun.symm) rfl rfl
  · exact deeds_toRecover e r hrun
  · exact deeds_verdict i r hrun
  · exact .refl

theorem deeds_runPhases {c : Option Instr} (n : Nat) (l : Link) (s : State) : Deeds c s (runPhases n l s) := by
  induction n generalizing s with
  | zero => exact .refl
  | succ n ih =>
    unfold runPhases
    dsimp only
    split
    · next e r i _ _ _ =>
      split
      · next hdue =>
        rw [Bool.and_eq_true] at hdue
        exact (deeds_nextPhase e r i hdue.1).trans (ih _)
      · exact .refl
    · exact .refl

theorem deeds_endPhases {c : Option Instr} (l : Link) (s : State) : Deeds c s (endPhases l s) := deeds_runPhases 100 l s

theorem deeds_takeReturn {c : Option Instr} (l : Link) (bytes : List Byte) (t : Instant) (s : State) :
    Deeds c s (takeReturn l bytes t s) := by
  unfold takeReturn
  dsimp only
  split
  · exact deeds_setCtx (CoreSame.refl _) rfl rfl rfl
  · exact .refl

/-! ## Starts (R143, R144) -/

/-- A start that is asked for together with a change of the link's record that no report reads. -/
structure Asked (l : Link) (u : LinkUnit) (s m : State) : Prop where
  core : CoreSame (s.setLink l u) m
  flows : m.flows = s.flows
  alike : m.el l = s.el l ∧ m.inService l = s.inService l
  running : s.startup.state = .running
  noRun : NoRun l s

theorem deeds_refused {c : Option Instr} {l : Link} {u : LinkUnit} {s m : State} (cause : Cause) (h : Asked l u s m) :
    Deeds c s (refuseStart l cause (startAsked l m)) := by
  have hk := h.core
  let r := refusedContext (m.ctx l) (m.inService l) cause
  have hset : CoreSame (s.withRecords s.cfg (s.links.set l u) (s.qual.ctx.set l r) s.share.table) (refusedHeld l cause m) :=
    ⟨⟨hk.cfg, hk.flows, hk.retired, hk.table, hk.links, hk.time, congrArg (fun q => PerLink.set q l r) hk.runs, hk.store,
      hk.startup, hk.pending⟩, hk.queues, hk.tx, hk.free⟩
  have hheld : Deeds c s (refusedHeld l cause m) :=
    (prepared_ctx hset (fun hr => nomatch (show false = true from hr)) fun hrun => .inr (h.noRun hrun)).unreported h.alike
  have hidle : ((refusedHeld l cause m).ctx l).underWay = false := by
    show ((m.qual.ctx.set l r).get l).underWay = false
    rw [PerLink.get_set_same] <;> rfl
  rw [refuseStart_asked]
  split
  · exact hheld.trans (deeds_core (core_raise _ _ _))
  · split
    · exact hheld.trans (deeds_enterBarred cause (noRun_idle hidle))
    · exact hheld

theorem beginsRun_asked {l : Link} {u : LinkUnit} {s m : State} {first last : Fin 32} {n : Nat} (h : Asked l u s m)
    (hu : u.state = .qualifying ∨ u.state = .inService) (hs : Startable l m.cfg m.flows first last n) :
    BeginsRun l n (testKeyOf l m.cfg) u (startedContext l m.cfg (m.ctx l) m.now (m.inService l) first last n) s := by
  refine ⟨h.running, h.noRun, hu, ⟨rfl, rfl, rfl, rfl⟩, h.flows ▸ hs.key, h.flows ▸ hs.slot, fun j => ?_⟩
  by_cases hj : j = l
  · subst hj
    obtain ⟨hel, hin⟩ := el_congr (s := s.setLink j u) h.core.cfg h.core.links j
    exact ⟨hel.symm.trans h.alike.1, hin.symm.trans h.alike.2⟩
  · have hlink : (s.runBegun l n (testKeyOf l m.cfg) u
        (startedContext l m.cfg (m.ctx l) m.now (m.inService l) first last n)).link j = s.link j := by
      unfold State.link State.runBegun
      rw [PerLink.get_set, if_neg hj]
    exact alike_of_link rfl hlink

theorem core_startedHeld {l : Link} {u : LinkUnit} {s m : State} {first last : Fin 32} {n : Nat} (h : Asked l u s m) :
    CoreSame (s.runBegun l n (testKeyOf l m.cfg) u (startedContext l m.cfg (m.ctx l) m.now (m.inService l) first last n))
      (startedHeld l first last n m) := by
  have hk := h.core
  refine ⟨⟨hk.cfg, ?_, hk.retired, hk.table, hk.links, hk.time, ?_, hk.store, hk.startup, hk.pending⟩, hk.queues, hk.tx,
    hk.free⟩
  · show (placeEntry n (testEntry (testKeyOf l m.cfg)) m.flows).map entryFacts = _
    rw [h.flows] <;> rfl
  · exact congrArg (fun q => PerLink.set q l (startedContext l m.cfg (m.ctx l) m.now (m.inService l) first last n)) hk.runs

/-- A start on a link that is QUALIFYING or IN_SERVICE (R143, R144). -/
theorem deeds_asked {c : Option Instr} {l : Link} {u : LinkUnit} {s m : State} (h : Asked l u s m)
    (hu : u.state = .qualifying ∨ u.state = .inService) : Deeds c s (startRun l m) := by
  cases hr : startRefusal l m.cfg m.flows with
  | some cause =>
    rw [startRun_refused hr]
    exact deeds_refused cause h
  | none =>
    obtain ⟨first, last, n, hs⟩ := startRefusal_none hr
    rw [startRun_begins hs]
    exact (((Relation.ReflTransGen.single (.begins l n _ u _ (beginsRun_asked h hu hs) (core_startedHeld h))).trans
      (deeds_reportTestRate l _ _)).trans (deeds_capacityCheck l _)).trans (deeds_endPhases l _)

theorem deeds_startRun {c : Option Instr} {l : Link} {s : State} (hmay : s.mayRun l) (hno : (s.ctx l).underWay = false)
    (hrun : s.startup.state = .running) : Deeds c s (startRun l s) := by
  have hself : CoreSame (s.setLink l (s.link l)) s := by
    unfold State.setLink State.link
    rw [PerLink.set_get]
    exact CoreSame.refl s
  exact deeds_asked ⟨hself, rfl, ⟨rfl, rfl⟩, hrun, noRun_idle hno⟩ hmay

/-! ## What calls for a start or an entry (R49, R55 to R57) -/

theorem deeds_qualify {c : Option Instr} {l : Link} {s : State} (hno : ¬s.mayRun l) (hrun : s.startup.state = .running) :
    Deeds c s (qualify l s) := by
  have hm : CoreSame (s.setLink l (qualifyingUnit l (s.link l) s)) (enterQualifying l s) := by
    rw [enterQualifying_eq]
    exact core_kickBackhaul _
  have hout : s.inService l = false := decide_eq_false fun hc => hno (.inr hc)
  refine deeds_asked (u := qualifyingUnit l (s.link l) s) ⟨hm, ?_, ?_, hrun, fun _ => hno⟩ (.inl rfl)
  · rw [enterQualifying_eq]
    obtain ⟨e, he⟩ := kickBackhaul_shape (s.setLink l (qualifyingUnit l (s.link l) s))
    rw [he] <;> rfl
  · obtain ⟨hel, hin⟩ := el_congr hm.cfg hm.links l
    rw [hel, hin, hout]
    unfold State.el State.inService State.link State.setLink
    rw [PerLink.get_set_same]
    exact ⟨rfl, rfl⟩

theorem deeds_admission {c : Option Instr} {l : Link} {s : State} (hno : ¬s.mayRun l) (hrun : s.startup.state = .running) :
    Deeds c s (admission l s) := by
  unfold admission
  split
  · exact deeds_enterInService l s
  · exact deeds_qualify hno hrun

theorem mayRun_of {l : Link} {s : State} {x : LinkState} (h : (s.link l).state = x) (hx : x ≠ .qualifying)
    (hy : x ≠ .inService) : ¬s.mayRun l := by
  unfold State.mayRun
  rw [h]
  exact not_or.2 ⟨hx, hy⟩

theorem reportLink_startup (l : Link) (el0 : Nat) (svc0 : Bool) (m : State) :
    (reportLink l el0 svc0 m).startup = m.startup := by
  have hcomputed : (reportComputed l el0 m).startup = m.startup := by
    obtain ⟨x, hx, _⟩ := core_reportComputed l el0 m
    exact hx.startup
  rcases reportLink_cases l el0 svc0 m with ⟨_, h⟩ | ⟨_, _, h⟩ | ⟨_, h⟩
  · rw [h]
  · rw [h, hcomputed]
  · rw [h]
    exact ((controls_abortRun l .capacity _).steady.kept .startup (by decide) rfl).trans hcomputed

theorem deeds_currentPresent {c : Option Instr} (l : Link) (i : Fin 16) {s : State} (hrun : s.startup.state = .running) :
    Deeds c s (currentPresent l i s) := by
  have hm := (core_updLink l (LinkUnit.currentTaken i (afterMs s.now (s.cfg.links.get l).supervision)) s).trans
    (core_raiseUnknown l i _)
  have hfirst := deeds_reported (c := c) hm fun _ hmay => hmay
  have hstart := (reportLink_startup l (s.el l) (s.inService l) (raiseUnknown l i (updLink l
    (LinkUnit.currentTaken i (afterMs s.now (s.cfg.links.get l).supervision)) s))).trans hm.startup
  unfold currentPresent
  dsimp only
  split
  · next hd =>
    exact hfirst.trans (deeds_admission (mayRun_of hd LinkState.noConfusion LinkState.noConfusion)
      ((congrArg Startup.state hstart).trans hrun))
  · exact hfirst.trans (deeds_enterInService l _)
  · exact hfirst

theorem deeds_takeNotice {c : Option Instr} (l : Link) (n : RateNotice) {s : State} (hrun : s.startup.state = .running) :
    Deeds c s (takeNotice l n s) := by
  unfold takeNotice
  split
  · have hstored := (deeds_countLink (c := c) l (fun x => { x with currentTaken := x.currentTaken + 1 }) s).trans
      (deeds_storeLevel l n.level _)
    dsimp only
    split
    · exact hstored.trans (deeds_currentPresent l _ hrun)
    · exact hstored.trans (deeds_carrierAbsent l true _)
  · have hstored := (deeds_countLink (c := c) l (fun x => { x with pendingTaken := x.pendingTaken + 1 }) s).trans
      (deeds_storeLevel l n.level _)
    split
    · exact hstored.trans (deeds_carrierAbsent l false _)
    · split
      · exact hstored.trans (deeds_pendingPresent l _ _)
      · exact deeds_countLink l _ s

theorem deeds_rateNotice {c : Option Instr} (l : Link) (bytes : List Byte) {s : State} (hrun : s.startup.state = .running) :
    Deeds c s (rateNotice l bytes s) := by
  unfold rateNotice
  split
  · exact deeds_countLink l _ s
  · exact deeds_takeNotice l _ hrun

theorem deeds_retestLink {c : Option Instr} (l : Link) {s : State} (hrun : s.startup.state = .running) :
    Deeds c s (retestLink l s).2 := by
  unfold retestLink
  split
  · next hb =>
    split
    · exact deeds_qualify (mayRun_of hb LinkState.noConfusion LinkState.noConfusion) hrun
    · exact .refl
  · next hi =>
    split
    · exact .refl
    · next hu => exact deeds_startRun (.inr hi) (by simpa using hu) hrun
  · exact .refl

theorem deeds_admitBarred {c : Option Instr} (l : Link) (s : State) : Deeds c s (admitBarred l s).2 := by
  unfold admitBarred
  split
  · exact deeds_enterInService l s
  · exact .refl

theorem deeds_stopLink {c : Option Instr} (l : Link) (s : State) : Deeds c s (stopLink l s).2 := by
  unfold stopLink
  split
  · split
    · exact (deeds_abortRun l .stopped s).trans (deeds_enterBarred .stopped (noRun_idle (abortRun_noRun l .stopped s)))
    · exact deeds_abortRun l .stopped s
    · exact .refl
  · exact .refl

end Sys2Proof.Machine
end

section
/-!
SUPPORT. The deeds of traffic within an event's body: ends of transmissions, flushes, local offers, counts, and the frames
that join a queue (O40, O59): R4, R9 to R19, R89, R146.
-/

namespace Sys2Proof.Machine

/-! ## Transmissions that end or are cut off (R4, R18, R99) -/

theorem tx_clearTx (p : Port) (s : State) (q : Port) :
    ((clearTx p s).port q).tx = if q = p then none else (s.port q).tx := by
  unfold clearTx
  split
  · next h => rw [h, State.port_setPort]
  · next h => rw [State.port_setPort_ne _ _ _ _ h]

/-- The cells of what was transmitted return, and the transmitter is idle. -/
theorem traffic_cleared {p : Port} {t : Transmission} {s : State} (h : (s.port p).tx = some t) :
    Traffic s (clearTx p (freeItem t.item s)) := by
  obtain ⟨f, hf, hcount⟩ : ∃ f, freeItem t.item s = { s with pool := { s.pool with free := f } }
      ∧ ∀ c, f.count c = cellsSent c (some t) + s.pool.free.count c := by
    cases hi : t.item with
    | pool d => exact ⟨d.cells ++ s.pool.free, rfl, fun c => by simp [cellsSent, hi]⟩
    | store g => exact ⟨s.pool.free, rfl, fun c => by simp [cellsSent, hi]⟩
  rw [hf]
  have hheld : ∀ c, cellsHeld c (clearTx p { s with pool := { s.pool with free := f } }) + cellsSent c (some t)
      = cellsHeld c s := fun c => by
    have hport := cellsHeld_port c { s with pool := { s.pool with free := f } } p { s.port p with tx := none }
    rw [show (({ s with pool := { s.pool with free := f } } : State).port p).tx = some t from h] at hport
    exact hport
  refine ⟨(RecordsSame.refl s).pool rfl, fun c => ?_, fun c => ?_, .of_queues rfl, fun q => .inr ?_, fun l x d hx _ => ?_⟩
  · have hfree : (clearTx p { s with pool := { s.pool with free := f } }).pool.free = f := rfl
    have := hheld c
    rw [hfree, hcount]
    omega
  · have := hheld c
    omega
  · unfold State.placesTaken State.sendingPlace
    rw [tx_clearTx]
    split
    · show (s.localQ q).length + 0 ≤ _
      omega
    · exact le_refl _
  · rw [tx_clearTx] at hx
    split at hx
    · cases hx
    · exact .inl hx

theorem deeds_cleared {c : Option Instr} {p : Port} {t : Transmission} {s : State} (h : (s.port p).tx = some t) :
    Deeds c s (clearTx p (freeItem t.item s)) := by
  refine deeds_sheds (traffic_cleared h) fun q => ?_
  rw [tx_clearTx]
  have hport : (freeItem t.item s).port q = s.port q := by cases t.item <;> rfl
  rw [hport]
  split
  · exact .inr rfl
  · exact .inl rfl

theorem core_countDeparted (item : TxItem) (n : Nat) (s : State) : CoreSame s (countDeparted item n s) := by
  unfold countDeparted
  split
  · split
    · exact core_setTenant _ _ s
    · exact CoreSame.refl s
  · exact CoreSame.refl s

theorem deeds_finishTx {c : Option Instr} (p : Port) (s : State) : Deeds c s (finishTx p s) := by
  unfold finishTx
  split
  · next t ht =>
    split
    · have hcounted : ∃ v, CoreSame s v ∧ endTx p t s = kick p (clearTx p (freeItem t.item v)) := by
        refine ⟨_, ?_, rfl⟩
        have hcount := (core_count p .framesTransmitted 1 s).trans
          (core_count p .bytesTransmitted t.bytes.length (count p .framesTransmitted 1 s))
        split
        · exact hcount.trans (core_countDeparted _ _ _)
        · exact hcount
      obtain ⟨v, hv, heq⟩ := hcounted
      rw [heq]
      exact ((deeds_core hv).trans (deeds_cleared ((hv.tx p).trans ht))).trans (deeds_core (core_kick p _))
    · exact .refl
  · exact .refl

/-! ## Flushes (R4, R19) -/

theorem core_portRecord (p : Port) (u : PortUnit) (s : State) (h : u.tx = (s.port p).tx) : CoreSame s (s.setPort p u) := by
  refine ⟨(RecordsSame.refl s).pool rfl, State.setPort_queues s p u, fun q => ?_, rfl⟩
  by_cases hq : q = p
  · rw [hq, State.port_setPort, h]
  · rw [State.port_setPort_ne _ _ _ _ hq]

theorem deeds_cutTransmission {c : Option Instr} (p : Port) (s : State) : Deeds c s (cutTransmission p s) := by
  unfold cutTransmission
  split
  · next t ht => exact (deeds_cleared ht).trans (deeds_core (core_count _ _ _ _))
  · exact .refl

theorem deeds_flushLocal {c : Option Instr} (p : Port) (s : State) : Deeds c s (flushLocal p s) := by
  have hflush : Traffic s (s.setLocalQ p []) := by
    refine ⟨(RecordsSame.refl s).pool rfl, fun _ => rfl, fun _ => le_refl _,
      ⟨fun _ => List.suffix_refl _, List.suffix_refl _, fun _ => List.suffix_refl _, fun _ => List.suffix_refl _⟩,
      fun q => .inr ?_, fun _ _ _ hx _ => .inl hx⟩
    have hsend : (s.setLocalQ p []).sendingPlace q = s.sendingPlace q := rfl
    unfold State.placesTaken
    rw [hsend]
    show ((s.queues.locals.set p []).get q).length + _ ≤ _
    rw [PerPort.get_set]
    split
    · show 0 + _ ≤ _
      omega
    · exact le_refl _
  exact (deeds_sheds hflush fun _ => .inl rfl).trans (deeds_core (core_count _ _ _ _))

theorem Popped.deeds {c : Option Instr} {ds : List Descriptor} {s v : State} (h : Popped ds s v) :
    Deeds c s (freeAll ds v) := deeds_sheds h.freed fun p => .inl (h.tx p)

theorem deeds_flushDown {c : Option Instr} (p : Port) (s : State) : Deeds c s (flushDown p s) :=
  (Popped.deeds (popped_down (List.append_nil _).symm)).trans (deeds_core (core_count _ _ _ _))

theorem deeds_flushTest {c : Option Instr} (l : Link) (s : State) : Deeds c s (flushTest l s) :=
  (Popped.deeds (popped_test (List.append_nil _).symm)).trans (deeds_core (core_count _ _ _ _))

theorem deeds_linkGoesDown {c : Option Instr} (p : Port) (s : State) : Deeds c s (linkGoesDown p s) := by
  have hflushed : Deeds c s (flushLocal p (cutTransmission p (s.setPort p { s.port p with linkUp := false, rx := none }))) :=
    ((deeds_core (core_portRecord p { s.port p with linkUp := false, rx := none } s rfl)).trans (deeds_cutTransmission p _)).trans (deeds_flushLocal p _)
  cases p with
  | bh l => exact (hflushed.trans (deeds_flushTest l _)).trans (deeds_carrierAbsent l false _)
  | sp => exact hflushed.trans (deeds_flushDown .sp _)
  | ap i => exact hflushed.trans (deeds_flushDown (.ap i) _)

theorem deeds_flushAll {c : Option Instr} (s : State) : Deeds c s (flushAll s) := by
  have hempty : ∀ n, cellsHeld n (flushAll s) + cellsQueued n s.queues = cellsHeld n s := fun n => by
    have hswap := cellsHeld_queues n s emptyQueues
    have hnone : cellsQueued n emptyQueues = 0 := by
      unfold cellsQueued
      have hten : ∀ i : Tenant, tget emptyQueues.tenant i = [] := by decide
      have hdown : ∀ p, emptyQueues.down.get p = [] := fun p => by
        cases p with
        | ap i => revert i; decide
        | sp => rfl
        | bh l => cases l <;> rfl
      simp only [hten, hdown, cellsIn_nil]
      rfl
    rw [hnone] at hswap
    exact hswap
  refine deeds_sheds ⟨(RecordsSame.refl s).pool rfl, fun n => ?_, fun n => ?_, shrinks_emptied rfl, fun p => .inr ?_,
    fun _ _ _ hx _ => .inl hx⟩ fun _ => .inl rfl
  · have hfree : (flushAll s).pool.free.count n = cellsQueued n s.queues + s.pool.free.count n := by
      show (((s.queues.all.map fun d => d.cells).flatten) ++ s.pool.free).count n = _
      rw [List.count_append, ← cellsIn_all] <;> rfl
    have := hempty n
    omega
  · have := hempty n
    omega
  · have hlocal : (flushAll s).localQ p = [] := by
      show emptyQueues.locals.get p = []
      cases p with
      | ap i => revert i; decide
      | sp => rfl
      | bh l => cases l <;> rfl
    have hsend : (flushAll s).sendingPlace p = s.sendingPlace p := rfl
    unfold State.placesTaken
    rw [hlocal, hsend]
    show 0 + _ ≤ _
    omega

/-! ## Local frames, receptions and links that come up (R4, R5, R17) -/

theorem deeds_offerFrame {c : Option Instr} (p : Port) (f : LocalFrame) (s : State) : Deeds c s (offerFrame p f s) := by
  refine deeds_sheds (traffic_offerLocal p f s) fun q => .inl ?_
  unfold offerFrame offerLocal
  split <;> rfl

theorem core_receptionBegins (p : Port) (s : State) : CoreSame s (receptionBegins p s) := by
  unfold receptionBegins
  split
  · exact core_portRecord p { s.port p with rx := some s.now } s rfl
  · exact CoreSame.refl s

theorem core_linkComesUp (p : Port) (s : State) : CoreSame s (linkComesUp p s) :=
  (core_portRecord p { s.port p with linkUp := true } s rfl).trans (core_kick p _)

/-! ## Frames that join a queue (R12, R13, R15) -/

/-- The frame's cells come from the free ones. -/
theorem joins_of {s : State} {n : Nat} {q : QueueSet}
    (may : s.startup.state = .running ∨ ∃ l, (s.ctx l).underWay = true)
    (hcells : ∀ c, cellsQueued c q = cellsQueued c s.queues + (s.pool.free.take (cellsFor n)).count c)
    (hlocals : q.locals = s.queues.locals)
    (tenant : ∀ i, tget q.tenant i = s.tenantQ i ∨ ∃ d, tget q.tenant i = s.tenantQ i ++ [d])
    (timing : q.timing = s.queues.timing ∨ ∃ d, q.timing = s.queues.timing ++ [d])
    (test : ∀ l, q.test.get l = s.queues.test.get l
      ∨ ∃ d : Descriptor, q.test.get l = s.queues.test.get l ++ [d] ∧ (d.cls = .test ∨ d.cls = .reflected))
    (down : ∀ p, q.down.get p = s.queues.down.get p ∨ ∃ d, q.down.get p = s.queues.down.get p ++ [d]) :
    QueueJoins s (takeCells n { s with queues := q }) where
  toRecordsSame := (RecordsSame.refl s).pool rfl
  may := may
  cells c := by
    have hheld : cellsHeld c (takeCells n { s with queues := q }) = cellsHeld c { s with queues := q } := rfl
    have hswap := cellsHeld_queues c s q
    have hfree : (takeCells n { s with queues := q }).pool.free.count c = (s.pool.free.drop (cellsFor n)).count c := rfl
    have hsplit : s.pool.free.count c = (s.pool.free.take (cellsFor n)).count c + (s.pool.free.drop (cellsFor n)).count c := by
      rw [← List.count_append, List.take_append_drop]
    have := hcells c
    rw [hheld, hfree]
    omega
  places p := placesTaken_congr (show q.locals.get p = s.queues.locals.get p by rw [hlocals]) rfl
  tx _ := rfl
  tenant := tenant
  timing := timing
  test := test
  down := down

theorem cellsIn_withCells (c : Nat) (s : State) (d : Descriptor) (q : List Descriptor) :
    cellsIn c (q ++ [withCells s d]) = cellsIn c q + (s.pool.free.take (cellsFor d.length)).count c := by
  rw [cellsIn_append, cellsIn_cons, cellsIn_nil] <;> rfl

/-- A frame joins, or is refused and counted. -/
theorem taken_offerTenant {c : Option Instr} (i : Tenant) (d : Descriptor) {s : State} (hrun : s.startup.state = .running) :
    StepTaken c s (offerTenant i d s) := by
  unfold offerTenant
  dsimp only
  split
  · let q : QueueSet := { s.queues with tenant := tset s.queues.tenant i (s.tenantQ i ++ [withCells s d]) }
    have hjoin : QueueJoins s (takeCells d.length { s with queues := q }) := by
      refine joins_of (.inl hrun) (fun n => ?_) rfl (fun k => ?_) (.inl rfl) (fun _ => .inl rfl) fun _ => .inl rfl
      · have hswap : cellsQueued n q + cellsIn n (s.tenantQ i) = cellsQueued n s.queues
          + cellsIn n (s.tenantQ i ++ [withCells s d]) := cellsQueued_tenant n s.queues i _
        rw [cellsIn_withCells] at hswap
        show cellsQueued n q = _
        omega
      · show tget (tset s.queues.tenant i _) k = _ ∨ _
        rw [tget_tset]
        split
        · next hk => exact .inr ⟨withCells s d, by rw [hk]⟩
        · exact .inl rfl
    exact .joined s _ .refl hjoin (deeds_core ((core_setTenant i _ _).trans (core_kickBackhaul _)))
  · exact .plain (deeds_core ((core_setTenant i _ _).trans (core_raise _ _ _)))

theorem taken_offerTiming {c : Option Instr} (p : Port) (d : Descriptor) {s : State} (hrun : s.startup.state = .running) :
    StepTaken c s (offerTiming p d s) := by
  unfold offerTiming
  dsimp only
  split
  · let q : QueueSet := { s.queues with timing := s.queues.timing ++ [withCells s d] }
    have hjoin : QueueJoins s (takeCells d.length { s with queues := q }) := by
      refine joins_of (.inl hrun) (fun n => ?_) rfl (fun _ => .inl rfl) (.inr ⟨_, rfl⟩) (fun _ => .inl rfl)
        fun _ => .inl rfl
      have hswap : cellsQueued n q + cellsIn n (s.queues.timing) = cellsQueued n s.queues
        + cellsIn n (s.queues.timing ++ [withCells s d]) := cellsQueued_timing n s.queues _
      rw [cellsIn_withCells] at hswap
      show cellsQueued n q = _
      omega
    exact .joined s _ .refl hjoin (deeds_core (core_kickBackhaul _))
  · exact .plain (deeds_core (core_count _ _ _ _))

theorem taken_offerDown {c : Option Instr} (p : Port) (d : Descriptor) {s : State} (hrun : s.startup.state = .running) :
    StepTaken c s (offerDown p d s) := by
  unfold offerDown
  split
  · exact .plain (deeds_core (core_count _ _ _ _))
  · dsimp only
    split
    · let q : QueueSet := { s.queues with down := s.queues.down.set p (s.queues.down.get p ++ [withCells s d]) }
      have hjoin : QueueJoins s (takeCells d.length { s with queues := q }) := by
        refine joins_of (.inl hrun) (fun n => ?_) rfl (fun _ => .inl rfl) (.inl rfl) (fun _ => .inl rfl) fun k => ?_
        · have hswap : cellsQueued n q + cellsIn n (s.queues.down.get p) = cellsQueued n s.queues
            + cellsIn n (s.queues.down.get p ++ [withCells s d]) := cellsQueued_down n s.queues p _
          rw [cellsIn_withCells] at hswap
          show cellsQueued n q = _
          omega
        · show (s.queues.down.set p _).get k = _ ∨ _
          rw [PerPort.get_set]
          split
          · next hk => exact .inr ⟨withCells s d, by rw [hk]⟩
          · exact .inl rfl
      exact .joined s _ .refl hjoin (deeds_core (core_kick p _))
    · exact .plain (deeds_core (core_count _ _ _ _))

/-- A test frame or a reflected one is offered to its link's test queue: it joins, or nothing changes. -/
theorem offerTest_cases (l : Link) (d : Descriptor) (s : State)
    (may : s.startup.state = .running ∨ ∃ k, (s.ctx k).underWay = true) (hcls : d.cls = .test ∨ d.cls = .reflected) :
    (offerTest l d s).2 = s ∧ (offerTest l d s).1 = false
      ∨ ∃ v, QueueJoins s v ∧ (offerTest l d s) = (true, kick (.bh l) v) := by
  unfold offerTest
  dsimp only
  split
  · let q : QueueSet := { s.queues with test := s.queues.test.set l (s.queues.test.get l ++ [withCells s d]) }
    refine .inr ⟨takeCells d.length { s with queues := q }, ?_, rfl⟩
    refine joins_of may (fun n => ?_) rfl (fun _ => .inl rfl) (.inl rfl) (fun k => ?_) fun _ => .inl rfl
    · have hswap : cellsQueued n q + cellsIn n (s.queues.test.get l) = cellsQueued n s.queues
        + cellsIn n (s.queues.test.get l ++ [withCells s d]) := cellsQueued_test n s.queues l _
      rw [cellsIn_withCells] at hswap
      show cellsQueued n q = _
      omega
    · show (s.queues.test.set l _).get k = _ ∨ _
      rw [PerLink.get_set]
      split
      · next hk => exact .inr ⟨withCells s d, by rw [hk], hcls⟩
      · exact .inl rfl
  · exact .inl ⟨rfl, rfl⟩

/-! ## Generated test frames (R146) -/

theorem underWay_sending {x : Context} (h : x.state = .settle ∨ x.state = .measure) : x.underWay = true := by
  unfold Context.underWay
  rcases h with h | h <;> rw [h] <;> rfl

theorem taken_generateTest {c : Option Instr} (l : Link) (s : State) : StepTaken c s (generateTest l s) := by
  have hphases : Deeds c s (endPhases l s) := deeds_endPhases l s
  unfold generateTest
  dsimp only
  generalize endPhases l s = v at hphases
  split
  · next r i hr hi =>
    split
    · next hst =>
      split
      · exact .plain hphases
      · next g _ =>
        have hgen : Deeds c v (v.setCtx l { v.ctx l with gen := g }) := deeds_setCtx (CoreSame.refl _) rfl rfl rfl
        have hunder : ((v.setCtx l { v.ctx l with gen := g }).ctx l).underWay = true := by
          show ((v.qual.ctx.set l { v.ctx l with gen := g }).get l).underWay = true
          rw [PerLink.get_set_same]
          exact underWay_sending (x := { v.ctx l with gen := g }) (by simpa using hst)
        have hoffer := offerTest_cases l (testDescriptor l (testFrameBytes v (v.ctx l) r i))
          (v.setCtx l { v.ctx l with gen := g }) (.inr ⟨l, hunder⟩) (.inl rfl)
        rcases hoffer with ⟨hsame, hno⟩ | ⟨w, hjoin, hyes⟩
        · split
          · next s2 heq =>
            rw [heq] at hno
            cases hno
          · next s2 heq =>
            rw [heq] at hsame
            have hs2 : s2 = _ := hsame
            rw [hs2]
            exact .plain (hphases.trans hgen)
        · rw [hyes]
          refine .joined _ w (hphases.trans hgen) hjoin ((deeds_core (core_kick _ _)).trans (deeds_setCtx (CoreSame.refl _) ?_ ?_ ?_))
          · unfold Context.generated
            split <;> rfl
          · unfold Context.generated
            split <;> rfl
          · unfold Context.generated
            split <;> rfl
    · exact .plain hphases
  · exact .plain hphases

end Sys2Proof.Machine
end

section
/-!
SUPPORT. The deeds of PROFILE writes, of LOAD_SLOT and of RESTART TRAFFIC (O56, O57, O59): R19, R37, R58, R172, R176.
-/

namespace Sys2Proof.Machine

/-! ## PROFILE (R37) -/

theorem deeds_applyProfile {c : Option Instr} (l : Link) (i : Fin 16) (p : Profile) (s : State) :
    Deeds c s (applyProfile l i p s) := by
  let k : Classes := { s.cfg with profiles := s.cfg.profiles.set l (tset (s.cfg.profiles.get l) i p) }
  have hm : CoreSame (s.withRecords k s.links s.qual.ctx s.share.table)
      (if losesProfile l i p s then raise (.profileUnknown l) none (setProfile l i p s) else setProfile l i p s) := by
    split
    · exact CoreSame.trans (t := setProfile l i p s) (CoreSame.refl _) (core_raise _ _ _)
    · exact CoreSame.refl _
  have hprep : Prepared l k s.links s.qual.ctx s
      (if losesProfile l i p s then raise (.profileUnknown l) none (setProfile l i p s) else setProfile l i p s) := by
    refine ⟨hm, id, id, fun _ he => .inl he, fun j hj => ⟨hj, id, rfl, rfl⟩, fun _ hj => .inl hj, fun j hj => ?_⟩
    obtain ⟨hel, hin⟩ := el_congr hm.cfg hm.links j
    refine ⟨hel.trans ?_, hin⟩
    show capacityE (s.link j) ((s.cfg.profiles.set l _).get j) = _
    rw [PerLink.get_set, if_neg hj] <;> rfl
  exact hprep.reported

theorem answers_profileClassWrite (c : Option Instr) (sel : Selector) (body : List Field) (s : State) :
    Answers c s (profileClassWrite sel body s) := by
  unfold profileClassWrite
  split
  · exact answers_refuse _ _ _
  · exact answers_checked fun _ => answers_okay (Deeds.works (deeds_applyProfile _ _ _ s))

/-! ## What a start leaves of the other link -/

/-- The other link's context and record stay, and start-up's state. -/
structure Aside (l : Link) (s t : State) : Prop where
  ctx : t.ctx l.other = s.ctx l.other
  link : t.link l.other = s.link l.other
  startup : t.startup = s.startup

theorem Aside.refl (l : Link) (s : State) : Aside l s s := ⟨rfl, rfl, rfl⟩

theorem Aside.trans {l : Link} {s t u : State} (h : Aside l s t) (k : Aside l t u) : Aside l s u :=
  ⟨k.ctx.trans h.ctx, k.link.trans h.link, k.startup.trans h.startup⟩

theorem CoreSame.aside {s t : State} (h : CoreSame s t) (l : Link) : Aside l s t :=
  ⟨congrArg (fun q => PerLink.get q l.other) h.runs, congrArg (fun q => PerLink.get q l.other) h.links, h.startup⟩

theorem Link.other_self (l : Link) : l.other ≠ l := by cases l <;> simp [Link.other]

/-- Only the context of one link has changed, among what is looked at. -/
theorem aside_ctx {l : Link} {r : Context} {s t : State} (hctx : t.qual.ctx = s.qual.ctx.set l r) (hlinks : t.links = s.links)
    (hstart : t.startup = s.startup) : Aside l s t := by
  refine ⟨?_, congrArg (fun q => PerLink.get q l.other) hlinks, hstart⟩
  unfold State.ctx
  rw [hctx, PerLink.get_set, if_neg (Link.other_self l)]

theorem aside_setLink {l : Link} {u : LinkUnit} {s m : State} (h : CoreSame (s.setLink l u) m) : Aside l s m := by
  refine Aside.trans (t := s.setLink l u) ⟨rfl, ?_, rfl⟩ (h.aside l)
  unfold State.link State.setLink
  rw [PerLink.get_set, if_neg (Link.other_self l)]

theorem aside_reportTestRate (l : Link) (r : Nat) (s : State) : Aside l s (reportTestRate l r s) := by
  obtain ⟨hqual, hlinks, _⟩ := reportTestRate_reads l r s
  exact ⟨by unfold State.ctx; rw [hqual], by unfold State.link; rw [hlinks],
    (controls_reportTestRate l r s).steady.kept .startup (by decide) rfl⟩

theorem aside_abortHeld (l : Link) (cause : Cause) (s : State) : Aside l s (abortHeld l cause s) :=
  aside_ctx (r := (s.ctx l).abortedBy cause) rfl rfl rfl

theorem aside_abortRun (l : Link) (cause : Cause) (s : State) : Aside l s (abortRun l cause s) := by
  cases hrun : (s.ctx l).underWay with
  | false => rw [abortRun_idle hrun]; exact Aside.refl l s
  | true =>
    rw [abortRun_eq hrun]
    exact (aside_abortHeld l cause s).trans (aside_reportTestRate l 0 _)

theorem aside_capacityCheck (l : Link) (s : State) : Aside l s (capacityCheck l s) := by
  by_cases hover : overCapacity l s
  · rw [capacityCheck_over hover]
    exact aside_abortRun l .capacity s
  · rw [capacityCheck_under hover]
    exact Aside.refl l s

theorem aside_reportLink (l : Link) (el0 : Nat) (svc0 : Bool) (m : State) : Aside l m (reportLink l el0 svc0 m) := by
  have hcomputed : Aside l m (reportComputed l el0 m) := by
    obtain ⟨x, hx, _⟩ := core_reportComputed l el0 m
    have h := hx.aside l
    exact ⟨h.ctx, h.link, h.startup⟩
  rcases reportLink_cases l el0 svc0 m with ⟨_, h⟩ | ⟨_, _, h⟩ | ⟨_, h⟩
  · rw [h]; exact Aside.refl l m
  · rw [h]; exact hcomputed
  · rw [h]; exact hcomputed.trans (aside_abortRun l .capacity _)

theorem aside_enterInService (l : Link) (s : State) : Aside l s (enterInService l s) :=
  (aside_setLink ((((core_updLink l (fun u => { u with
    state := .inService, admitted := true, barCause := .none, holdTimer := none }) s).updLink (fun u => { u with
      supTimer := match u.supTimer with
                  | some t => some t
                  | none => some (afterMs s.now (s.cfg.links.get l).supervision) })).trans (core_kickBackhaul _)).trans
    (core_raise (.linkAdmitted l) none _))).trans (aside_reportLink l _ _ _)

theorem aside_enterBarred (l : Link) (cause : Cause) (s : State) : Aside l s (enterBarred l cause s) :=
  (aside_setLink (((core_updLink l (fun u => { u with state := .barred, barCause := cause, supTimer := none }) s).trans
    (core_kickBackhaul _)).trans (core_raise (.linkBarred l) none _))).trans (aside_reportLink l _ _ _)

theorem aside_stepStart (l : Link) (i : Fin 32) (s : State) : Aside l s (stepStart l i s) :=
  ((aside_ctx (t := s.setCtx l ((s.ctx l).begins i (tget s.cfg.steps i) s.now)) rfl rfl rfl).trans
    (aside_reportTestRate l _ _)).trans (aside_capacityCheck l _)

theorem aside_endRun (l : Link) (passed : Bool) (s : State) : Aside l s (endRun l passed s) := by
  have hended : Aside l s (endReported l passed s) :=
    ((aside_ctx (t := endedBy l passed s) rfl rfl rfl).trans (aside_reportTestRate l 0 _)).trans
      ((core_raise _ _ _).aside l)
  rw [endRun_reported]
  split
  · split
    · exact hended
    · exact hended.trans ((core_raise _ _ _).aside l)
  · split
    · split
      · exact hended.trans (aside_enterInService l _)
      · exact hended.trans (aside_enterBarred l _ _)
    · exact hended

theorem aside_nextPhase (l : Link) (e : Instant) (r : StepRecord) (i : Fin 32) (s : State) :
    Aside l s (nextPhase l e r i s) := by
  have hrecover : Aside l s (toRecover l e r s) :=
    (aside_ctx (t := s.setCtx l { s.ctx l with state := .recover, phaseEnd := some (afterMs e r.recover), gen := .none })
      rfl rfl rfl).trans (aside_reportTestRate l 0 _)
  have hjudged : Aside l s (judged l i r s) := ⟨rfl, rfl, rfl⟩
  unfold nextPhase
  split
  · split
    · exact hrecover
    · exact aside_ctx (r := { s.ctx l with state := .measure, phaseEnd := some (afterMs e r.measure) }) rfl rfl rfl
  · exact hrecover
  · unfold verdict
    dsimp only
    split
    · split
      · exact hjudged.trans (aside_endRun l true _)
      · exact hjudged.trans (aside_stepStart l _ _)
    · exact hjudged.trans (aside_endRun l false _)
  · exact Aside.refl l s

theorem aside_runPhases (n : Nat) (l : Link) (s : State) : Aside l s (runPhases n l s) := by
  induction n generalizing s with
  | zero => exact Aside.refl l s
  | succ n ih =>
    unfold runPhases
    dsimp only
    split
    · split
      · exact (aside_nextPhase l _ _ _ s).trans (ih _)
      · exact Aside.refl l s
    · exact Aside.refl l s

theorem aside_startRun (l : Link) (s : State) : Aside l s (startRun l s) := by
  cases hr : startRefusal l s.cfg s.flows with
  | some cause =>
    rw [startRun_refused hr, refuseStart_asked]
    have hheld : Aside l s (refusedHeld l cause s) := aside_ctx rfl rfl rfl
    split
    · exact hheld.trans ((core_raise _ _ _).aside l)
    · split
      · exact hheld.trans (aside_enterBarred l cause _)
      · exact hheld
  | none =>
    obtain ⟨first, last, n, hs⟩ := startRefusal_none hr
    rw [startRun_begins hs]
    have hheld : Aside l s (startedHeld l first last n s) :=
      aside_ctx rfl rfl rfl
    exact ((hheld.trans (aside_reportTestRate l _ _)).trans (aside_capacityCheck l _)).trans (aside_runPhases 100 l _)

/-! ## New runs (R58) -/

/-- The links may have runs, none is under way, and the device runs. -/
structure MayRerun (ls : List Link) (s : State) : Prop where
  running : s.startup.state = .running
  may : ∀ l, l ∈ ls → s.mayRun l
  idle : ∀ l, l ∈ ls → (s.ctx l).underWay = false

theorem MayRerun.aside {l : Link} {ls : List Link} {s t : State} (h : MayRerun (l :: ls) s) (hl : l ∉ ls)
    (k : Aside l s t) : MayRerun ls t := by
  have hother : ∀ j, j ∈ ls → j = l.other := fun j hj =>
    (Link.eq_or_other l j).resolve_left fun heq => hl (heq ▸ hj)
  refine ⟨(congrArg Startup.state k.startup).trans h.running, fun j hj => ?_, fun j hj => ?_⟩
  · have hmay := h.may j (List.mem_cons_of_mem _ hj)
    rw [hother j hj] at hmay ⊢
    unfold State.mayRun
    rw [k.link]
    exact hmay
  · have hidle := h.idle j (List.mem_cons_of_mem _ hj)
    rw [hother j hj] at hidle ⊢
    rw [k.ctx]
    exact hidle

theorem deeds_rerun {c : Option Instr} {ls : List Link} {s : State} (hn : ls.Nodup) (h : MayRerun ls s) :
    Deeds c s (rerun ls s) := by
  induction ls generalizing s with
  | nil => exact .refl
  | cons l ls ih =>
    obtain ⟨hl, hrest⟩ := List.nodup_cons.1 hn
    have hfirst : Deeds c s (startRun l s) :=
      deeds_startRun (h.may l List.mem_cons_self) (h.idle l List.mem_cons_self) h.running
    exact hfirst.trans (ih hrest (h.aside hl (aside_startRun l s)))

theorem qualifyingRuns_nodup (s : State) : (qualifyingRuns s).Nodup := List.Nodup.filter _ (by decide)

theorem mayRun_qualifyingRuns {l : Link} {s : State} (h : l ∈ qualifyingRuns s) : s.mayRun l := by
  unfold qualifyingRuns at h
  rw [List.mem_filter, Bool.and_eq_true, decide_eq_true_eq] at h
  exact .inl h.2.1

end Sys2Proof.Machine
end

section
/-!
SUPPORT. What LOAD_SLOT and RESTART TRAFFIC are made of (O56, O57, O59): R19, R58, R172, R176.
-/

namespace Sys2Proof.Machine

/-! ## A load with the runs that it aborts (R152, R172) -/

/-- A link's run ended by a restart or a load, where one is under way. -/
def runEnded (l : Link) (s : State) : State := if (s.ctx l).underWay then abortHeld l .restart s else s

theorem deeds_runEnded {c : Option Instr} (l : Link) (s : State) : Deeds c s (runEnded l s) := by
  unfold runEnded
  split
  · next hrun => exact .single (.ends l ((s.ctx l).abortedBy .restart) hrun rfl (CoreSame.refl _))
  · exact .refl

theorem runEnded_ctx (l k : Link) (s : State) :
    ((runEnded l s).ctx k).underWay = if k = l then false else (s.ctx k).underWay := by
  unfold runEnded
  split
  · show ((s.qual.ctx.set l ((s.ctx l).abortedBy .restart)).get k).underWay = _
    rw [PerLink.get_set]
    split
    · rfl
    · rfl
  · next hno =>
    split
    · next heq => rw [heq]; simpa using hno
    · rfl

/-- Both links' runs ended. -/
def runsEnded (s : State) : State := runEnded .l1 (runEnded .l0 s)

theorem runsEnded_idle (s : State) (l : Link) : ((runsEnded s).ctx l).underWay = false := by
  unfold runsEnded
  rw [runEnded_ctx]
  cases l with
  | l0 => rw [if_neg (by simp), runEnded_ctx, if_pos rfl]
  | l1 => rw [if_pos rfl]

theorem deeds_runsEnded {c : Option Instr} (s : State) : Deeds c s (runsEnded s) :=
  (deeds_runEnded .l0 s).trans (deeds_runEnded .l1 _)

/-- A body stands in a state's running classes, and the table is as it was or computed from them. -/
def LoadedInto (b : SlotBody) (y m : State) : Prop :=
  ∃ x, CoreSame (y.loaded b x) m ∧ (x = y.share.table ∨ Fresh (y.loaded b x))

theorem LoadedInto.core {b : SlotBody} {y m t : State} (h : LoadedInto b y m) (k : CoreSame m t) : LoadedInto b y t := by
  obtain ⟨x, hx, hfresh⟩ := h
  exact ⟨x, hx.trans k, hfresh⟩

/-- A computation on the loaded classes (R81). -/
theorem LoadedInto.recomputed {b : SlotBody} {y m : State} (h : LoadedInto b y m) : LoadedInto b y (recompute m) := by
  obtain ⟨x, hx, _⟩ := h
  refine ⟨computeTable m, ?_, .inr ⟨m, rfl, hx.cfg, hx.links⟩⟩
  refine CoreSame.trans ?_ (core_recompute m)
  have hback := hx.withRecords b.classes (computeTable m)
  have hcfg : m.cfg = b.classes := hx.cfg
  rw [hcfg]
  exact hback

theorem LoadedInto.reported {b : SlotBody} {l : Link} {r : Nat} {y m : State} (h : LoadedInto b y m) :
    LoadedInto b y (reportTestRate l r m) := by
  cases hin : m.inService l with
  | false =>
    rw [reportTestRate_outside hin]
    exact h.core (core_rateHeld l r m)
  | true =>
    by_cases hr : m.share.testRate.get l = r
    · rw [(reportTestRate_same hr).1]
      exact h
    · rw [reportTestRate_inside hr hin]
      exact (h.core (core_rateHeld l r m)).recomputed

/-- The run aborted after the classes were replaced, as if before: the loaded Flow Table holds no TEST entry. -/
theorem LoadedInto.aborted {b : SlotBody} {l : Link} {y m : State} (h : LoadedInto b y m) :
    LoadedInto b (runEnded l y) (abortRun l .restart m) := by
  obtain ⟨x, hx, hfresh⟩ := h
  have hctx : m.ctx l = y.ctx l := congrArg (fun q => PerLink.get q l) hx.runs
  unfold runEnded
  cases hrun : (y.ctx l).underWay with
  | false =>
    rw [abortRun_idle (hctx ▸ hrun)]
    exact ⟨x, hx, hfresh⟩
  | true =>
    rw [abortRun_eq (hctx ▸ hrun)]
    refine LoadedInto.reported ⟨x, ?_, hfresh.imp id fun hf => hf.of_eq rfl rfl rfl⟩
    refine CoreSame.trans (t := abortHeld l .restart (y.loaded b x)) ?_ hx.abortHeld
    have hflows : withoutTest l (y.loaded b x) = loadedFlows b.flows := withoutTest_loaded rfl
    unfold abortHeld
    rw [hflows]
    exact CoreSame.refl _

theorem core_applyBuckets (s : State) : CoreSame s (applyBuckets s) := by
  have hfold : ∀ (L : List Tenant) (v : State), CoreSame v (L.foldl (fun s t => setDepth t (s.tenantCfg t).depth s) v) := by
    intro L
    induction L with
    | nil => exact CoreSame.refl
    | cons i L ih => exact fun v => (core_setDepth i _ v).trans (ih _)
  exact ((hfold _ s).trans (core_setRate _ _ _)).trans (core_setRate _ _ _)

theorem core_replaceClasses (b : SlotBody) (s : State) : CoreSame (s.loaded b s.share.table) (replaceClasses b s) := by
  have happlied : CoreSame (s.loaded b s.share.table) (applyBuckets { s with cfg := b.classes, flows := loadedFlows b.flows }) :=
    core_applyBuckets _
  unfold replaceClasses
  dsimp only
  split
  · exact happlied.trans (core_kickBackhaul _)
  · exact happlied

theorem loadedInto_aborted (b : SlotBody) (s : State) :
    LoadedInto b (runsEnded s) (abortRuns (replaceClasses b s)) :=
  LoadedInto.aborted (LoadedInto.aborted ⟨s.share.table, core_replaceClasses b s, .inl rfl⟩)

theorem core_raiseIfUnknown (l : Link) (s : State) : CoreSame s (raiseIfUnknown l s) := by
  unfold raiseIfUnknown
  dsimp only
  split
  · exact core_raise _ _ _
  · exact CoreSame.refl s

theorem deeds_applyLink {c : Option Instr} (l : Link) (el0 : Nat) (s : State) : Deeds c s (applyLink l el0 s) :=
  (deeds_core (core_raiseIfUnknown l s)).trans (deeds_reportLink l el0 _ _)

/-- The runs ended and the links as they stood: new runs may be requested. -/
theorem MayRerun.kept {ls : List Link} {s t : State} (h : MayRerun ls s) (hqual : t.qual.ctx = s.qual.ctx)
    (hlinks : t.links = s.links) (hstart : t.startup = s.startup) : MayRerun ls t := by
  refine ⟨(congrArg Startup.state hstart).trans h.running, fun l hl => ?_, fun l hl => ?_⟩
  · unfold State.mayRun State.link
    rw [hlinks]
    exact h.may l hl
  · unfold State.ctx
    rw [hqual]
    exact h.idle l hl

theorem MayRerun.core {ls : List Link} {s t : State} (h : MayRerun ls s) (k : CoreSame s t) : MayRerun ls t :=
  h.kept k.runs k.links k.startup

theorem applyLink_startup (l : Link) (el0 : Nat) (s : State) : (applyLink l el0 s).startup = s.startup :=
  (reportLink_startup l el0 _ _).trans (core_raiseIfUnknown l s).startup

theorem runEnded_links (l : Link) (s : State) : (runEnded l s).links = s.links ∧ (runEnded l s).startup = s.startup
    ∧ (runEnded l s).store = s.store := by
  unfold runEnded
  split <;> exact ⟨rfl, rfl, rfl⟩

theorem runsEnded_links (s : State) : (runsEnded s).links = s.links ∧ (runsEnded s).startup = s.startup
    ∧ (runsEnded s).store = s.store := by
  obtain ⟨h1, h2, h3⟩ := runEnded_links .l0 s
  obtain ⟨k1, k2, k3⟩ := runEnded_links .l1 (runEnded .l0 s)
  exact ⟨k1.trans h1, k2.trans h2, k3.trans h3⟩

theorem mayRerun_ended {s : State} (hrun : s.startup.state = .running) : MayRerun (qualifyingRuns s) (runsEnded s) := by
  obtain ⟨hlinks, hstart, _⟩ := runsEnded_links s
  refine ⟨(congrArg Startup.state hstart).trans hrun, fun l hl => ?_, fun l _ => runsEnded_idle s l⟩
  unfold State.mayRun State.link
  rw [hlinks]
  exact mayRun_qualifyingRuns hl

theorem storedBodies_store {s t : State} (h : t.store = s.store) (b : SlotBody) :
    b ∈ storedBodies t ↔ b ∈ storedBodies s := by
  rw [mem_storedBodies, mem_storedBodies, h]

/-- A successful LOAD_SLOT: the runs end, the body is loaded, and the rest follows (R172). -/
theorem works_loadBody {c : Option Instr} {b : SlotBody} {s : State} (hrun : s.startup.state = .running)
    (hmem : b ∈ storedBodies s) (hlaw : shareLaw b.classes.tenants b.classes.sets = true) : Works c s (loadBody b s) := by
  let v := abortRuns (replaceClasses b s)
  have hinto : LoadedInto b (runsEnded s) v := loadedInto_aborted b s
  obtain ⟨x, hx, hfresh⟩ := hinto
  have hload : Loads (runsEnded s) v :=
    ⟨runsEnded_idle s, b, x, (storedBodies_store (runsEnded_links s).2.2 b).2 hmem, hlaw, hfresh, hx⟩
  have hidle : ∀ l, (v.ctx l).underWay = false := fun l => by
    have hctx : v.ctx l = (runsEnded s).ctx l := congrArg (fun q => PerLink.get q l) hx.runs
    rw [hctx]
    exact runsEnded_idle s l
  let w := applyLink .l1 (s.el .l1) (applyLink .l0 (s.el .l0) v)
  have hbeside := (applyLinks_idle (s.el .l0) (s.el .l1) hidle).2
  have hw : Deeds c v w := (deeds_applyLink .l0 _ v).trans (deeds_applyLink .l1 _ _)
  have hmay : MayRerun (qualifyingRuns s) w :=
    (mayRerun_ended hrun).kept ((congrArg Qual.ctx hbeside.qual).trans hx.runs) (hbeside.links.trans hx.links)
      (((applyLink_startup .l1 _ _).trans (applyLink_startup .l0 _ v)).trans hx.startup)
  intro t ht
  exact .loaded (runsEnded s) v _ (deeds_runsEnded s) hload
    ((hw.trans (deeds_rerun (qualifyingRuns_nodup s) hmay)).trans (deeds_reportReflects _)) ht

/-! ## RESTART TRAFFIC (R176) -/

theorem core_zeroBuckets (s : State) : CoreSame s (zeroBuckets s) := core_sched s _

theorem core_tenants (s : State) (x : Vector TenantUnit 8) : CoreSame s { s with tenants := x } :=
  ⟨⟨rfl, rfl, rfl, rfl, rfl, rfl, rfl, rfl, rfl, rfl⟩, rfl, fun _ => rfl, rfl⟩

theorem core_clearDemand (s : State) : CoreSame s (clearDemand s) := core_tenants s _

theorem deeds_causes {c : Option Instr} {s t : State} {x : Startup} (hx : x.state = s.startup.state)
    (ht : CoreSame { s with startup := x } t) : Deeds c s t :=
  .single (.starts x (fun h => hx.trans h) (fun h => by rw [← hx]; exact h) ht)

/-- Runs aborted, and new ones requested, as a traffic restart asks for them (R58). -/
theorem deeds_abortRuns {c : Option Instr} (s : State) : Deeds c s (abortRuns s) :=
  (deeds_abortRun .l0 .restart s).trans (deeds_abortRun .l1 .restart _)

theorem abortRun_records (l : Link) (cause : Cause) (s : State) :
    (abortRun l cause s).links = s.links ∧ (abortRun l cause s).startup = s.startup := by
  have h := (controls_abortRun l cause s).steady
  exact ⟨h.kept .links (by decide) rfl, h.kept .startup (by decide) rfl⟩

theorem mayRerun_abortRuns {s : State} (hrun : s.startup.state = .running) :
    MayRerun (qualifyingRuns s) (abortRuns s) := by
  obtain ⟨hl0, hs0⟩ := abortRun_records .l0 .restart s
  obtain ⟨hl1, hs1⟩ := abortRun_records .l1 .restart (abortRun .l0 .restart s)
  refine ⟨(congrArg Startup.state (hs1.trans hs0)).trans hrun, fun l hl => ?_, fun l _ => ?_⟩
  · unfold State.mayRun State.link abortRuns
    rw [hl1, hl0]
    exact mayRun_qualifyingRuns hl
  · cases l with
    | l0 =>
      exact (congrArg Context.underWay (aside_abortRun .l1 .restart (abortRun .l0 .restart s)).ctx).trans
        (abortRun_noRun .l0 .restart s)
    | l1 => exact abortRun_noRun .l1 .restart _

theorem deeds_restartTraffic {c : Option Instr} {s : State} (hrun : s.startup.state = .running ∨ s.startup.state = .fault) :
    Deeds c s (restartTraffic s) := by
  let u := clearDemand (zeroBuckets (addCause causeTraffic (flushAll s)))
  have hflush : Deeds c s u :=
    (((deeds_flushAll s).trans (deeds_causes (x := { s.startup with causes := s.startup.causes ||| causeTraffic }) rfl
      (CoreSame.refl _))).trans (deeds_core (core_zeroBuckets _))).trans (deeds_core (core_clearDemand _))
  unfold restartTraffic
  dsimp only
  split
  · exact hflush
  · next hno =>
    have hstate : (startWindow u).startup.state = .running := hrun.resolve_right hno
    have hwindow : Deeds c s (startWindow u) := hflush.trans (deeds_core (core_share rfl))
    exact ((hwindow.trans (deeds_abortRuns _)).trans (deeds_rerun (qualifyingRuns_nodup _) (mayRerun_abortRuns hstate))).trans
      (deeds_core (core_kickBackhaul _))

end Sys2Proof.Machine
end

section
/-!
SUPPORT. The deeds of the store (O50, O56): the operations that begin, their phases, and the store commands (R168 to R173).
-/

namespace Sys2Proof.Machine

/-! ## Changes of the store -/

/-- A save under way holds the body. -/
def SavesBody (x : Store) (b : SlotBody) : Prop := ∃ o k n, x.op = some o ∧ o.job = .saveSlot k b n

theorem deeds_store {c : Option Instr} {s t : State} {x : Store} (ht : CoreSame { s with store := x } t)
    (law : StoreLaw s.store → StoreLaw x)
    (slots : ∀ j b, (tget x.slots j).body = some b → (tget s.store.slots j).body = some b ∨ SavesBody s.store b)
    (op : ∀ b, SavesBody x b → SavesBody s.store b ∨ b = bodyNow s) : Deeds c s t := by
  refine .single (.stores x ⟨law, fun b hb => ?_⟩ ht)
  rw [mem_storedBodies] at hb ⊢
  rcases hb with ⟨j, hj⟩ | hsaves
  · exact .inl ((slots j b hj).imp (fun h => ⟨j, h⟩) id)
  · rcases op b hsaves with h | h
    · exact .inl (.inr h)
    · exact .inr h

/-- The images stay. -/
theorem deeds_op {c : Option Instr} {s t : State} {x : Store} (ht : CoreSame { s with store := x } t)
    (hslots : x.slots = s.store.slots) (law : StoreLaw s.store → StoreLaw x)
    (op : ∀ b, SavesBody x b → SavesBody s.store b ∨ b = bodyNow s) : Deeds c s t :=
  deeds_store ht law (fun j b h => .inl (by rw [← hslots]; exact h)) op

/-- What the store's law asks of an operation, given the images (R169 to R171, R173). -/
structure OpLaw (x : Store) (o : StoreOp) : Prop where
  erase : o.phase = .erase → jobName o.job = .eraseSlot ∨ jobName o.job = .eraseInfo
  programs : o.phase = .program → jobName o.job ≠ .eraseSlot ∧ jobName o.job ≠ .eraseInfo
  slot : o.phase = .program → ∀ j, jobSlot o.job = some j → jobName o.job = .saveSlot → (tget x.slots j).marker ≠ markerValid
  page : o.phase = .program → jobName o.job = .writeInfo → x.info.marker ≠ markerValid

theorem StoreLaw.op {x : Store} (h : StoreLaw x) {o : StoreOp} (ho : x.op = some o) : OpLaw x o := by
  obtain ⟨herase, hprogram⟩ := h.2.2 o ho
  exact ⟨herase, fun hp => ⟨(hprogram hp).1, (hprogram hp).2.1⟩, fun hp => (hprogram hp).2.2.1, fun hp => (hprogram hp).2.2.2⟩

theorem storeLaw_of {x : Store} (h : ImagesLaw x) (hop : ∀ o, x.op = some o → OpLaw x o) : StoreLaw x :=
  ⟨h.slot, h.page, fun o ho => ⟨(hop o ho).erase, fun hp =>
    ⟨((hop o ho).programs hp).1, ((hop o ho).programs hp).2, (hop o ho).slot hp, (hop o ho).page hp⟩⟩⟩

theorem opLaw_recovery {x : Store} {o : StoreOp} (h : o.phase = .recovery) : OpLaw x o :=
  ⟨fun he => (by rw [h] at he; cases he), fun hp => (by rw [h] at hp; cases hp), fun hp => (by rw [h] at hp; cases hp),
    fun hp => (by rw [h] at hp; cases hp)⟩

/-! ## Operations that begin (R170, R171, R173) -/

theorem deeds_beginOp {c : Option Instr} {job : StoreJob} {phase : StorePhase} {total ms : Nat} {s : State}
    (law : StoreLaw s.store → OpLaw s.store { job, phase, done := 0, total, ends := afterMs s.now ms })
    (op : ∀ k b n, job = .saveSlot k b n → b = bodyNow s) : Deeds c s (beginOp job phase total ms s) := by
  refine deeds_op (x := { s.store with op := some { job, phase, done := 0, total, ends := afterMs s.now ms } })
    (CoreSame.refl _) rfl (fun h => storeLaw_of ⟨h.images.slot, h.images.page⟩ fun o ho => ?_) fun b hb => ?_
  · cases ho
    obtain ⟨h1, h2, h3, h4⟩ := law h
    exact ⟨h1, h2, h3, h4⟩
  · obtain ⟨o, k, n, ho, hj⟩ := hb
    cases ho
    exact .inr (op k b n hj)

theorem opLaw_erase {x : Store} {job : StoreJob} {total : Nat} {e : Instant}
    (h : jobName job = .eraseSlot ∨ jobName job = .eraseInfo) : OpLaw x { job, phase := .erase, done := 0, total, ends := e } :=
  ⟨fun _ => h, fun hp => (by cases hp), fun hp => (by cases hp), fun hp => (by cases hp)⟩

theorem deeds_beginErase {c : Option Instr} (k : Fin 4) (s : State) : Deeds c s (beginErase k s) :=
  deeds_beginOp (fun _ => opLaw_erase (.inl rfl)) fun _ _ _ h => by cases h

theorem deeds_beginEraseInfo {c : Option Instr} (s : State) : Deeds c s (beginEraseInfo s) :=
  deeds_beginOp (fun _ => opLaw_erase (.inr rfl)) fun _ _ _ h => by cases h

theorem deeds_beginInvalidate {c : Option Instr} (k : Fin 4) (s : State) : Deeds c s (beginInvalidate k s) :=
  deeds_beginOp (fun _ => ⟨fun he => (by cases he), fun _ => ⟨StoreOpName.noConfusion, StoreOpName.noConfusion⟩,
    fun _ _ _ hn => (by cases hn), fun _ hn => (by cases hn)⟩) fun _ _ _ h => by cases h

theorem imageReport_erased {x : SlotImage} (h : imageReport x = .erased) : x.erased = true := by
  unfold imageReport at h
  split at h
  · assumption
  · split at h
    · split at h <;> cases h
    · cases h

theorem slotReport_erased {x : Store} {k : Fin 4} (h : slotReport x k = .erased) : (tget x.slots k).erased = true := by
  unfold slotReport at h
  split at h
  · split at h
    · cases h
    · exact imageReport_erased h
  · exact imageReport_erased h

theorem pageReport_erased {x : Store} (h : pageReport x = .erased) : x.info.erased = true := by
  cases he : x.info.erased with
  | true => rfl
  | false =>
    have hpage : (if x.info.marker = markerValid then Report.valid else .invalid) ≠ .erased := by split <;> decide
    unfold pageReport at h
    simp only [he, Bool.false_eq_true, if_false] at h
    split at h
    · split at h
      · cases h
      · exact absurd h hpage
    · exact absurd h hpage

theorem deeds_beginSave {c : Option Instr} {k : Fin 4} {s : State} (h : slotReport s.store k = .erased) :
    Deeds c s (beginSave k s) := by
  refine deeds_beginOp (fun hlaw => ⟨fun he => (by cases he), fun _ => ⟨StoreOpName.noConfusion, StoreOpName.noConfusion⟩,
    fun _ j hj _ => ?_, fun _ hn => (by cases hn)⟩) fun k' b n hj => ?_
  · cases hj
    exact hlaw.images.slot k (slotReport_erased h)
  · cases hj
    rfl

theorem deeds_beginWriteInfo {c : Option Instr} {addr : Mac} {label : List Byte} {s : State}
    (h : pageReport s.store = .erased) : Deeds c s (beginWriteInfo addr label s) :=
  deeds_beginOp (fun hlaw => ⟨fun he => (by cases he), fun _ => ⟨StoreOpName.noConfusion, StoreOpName.noConfusion⟩,
    fun _ _ _ hn => (by cases hn), fun _ _ => hlaw.images.page (pageReport_erased h)⟩) fun _ _ _ h => by cases h

/-! ## Phases that end (R169 to R171, R173) -/

/-- The store after images have changed and the operation has ended or gone on. -/
structure ImagesMoved (s u : State) : Prop where
  core : ∃ n, u = { s with store := u.store, freeCount := n }
  op : u.store.op = s.store.op
  images : ImagesLaw s.store → ImagesLaw u.store
  bodies : ∀ j b, (tget u.store.slots j).body = some b → (tget s.store.slots j).body = some b ∨ SavesBody s.store b

theorem ImagesMoved.refl (s : State) : ImagesMoved s s := ⟨⟨s.freeCount, rfl⟩, rfl, id, fun _ _ => .inl⟩

/-- The operation ends, or goes on in another phase, after images have changed. -/
theorem ImagesMoved.deeds {c : Option Instr} {s u : State} (h : ImagesMoved s u) {p : Option StoreOp} {f : Store → Store}
    (hf : ∀ x, (f x).slots = x.slots ∧ (f x).info = x.info ∧ (f x).op = p)
    (law : StoreLaw s.store → ∀ o, p = some o → OpLaw u.store o)
    (op : ∀ o k b n, p = some o → o.job = .saveSlot k b n → SavesBody s.store b) : Deeds c s (updStore f u) := by
  obtain ⟨n, hn⟩ := h.core
  obtain ⟨hslots, hinfo, hop⟩ := hf u.store
  refine deeds_store (x := f u.store) ?_ (fun hlaw => storeLaw_of ?_ fun o ho => ?_) (fun j b hb => ?_) fun b hb => ?_
  · rw [hn]
    exact core_freeCount { s with store := f u.store } n
  · obtain ⟨h1, h2⟩ := h.images hlaw.images
    exact ⟨fun j => by rw [hslots]; exact h1 j, by rw [hinfo]; exact h2⟩
  · obtain ⟨h1, h2, h3, h4⟩ := law hlaw o (hop.symm.trans ho)
    exact ⟨h1, h2, fun hp => by rw [hslots]; exact h3 hp, fun hp => by rw [hinfo]; exact h4 hp⟩
  · rw [hslots] at hb
    exact h.bodies j b hb
  · obtain ⟨o, k, m, ho, hj⟩ := hb
    exact .inl (op o k b m (hop.symm.trans ho) hj)

theorem moved_updSlot {s : State} {k : Fin 4} {f : SlotImage → SlotImage} {n : Nat}
    (hf : ImagesLaw s.store → (f (tget s.store.slots k)).erased = true → (f (tget s.store.slots k)).marker ≠ markerValid)
    (hb : ∀ b, (f (tget s.store.slots k)).body = some b → (tget s.store.slots k).body = some b ∨ SavesBody s.store b) :
    ImagesMoved s (updSlot k f { s with freeCount := n }) := by
  refine ⟨⟨n, rfl⟩, rfl, fun h => erased_updSlot (s := { s with freeCount := n }) h (hf h), fun j b hj => ?_⟩
  change (tget (tset s.store.slots k (f (tget s.store.slots k))) j).body = some b at hj
  rw [tget_tset] at hj
  split at hj
  · next heq => rw [heq]; exact hb b hj
  · exact .inl hj

theorem moved_updInfo {s : State} {f : InfoImage → InfoImage} {n : Nat}
    (hf : ImagesLaw s.store → (f s.store.info).erased = true → (f s.store.info).marker ≠ markerValid) :
    ImagesMoved s (updInfo f { s with freeCount := n }) :=
  ⟨⟨n, rfl⟩, rfl, fun h => erased_updInfo (s := { s with freeCount := n }) h (hf h), fun _ _ => .inl⟩

/-- A slot of which bytes are programmed is not erased (R168). -/
theorem moved_written {s : State} {k : Fin 4} {f : SlotImage → SlotImage} {n : Nat} (hf : ∀ x, (f x).erased = false)
    (hb : ∀ x, (f x).body = x.body) : ImagesMoved s (updSlot k f { s with freeCount := n }) :=
  moved_updSlot (fun _ he => by rw [hf] at he; cases he) fun b h => .inl (by rw [← hb]; exact h)

theorem moved_writtenInfo {s : State} {f : InfoImage → InfoImage} {n : Nat} (hf : ∀ x, (f x).erased = false) :
    ImagesMoved s (updInfo f { s with freeCount := n }) := moved_updInfo fun _ he => by rw [hf] at he; cases he

theorem moved_erasedBy (job : StoreJob) (s : State) : ImagesMoved s (erasedBy job s) := by
  cases job with
  | eraseSlot k =>
    refine moved_updSlot (f := fun _ => erasedSlot) (n := s.freeCount) (fun _ _ => markerNone_invalid) fun _ hb => ?_
    cases hb
  | eraseInfo => exact moved_updInfo (f := fun _ => erasedInfo) (n := s.freeCount) fun _ _ => markerNone_invalid
  | saveSlot k b c => exact .refl s
  | invalidateSlot k => exact .refl s
  | writeInfo a b => exact .refl s

theorem moved_failedErase (job : StoreJob) (s : State) : ImagesMoved s (failedErase job s) := by
  unfold failedErase takeFree
  cases job with
  | eraseSlot k =>
    refine moved_updSlot (s := s) (n := s.freeCount + 1 + 1) (fun _ he => ?_) fun _ hb => ?_
    · cases he
    · cases hb
  | eraseInfo =>
    refine moved_writtenInfo (s := s) (n := s.freeCount + 1 + 1) ?_
    exact fun _ => rfl
  | saveSlot k b c => exact .refl s
  | invalidateSlot k => exact .refl s
  | writeInfo a b => exact .refl s

theorem moved_cutProgram (job : StoreJob) (total m : Nat) (s : State) : ImagesMoved s (cutProgram job total m s) := by
  unfold cutProgram takeFree
  cases job with
  | eraseSlot k => exact .refl s
  | eraseInfo => exact .refl s
  | saveSlot k b c =>
    refine moved_written (s := s) (n := s.freeCount + 1) ?_ ?_
    · exact fun _ => rfl
    · exact fun _ => rfl
  | invalidateSlot k =>
    refine moved_written (s := s) (n := s.freeCount + 1) ?_ ?_
    · exact fun _ => rfl
    · exact fun _ => rfl
  | writeInfo a b =>
    refine moved_writtenInfo (s := s) (n := s.freeCount + 1) ?_
    exact fun _ => rfl

theorem moved_programmedBy {o : StoreOp} {s : State} (ho : s.store.op = some o) (m : Nat) :
    ImagesMoved s (programmedBy o.job o.total m s) := by
  cases hj : o.job with
  | eraseSlot k => exact .refl s
  | eraseInfo => exact .refl s
  | saveSlot k b c =>
    have hwritten : ∀ f : SlotImage → SlotImage, (∀ x, (f x).erased = false) → (∀ x, (f x).body = x.body) →
        ImagesMoved s (updSlot k f s) := fun f hf hb => moved_written (s := s) (n := s.freeCount) hf hb
    unfold programmedBy
    dsimp only
    split
    · exact hwritten _ (fun _ => rfl) fun _ => rfl
    · split
      · exact hwritten _ (fun _ => rfl) fun _ => rfl
      · split
        · refine moved_updSlot (s := s) (n := s.freeCount) (fun _ he => ?_) fun b' hb => .inr ?_
          · cases he
          · cases hb
            exact ⟨o, k, c, ho, hj⟩
        · exact hwritten _ (fun _ => rfl) fun _ => rfl
  | invalidateSlot k =>
    unfold programmedBy
    refine moved_written (s := s) (n := s.freeCount) ?_ ?_
    · exact fun _ => rfl
    · exact fun _ => rfl
  | writeInfo a b =>
    have hwritten : ∀ f : InfoImage → InfoImage, (∀ x, (f x).erased = false) → ImagesMoved s (updInfo f s) :=
      fun f hf => moved_writtenInfo (s := s) (n := s.freeCount) hf
    unfold programmedBy
    dsimp only
    split
    · exact hwritten _ fun _ => rfl
    · exact hwritten _ fun _ => rfl

/-- A program that is not at its last block keeps the marker from reading valid (R170, R171, R173). -/
theorem opLaw_programmed {o : StoreOp} {s : State} {m : Nat} {e : Instant} (hlaw : StoreLaw s.store)
    (ho : s.store.op = some o) (hp : o.phase = .program) (hm : m < o.total) :
    OpLaw (programmedBy o.job o.total m s).store { o with phase := .program, done := m, ends := e } := by
  obtain ⟨_, hprograms, hslot, hpage⟩ := hlaw.op ho
  refine ⟨fun he => (by cases he), fun _ => hprograms hp, fun _ j hj hn => ?_, fun _ hn => ?_⟩
  · have hold := hslot hp j hj hn
    change jobSlot o.job = some j at hj
    change jobName o.job = .saveSlot at hn
    cases hjob : o.job with
    | saveSlot k b c =>
      rw [hjob] at hj
      cases hj
      have hmarker : ∀ f : SlotImage → SlotImage, (∀ x, (f x).marker = x.marker) →
          (tget (updSlot j f s).store.slots j).marker ≠ markerValid := fun f hf => by
        change (tget (tset s.store.slots j (f (tget s.store.slots j))) j).marker ≠ markerValid
        rw [tget_tset, if_pos rfl, hf]
        exact hold
      unfold programmedBy
      dsimp only
      rw [if_neg (Nat.ne_of_lt hm)]
      split
      · exact hmarker _ fun _ => rfl
      · split
        · exact hmarker _ fun _ => rfl
        · exact hmarker _ fun _ => rfl
    | eraseSlot k => rw [hjob] at hn; cases hn
    | eraseInfo => rw [hjob] at hn; cases hn
    | invalidateSlot k => rw [hjob] at hn; cases hn
    | writeInfo a b => rw [hjob] at hn; cases hn
  · have hold := hpage hp hn
    change jobName o.job = .writeInfo at hn
    cases hjob : o.job with
    | writeInfo a b =>
      unfold programmedBy
      dsimp only
      rw [if_neg (Nat.ne_of_lt hm)]
      exact hold
    | eraseSlot k => rw [hjob] at hn; cases hn
    | eraseInfo => rw [hjob] at hn; cases hn
    | invalidateSlot k => rw [hjob] at hn; cases hn
    | saveSlot k b c => rw [hjob] at hn; cases hn

theorem storeDue_op {phase : StorePhase} {s : State} (h : storeDue s phase = true) :
    ∃ o, s.store.op = some o ∧ o.phase = phase := by
  unfold storeDue at h
  split at h
  · next o ho =>
    rw [Bool.and_eq_true, decide_eq_true_eq] at h
    exact ⟨o, ho, h.1⟩
  · cases h

theorem deeds_failOp {c : Option Instr} {o : StoreOp} {s u : State} (h : ImagesMoved s u) : Deeds c s (failOp o u) :=
  (h.deeds (p := none) (f := fun x => { x with
      op := none, last := some { done := false, op := jobName o.job, slot := jobSlot o.job } })
    (fun _ => ⟨rfl, rfl, rfl⟩) (fun _ _ ho => (by cases ho)) fun _ _ _ _ ho => (by cases ho)).trans
    (deeds_core (core_raise _ _ _))

/-- The operation under way goes on in another phase. -/
theorem deeds_nextStorePhase {c : Option Instr} {phase : StorePhase} {done ms : Nat} {o : StoreOp} {s u : State}
    (h : ImagesMoved s u) (ho : s.store.op = some o)
    (law : StoreLaw s.store → OpLaw u.store { o with phase, done, ends := afterMs o.ends ms }) :
    Deeds c s (nextStorePhase phase done ms o u) :=
  h.deeds (p := some { o with phase, done, ends := afterMs o.ends ms }) (fun _ => ⟨rfl, rfl, rfl⟩)
    (fun hlaw o' ho' => by cases ho'; exact law hlaw) fun o' k b n ho' hj => by
      cases ho'
      exact ⟨o, k, n, ho, hj⟩

theorem deeds_eraseEnds {c : Option Instr} (ok : Bool) (s : State) : Deeds c s (eraseEnds ok s) := by
  unfold eraseEnds
  split
  · next o ho =>
    split
    · exact deeds_nextStorePhase (moved_erasedBy o.job s) ho fun _ => opLaw_recovery rfl
    · exact deeds_failOp (moved_failedErase o.job s)
  · exact .refl

theorem deeds_blockEnds {c : Option Instr} (ok : Bool) {s : State} (hdue : storeDue s .program = true) :
    Deeds c s (blockEnds ok s) := by
  obtain ⟨o, ho, hp⟩ := storeDue_op hdue
  unfold blockEnds
  rw [ho]
  dsimp only
  split
  · split
    · next hlt =>
      exact deeds_nextStorePhase (moved_programmedBy ho _) ho fun hlaw => opLaw_programmed hlaw ho hp hlt
    · exact deeds_nextStorePhase (moved_programmedBy ho _) ho fun _ => opLaw_recovery rfl
  · exact deeds_failOp (moved_cutProgram o.job o.total _ s)

theorem deeds_recoveryEnds {c : Option Instr} (s : State) : Deeds c s (recoveryEnds s) := by
  unfold recoveryEnds
  split
  · next o ho =>
    have hmoved : ImagesMoved s (takeCopy o.job s) := by
      cases o.job with
      | writeInfo a b => exact ⟨⟨s.freeCount, rfl⟩, rfl, fun h => ⟨h.slot, h.page⟩, fun _ _ => .inl⟩
      | eraseSlot k => exact .refl s
      | eraseInfo => exact .refl s
      | invalidateSlot k => exact .refl s
      | saveSlot k b n => exact .refl s
    have hend : Deeds c s (endOp true o (takeCopy o.job s)) :=
      hmoved.deeds (p := none) (fun _ => ⟨rfl, rfl, rfl⟩) (fun _ _ ho => (by cases ho)) fun _ _ _ _ ho => by cases ho
    dsimp only
    split
    · exact hend
    · exact hend.trans (deeds_core (core_raise _ _ _))
  · exact .refl

theorem deeds_readPage {c : Option Instr} (s : State) : Deeds c s (readPage s) := by
  have hcopy : ∀ (a : Mac) (b : List Byte), Deeds c s (updStore (fun x => { x with runAddr := a, runLabel := b }) s) :=
    fun a b => deeds_op (x := { s.store with runAddr := a, runLabel := b }) (CoreSame.refl _) rfl
      (fun h => storeLaw_of ⟨h.images.slot, h.images.page⟩ fun _ ho =>
        ⟨(h.op ho).erase, (h.op ho).programs, (h.op ho).slot, (h.op ho).page⟩) fun _ => .inl
  unfold readPage
  cases hcontent : s.store.info.content with
  | none =>
    have := hcopy defaultAddress emptyLabel
    unfold updStore at this ⊢
    simp only [hcontent]
    exact this
  | some y =>
    obtain ⟨a, b⟩ := y
    by_cases hm : s.store.info.marker = markerValid
    · have := hcopy a b
      unfold updStore at this ⊢
      simp only [hcontent, if_pos hm]
      exact this
    · have := hcopy defaultAddress emptyLabel
      unfold updStore at this ⊢
      simp only [hcontent, if_neg hm]
      exact this

/-! ## Store commands (R169 to R173) -/

/-- The carried times stay. -/
theorem deeds_storeTimes {c : Option Instr} (t : StoreTimes) (s : State) :
    Deeds c s (updStore (fun x => { x with times := t }) s) :=
  deeds_op (x := { s.store with times := t }) (CoreSame.refl _) rfl
    (fun h => storeLaw_of ⟨h.images.slot, h.images.page⟩ fun _ ho =>
      ⟨(h.op ho).erase, (h.op ho).programs, (h.op ho).slot, (h.op ho).page⟩) fun _ => .inl

theorem answers_storeCommand {c : Option Instr} {body : List Field} {f : State → Status × State} {s : State}
    (h : ∀ u, u = updStore (fun x => { x with times := timesWritten body x.times }) s →
      (f u).1 = .accepted ∨ (f u).1 = .ok → Works c u (f u).2) : Answers c s (storeCommand body f s) := by
  have hworks := h _ rfl
  have htimes : Deeds c s (updStore (fun x => { x with times := timesWritten body x.times }) s) := deeds_storeTimes _ s
  unfold storeCommand
  split
  · exact answers_refuse _ _ _
  · generalize f (updStore (fun x => { x with times := timesWritten body x.times }) s) = y at hworks
    obtain ⟨st, s1⟩ := y
    dsimp only at hworks ⊢
    split
    · exact .inr ⟨rfl, (hworks (.inl rfl)).before htimes⟩
    · exact answers_okay ((hworks (.inr rfl)).before htimes)
    · exact answers_refuse _ _ _

theorem answers_eraseSlotCommand (c : Option Instr) (body : List Field) (s : State) :
    Answers c s (eraseSlotCommand body s) := by
  unfold eraseSlotCommand
  split
  · exact answers_refuse _ _ _
  · exact answers_storeCommand fun u _ _ => Deeds.works (deeds_beginErase _ u)

theorem answers_saveSlotCommand (c : Option Instr) (body : List Field) (s : State) :
    Answers c s (saveSlotCommand body s) := by
  unfold saveSlotCommand
  split
  · exact answers_refuse _ _ _
  · refine answers_storeCommand fun u _ hst => ?_
    split at hst
    · next he =>
      rw [if_pos he]
      exact Deeds.works (deeds_beginSave he)
    · rcases hst with hst | hst <;> cases hst

/-- A body that may be loaded is held by the store, and keeps the share-sum law (R172). -/
theorem loadable_body {s : State} {k : Fin 4} {b : SlotBody} (h : loadable s k = some b) :
    b ∈ storedBodies s ∧ shareLaw b.classes.tenants b.classes.sets = true := by
  unfold loadable at h
  split at h
  · split at h
    · next b' hbody =>
      split at h
      · next hlaw =>
        cases h
        exact ⟨(mem_storedBodies _ _).2 (.inl ⟨k, hbody⟩), hlaw⟩
      · cases h
    · cases h
  · cases h

theorem answers_loadSlotCommand {c : Option Instr} (body : List Field) {s : State} (hrun : s.startup.state = .running) :
    Answers c s (loadSlotCommand body s) := by
  unfold loadSlotCommand
  split
  · exact answers_refuse _ _ _
  · refine answers_storeCommand fun u hu hst => ?_
    split at hst
    · next b hb =>
      have hload := loadable_body hb
      exact works_loadBody (hu ▸ hrun) hload.1 hload.2
    · rcases hst with hst | hst <;> cases hst

theorem answers_invalidateCommand (c : Option Instr) (body : List Field) (s : State) :
    Answers c s (invalidateCommand body s) := by
  unfold invalidateCommand
  split
  · exact answers_refuse _ _ _
  · refine answers_storeCommand fun u _ _ => ?_
    split
    · exact Deeds.works .refl
    · exact Deeds.works (deeds_beginInvalidate _ u)

theorem answers_writeInfoCommand (c : Option Instr) (body : List Field) (s : State) :
    Answers c s (writeInfoCommand body s) := by
  unfold writeInfoCommand
  split
  · exact answers_refuse _ _ _
  · refine answers_storeCommand fun u _ hst => ?_
    split at hst
    · next he =>
      rw [if_pos he]
      exact Deeds.works (deeds_beginWriteInfo he)
    · rcases hst with hst | hst <;> cases hst

theorem answers_eraseInfoCommand (c : Option Instr) (body : List Field) (s : State) :
    Answers c s (eraseInfoCommand body s) := by
  unfold eraseInfoCommand
  split
  · refine answers_storeCommand fun u _ hst => ?_
    split at hst
    · next hc =>
      rw [if_pos hc]
      exact Deeds.works (deeds_beginEraseInfo u)
    · rcases hst with hst | hst <;> cases hst
  · exact answers_refuse _ _ _

end Sys2Proof.Machine
end

section
/-!
SUPPORT. The deeds of start-up, of requests and of frames (O40, O50, O56 to O59): R5 to R10, R157, R158, R174 to R176.
-/

namespace Sys2Proof.Machine

/-! ## Start-up (R174, R176) -/

/-- Start-up goes on within RESET, CHECKING and LOADING, or to RUNNING and FAULT from there. -/
theorem deeds_startup {c : Option Instr} {s t : State} {x : Startup} (ht : CoreSame { s with startup := x } t)
    (hoff : s.startup.state ≠ .running) (hearly : s.startup.state.early) : Deeds c s t :=
  .single (.starts x (fun h => absurd h hoff) (fun _ => hearly) ht)

theorem core_noticeAtEntry (s : State) : CoreSame s (noticeAtEntry s) := by
  unfold noticeAtEntry
  split
  · exact core_noticeFallsDue s
  · exact CoreSame.refl s

theorem early_checking {s : State} (h : s.startup.state = .checking) : s.startup.state.early := .inr (.inl h)

theorem off_of {s : State} {x : StartState} (h : s.startup.state = x) (hx : x ≠ .running) : s.startup.state ≠ .running :=
  fun he => hx (h.symm.trans he)

theorem deeds_endCheck {c : Option Instr} {s : State} (h : s.startup.state = .checking) : Deeds c s (endCheck s) := by
  let u : State := { s with pool := { s.pool with free := cellsWithout s.pool.retired } }
  have hoff : s.startup.state ≠ .running := off_of h StartState.noConfusion
  have hfill : Deeds c s u := .single (.refills hoff (CoreSame.refl u))
  unfold endCheck
  dsimp only
  split
  · refine hfill.trans (deeds_startup (x := { s.startup with state := .fault, resetOut := false, group := none })
      ?_ hoff (early_checking h))
    exact core_noticeAtEntry { u with startup := { s.startup with state := .fault, resetOut := false, group := none } }
  · refine hfill.trans (deeds_startup (x := { s.startup with
      state := .loading, group := none
      loadEnds := some (afterNs u.now (readBlocks (tget u.store.slots u.startup.straps.slotSel) s.freeCount * blockReadNs)) })
      ?_ hoff (early_checking h))
    exact core_freeCount { u with startup := { s.startup with
      state := .loading, group := none
      loadEnds := some (afterNs u.now (readBlocks (tget u.store.slots u.startup.straps.slotSel) s.freeCount * blockReadNs)) } } _

theorem deeds_checkFrom {c : Option Instr} (n : Nat) (start : Instant) {s : State} (h : s.startup.state = .checking) :
    Deeds c s (checkFrom n start s) := by
  unfold checkFrom
  split
  · next g _ =>
    exact deeds_startup (x := { s.startup with group := some (g, afterNs start groupTestNs) }) (CoreSame.refl _)
      (off_of h StartState.noConfusion) (early_checking h)
  · exact deeds_endCheck h

theorem deeds_groupEnds {c : Option Instr} (bad : Bool) {s : State} (h : s.startup.state = .checking) :
    Deeds c s (groupEnds bad s) := by
  unfold groupEnds
  split
  · next g t _ =>
    cases bad with
    | false => exact deeds_checkFrom _ _ h
    | true =>
      have hretire : Deeds c s (retireGroup g s) :=
        .single (.retires g (off_of h StartState.noConfusion) (core_raise .bufferRetired (some g) { s with
          pool := { free := s.pool.free.filter (fun c => c / 256 != g), retired := insertGroup g s.pool.retired } }))
      have hstate : (retireGroup g s).startup.state = .checking := by
        refine (congrArg Startup.state (core_raise .bufferRetired (some g) { s with
          pool := { free := s.pool.free.filter (fun c => c / 256 != g), retired := insertGroup g s.pool.retired } }).startup).trans h
      exact hretire.trans (deeds_checkFrom _ _ hstate)
  · exact .refl

theorem deeds_releaseReset {c : Option Instr} (k : ResetKind) (straps : Straps) {s : State}
    (h : s.startup.state = .reset) : Deeds c s (releaseReset k straps s) := by
  have hoff : s.startup.state ≠ .running := off_of h StartState.noConfusion
  have hfirst : Deeds c s (updStartup (fun x => { x with held := x.held.filter (fun h => h != k), pins := straps }) s) :=
    deeds_startup (x := { s.startup with held := s.startup.held.filter (fun h => h != k), pins := straps })
      (CoreSame.refl _) hoff (.inl h)
  unfold releaseReset
  dsimp only
  generalize hv : updStartup (fun x => { x with held := x.held.filter (fun h => h != k), pins := straps }) s = v at hfirst
  have hstate : v.startup.state = .reset := by rw [← hv]; exact h
  split
  · let w := updStartup (fun x => { x with state := .checking, straps := x.pins, restartEnds := none }) v
    have hw : Deeds c v w := deeds_startup (x := { v.startup with
      state := .checking, straps := v.startup.pins, restartEnds := none }) (CoreSame.refl _)
      (off_of hstate StartState.noConfusion) (.inl hstate)
    exact ((hfirst.trans hw).trans (deeds_readPage w)).trans (deeds_checkFrom 0 _ (s := readPage w) rfl)
  · exact hfirst

/-- RUNNING is entered with a first computation (R174). -/
theorem core_enterRunning (s : State) :
    ∃ x, CoreSame { s.withRecords s.cfg s.links s.qual.ctx x with
        startup := { s.startup with state := .running, resetOut := false, loadEnds := none } } (enterRunning s)
      ∧ Fresh (s.withRecords s.cfg s.links s.qual.ctx x) := by
  let u := updStartup (fun x => { x with state := .running, resetOut := false, loadEnds := none }) s
  refine ⟨computeTable u, ?_, u, rfl, rfl, rfl⟩
  exact ((core_recompute u).trans (core_share (s := recompute u)
    (x := (startWindow (recompute u)).share) rfl)).trans (core_noticeAtEntry _)

/-- The table and the start-up state replaced alike. -/
theorem CoreSame.entered {s t : State} (h : CoreSame s t) (x : AllocTable) (y : Startup) :
    CoreSame { s with share := { s.share with table := x }, startup := y }
      { t.withRecords t.cfg t.links t.qual.ctx x with startup := y } :=
  ⟨⟨h.cfg, h.flows, h.retired, rfl, h.links, h.time, h.runs, h.store, rfl, h.pending⟩, h.queues, h.tx, h.free⟩

theorem deeds_startupRead {c : Option Instr} {s : State} (h : s.startup.state = .loading) :
    Deeds c s (startupRead s) := by
  have hoff : s.startup.state ≠ .running := off_of h StartState.noConfusion
  have hearly : s.startup.state.early := .inr (.inr h)
  unfold startupRead
  split
  · next b hb =>
    have hload : b ∈ storedBodies s ∧ shareLaw b.classes.tenants b.classes.sets = true := loadable_body hb
    have hm : CoreSame (s.loaded b s.share.table) (startupLoad b s) :=
      (((core_replaceClasses b s).trans (core_setRate _ _ _)).trans (core_setRate _ _ _)).trans (core_share rfl)
    obtain ⟨x, hx, hfresh⟩ := core_enterRunning (startupLoad b s)
    have hloaded : Deeds c s (s.loaded b x) :=
      .single (.loads b x h hload.1 hload.2 (hfresh.of_eq rfl hm.cfg.symm hm.links.symm) (CoreSame.refl _))
    have hstart : (startupLoad b s).startup = s.startup := hm.startup
    rw [hstart] at hx
    exact hloaded.trans (deeds_startup (x := { s.startup with state := .running, resetOut := false, loadEnds := none })
      ((hm.entered x _).trans hx) hoff hearly)
  · let v := raise .storeInvalid none s
    have hv : CoreSame s v := core_raise _ _ s
    obtain ⟨x, hx, hfresh⟩ := core_enterRunning v
    have hcomputed : Deeds c v (v.withRecords v.cfg v.links v.qual.ctx x) :=
      deeds_records (CoreSame.refl _) id id (fun _ he => .inl he) (fun _ _ hm => hm) (.inl hfresh)
    have hstart : v.startup = s.startup := hv.startup
    exact ((deeds_core hv).trans hcomputed).trans
      (deeds_startup (x := { v.startup with state := .running, resetOut := false, loadEnds := none }) hx
        (by rw [show (v.withRecords v.cfg v.links v.qual.ctx x).startup = s.startup from hstart]; exact hoff)
        (by rw [show (v.withRecords v.cfg v.links v.qual.ctx x).startup = s.startup from hstart]; exact hearly))

end Sys2Proof.Machine
end

section
/-!
SUPPORT. What a request and a received frame do before the departures of their event (O40, O50, O56 to O59): R5 to R10,
R157, R158, R175.
-/

namespace Sys2Proof.Machine

/-! ## Commands (R55 to R57, R164, R176) -/

theorem core_clearConds (cs : List Cond) (s : State) : CoreSame s (cs.foldl clearCond s) := by
  induction cs generalizing s with
  | nil => exact CoreSame.refl s
  | cons x cs ih => exact (core_mgmt s _).trans (ih (clearCond s x))

theorem answers_clearCommand (c : Option Instr) (body : List Field) (s : State) : Answers c s (clearCommand body s) := by
  unfold clearCommand
  split
  · split
    · exact answers_okay (Deeds.works (deeds_core (core_clearConds _ s)))
    · exact answers_refuse _ _ _
  · exact answers_refuse _ _ _

theorem answers_clearCauseCommand (c : Option Instr) (body : List Field) (s : State) :
    Answers c s (clearCauseCommand body s) := by
  unfold clearCauseCommand
  split
  · exact answers_okay (Deeds.works (deeds_causes (x := { s.startup with causes := 0 }) rfl (CoreSame.refl _)))
  · exact answers_refuse _ _ _

theorem answers_answer {c : Option Instr} {s : State} {x : Status × State} (h : Deeds c s x.2) : Answers c s (answer x) :=
  .inr ⟨rfl, h.works⟩

theorem answers_retestCommand {c : Option Instr} (body : List Field) {s : State} (hrun : s.startup.state = .running) :
    Answers c s (retestCommand body s) := by
  unfold retestCommand
  split
  · exact answers_refuse _ _ _
  · exact answers_answer (deeds_retestLink _ hrun)

theorem answers_admitCommand (c : Option Instr) (body : List Field) (s : State) : Answers c s (admitCommand body s) := by
  unfold admitCommand
  split
  · exact answers_refuse _ _ _
  · exact answers_answer (deeds_admitBarred _ s)

theorem answers_stopCommand (c : Option Instr) (body : List Field) (s : State) : Answers c s (stopCommand body s) := by
  unfold stopCommand
  split
  · exact answers_refuse _ _ _
  · exact answers_answer (deeds_stopLink _ s)

theorem restartCommand_state (body : List Field) (s : State) : (restartCommand body s).2 = s := by
  have hreply : ∀ a, (restartReply a body s).2 = s := fun a => by
    unfold restartReply
    split <;> rfl
  unfold restartCommand
  split
  · split
    · exact hreply .full
    · exact hreply .traffic
    · rfl
  · rfl

/-! ## READs, and the request kinds (R159, R160) -/

theorem answers_writeRequest (c : Option Instr) (code : Nat) (sel : Selector) (body : List Field) (s : State) :
    Answers c s (writeRequest code sel body s) := by
  unfold writeRequest
  split
  · exact answers_portClassWrite c sel body s
  · exact answers_flowClassWrite c sel body s
  · exact answers_tenantClassWrite c sel body s
  · exact answers_shareClassWrite c sel body s
  · exact answers_linkClassWrite c sel body s
  · exact answers_profileClassWrite c sel body s
  · exact answers_stepClassWrite c sel body s
  · exact answers_scheduleClassWrite c body s
  · exact answers_timingClassWrite c body s
  · exact answers_pulseClassWrite c sel body s
  · exact answers_noticeClassWrite c body s
  · exact answers_refuse _ _ _

theorem answers_deleteRequest (c : Option Instr) (code : Nat) (sel : Selector) (body : List Field) (s : State) :
    Answers c s (deleteRequest code sel body s) := by
  unfold deleteRequest
  split
  · exact answers_flowClassDelete c sel body s
  · exact answers_scheduleClassDelete c sel body s
  · exact answers_refuse _ _ _

theorem answers_commandRequest {c : Option Instr} (code : Nat) (body : List Field) {s : State}
    (hset : code = 0x102 → maySetTime c) (hrun : s.startup.state = .running) : Answers c s (commandRequest code body s) := by
  unfold commandRequest
  split
  · exact answers_activateCommand c body s
  · exact answers_setTimeCommand body (hset rfl) hrun
  · exact answers_retestCommand body hrun
  · exact answers_admitCommand c body s
  · exact answers_stopCommand c body s
  · exact answers_clearCommand c body s
  · exact answers_clearCauseCommand c body s
  · exact answers_eraseSlotCommand c body s
  · exact answers_saveSlotCommand c body s
  · exact answers_loadSlotCommand body hrun
  · exact answers_invalidateCommand c body s
  · exact answers_writeInfoCommand c body s
  · exact answers_eraseInfoCommand c body s
  · exact .inl (restartCommand_state body s)
  · exact answers_refuse _ _ _

/-- What a request's operation does: in RUNNING it answers, and in FAULT what is allowed leaves the state (R175). -/
structure Operates (c : Option Instr) (r : Request) (op : Operation) : Prop where
  running : ∀ sel body s, s.startup.state = .running → Answers c s (op sel body s)
  fault : faultAllows r = true → ∀ sel body s, (op sel body s).2 = s

theorem operates_byKind {c : Option Instr} (r : Request) (hset : maySetTime c) : Operates c r (requestByKind r.kind r.code) := by
  refine ⟨fun sel body s hrun => ?_, fun hallow sel body s => ?_⟩
  · unfold requestByKind
    split
    · exact .inl (readRequest_state _ sel body s)
    · exact answers_writeRequest c _ sel body s
    · exact answers_deleteRequest c _ sel body s
    · exact answers_commandRequest _ body (fun _ => hset) hrun
    · exact answers_refuse _ _ _
  · unfold faultAllows at hallow
    rw [Bool.or_eq_true, Bool.and_eq_true, decide_eq_true_eq, decide_eq_true_eq, decide_eq_true_eq] at hallow
    rcases hallow with hk | ⟨hk, hc⟩
    · rw [hk]
      exact readRequest_state _ sel body s
    · rw [hk, hc]
      exact restartCommand_state body s

/-! ## Acceptance (R157, R158, R175) -/

theorem finishRestart_taken {c : Option Instr} {s u : State} (a : After) (h : Deeds c s u)
    (hrun : u.startup.state = .running ∨ u.startup.state = .fault) : StepTaken c s (finishRestart a u) := by
  cases a with
  | nothing => exact .plain h
  | traffic => exact .plain (h.trans (deeds_restartTraffic hrun))
  | full => exact .resets u .restartFull h (CoreSame.refl _) (fun hk => by cases hk)

theorem execute_taken {c : Option Instr} (h : Header) {r : Request} {op : Operation} {s : State} (hop : Operates c r op)
    (hrun : s.startup.state = .running ∨ s.startup.state = .fault) : StepTaken c s (execute h r op s) := by
  have hanswers : Answers c s (executed r op s) := by
    unfold executed
    split
    · exact answers_refuse _ _ _
    · next hallow =>
      unfold perform
      split
      · exact answers_refuse _ _ _
      · split
        · rcases hrun with hrun | hfault
          · exact hop.running _ _ s hrun
          · refine .inl (hop.fault ?_ _ _ s)
            simpa [hfault] using hallow
        · exact answers_refuse _ _ _
  unfold execute
  dsimp only
  rcases hanswers with hsame | ⟨hafter, hworks⟩
  · rw [hsame]
    refine finishRestart_taken _ (deeds_offerFrame _ _ s) ?_
    have hstart : (offerFrame h.port (.response (responseTo h r (executed r op s).1 s)) s).startup = s.startup :=
      (traffic_offerLocal h.port (.response (responseTo h r (executed r op s).1 s)) s).startup
    rw [hstart]
    exact hrun
  · rw [hafter]
    exact (hworks.deeds (deeds_offerFrame _ _ _)).taken

theorem taken_core {c : Option Instr} {s t : State} (h : CoreSame s t) : StepTaken c s t := .plain (deeds_core h)

theorem acceptRequest_taken {c : Option Instr} (h : Header) (complete : Bool) {r : Request} {op : Operation} {s : State}
    (hop : Operates c r op) (hrun : s.startup.state = .running ∨ s.startup.state = .fault) :
    StepTaken c s (acceptRequest h complete r op s) := by
  have hrefused : CoreSame s (refuseRequest h.port s) := core_count _ _ _ s
  unfold acceptRequest
  split
  · exact taken_core (hrefused.trans (core_raise _ _ _))
  · split
    · exact taken_core hrefused
    · split
      · exact taken_core hrefused
      · exact execute_taken h hop hrun

theorem gateRequest_taken {c : Option Instr} (h : Header) (complete : Bool) {r : Request} {op : Operation} (s : State)
    (hop : Operates c r op) : StepTaken c s (gateRequest h complete r op s) := by
  unfold gateRequest
  split
  · exact .plain .refl
  · exact taken_core (core_count _ _ _ s)
  · exact taken_core (core_count _ _ _ s)
  · next hrun => exact acceptRequest_taken h complete hop (.inl hrun)
  · next hfault =>
    split
    · exact acceptRequest_taken h complete hop (.inr hfault)
    · exact taken_core (core_count _ _ _ s)

/-! ## Classification (R7 to R10, R89) -/

theorem taken_toTenant {c : Option Instr} (p : Port) (i : Tenant) (f : Pref) (bytes : List Byte) {s : State}
    (hrun : s.startup.state = .running) : StepTaken c s (toTenant p i f bytes s) := by
  unfold toTenant
  split
  · exact (taken_offerTenant (s := countDemand i bytes.length s) i _ hrun).before (deeds_core (core_setTenant i _ s))
  · exact taken_core (core_count _ _ _ s)

theorem taken_toTiming {c : Option Instr} (p : Port) (i : Tenant) (slot : Nat) (x : FlowSpec) (stamp : Instant)
    (bytes : List Byte) {s : State} (hrun : s.startup.state = .running) :
    StepTaken c s (toTiming p i slot x stamp bytes s) := by
  unfold toTiming
  split
  · exact taken_offerTiming p _ hrun
  · exact taken_core (core_count _ _ _ s)

theorem taken_upstream {c : Option Instr} (p : Port) (stamp : Instant) (bytes : List Byte)
    (found : Option (Nat × FlowEntry)) {s : State} (hrun : s.startup.state = .running) :
    StepTaken c s (upstream p stamp bytes found s) := by
  unfold upstream
  split
  · exact taken_toTenant p _ _ bytes hrun
  · split
    · exact taken_toTenant p _ _ bytes hrun
    · exact taken_toTiming p _ _ _ stamp bytes hrun
    · exact taken_core (core_count _ _ _ s)
    · exact .plain .refl

theorem taken_reflectPath {c : Option Instr} (l : Link) (stamp : Instant) (bytes : List Byte) {s : State}
    (hrun : s.startup.state = .running) : StepTaken c s (reflectPath l stamp bytes s) := by
  have htouch : CoreSame s (touch (.reflect l) s) := core_touch _ s
  have hstate : (touch (.reflect l) s).startup.state = .running := (congrArg Startup.state htouch.startup).trans hrun
  unfold reflectPath
  dsimp only
  generalize touch (.reflect l) s = v at htouch hstate
  split
  · exact taken_core (htouch.trans (core_count _ _ _ v))
  · rcases offerTest_cases l { plainDescriptor .reflected (reflected (wholeNs stamp) bytes) with link := some l } v
      (.inl hstate) (.inr rfl) with ⟨hsame, hno⟩ | ⟨w, hjoin, hyes⟩
    · split
      · next s2 heq =>
        rw [heq] at hno
        cases hno
      · next s2 heq =>
        rw [heq] at hsame
        have hs2 : s2 = v := hsame
        rw [hs2]
        exact taken_core (htouch.trans (core_count _ _ _ v))
    · rw [hyes]
      exact .joined v w (deeds_core htouch) hjoin (deeds_core ((core_kick _ w).trans (core_charge _ _ _)))

theorem taken_downstream {c : Option Instr} (l : Link) (stamp : Instant) (bytes : List Byte)
    (found : Option (Nat × FlowEntry)) {s : State} (hrun : s.startup.state = .running) :
    StepTaken c s (downstream l stamp bytes found s) := by
  unfold downstream
  split
  · exact taken_core (core_count _ _ _ s)
  · split
    · exact taken_offerDown _ _ hrun
    · exact taken_offerDown _ _ hrun
    · exact taken_reflectPath l stamp bytes hrun
    · split
      · exact .plain (deeds_takeReturn l bytes stamp s)
      · exact taken_core (core_count _ _ _ s)
    · exact taken_core (core_count _ _ _ s)
    · exact .plain .refl

theorem taken_classify {c : Option Instr} (p : Port) (stamp : Instant) (bytes : List Byte) {s : State}
    (hrun : s.startup.state = .running) : StepTaken c s (classify p stamp bytes s) := by
  have hfound : CoreSame s (lookup (frameKey p bytes) s).2 := core_lookup _ s
  have hstate : (lookup (frameKey p bytes) s).2.startup.state = .running := (congrArg Startup.state hfound.startup).trans hrun
  unfold classify
  dsimp only
  split
  · exact (taken_downstream _ stamp bytes _ hstate).before (deeds_core hfound)
  · exact (taken_upstream _ stamp bytes _ hstate).before (deeds_core hfound)

/-! ## Reception (R5 to R7) -/

theorem taken_requestFrame {c : Option Instr} (p : Port) (bytes : List Byte) {s : State} (hset : maySetTime c)
    (hrun : s.startup.state = .running ∨ s.startup.state = .fault) : StepTaken c s (requestFrame p bytes s) := by
  unfold requestFrame
  split
  · exact acceptRequest_taken _ _ (operates_byKind _ hset) hrun
  · exact taken_core (core_count _ _ _ s)

theorem taken_firstStage {c : Option Instr} (p : Port) (stamp : Instant) (bytes : List Byte) {s : State}
    (hset : isRequest bytes = true → maySetTime c) (hrun : s.startup.state = .running) :
    StepTaken c s (firstStage p stamp bytes s) := by
  unfold firstStage
  split
  · next hreq => exact taken_requestFrame p bytes (hset hreq) (.inl hrun)
  · split
    · split
      · exact .plain (deeds_rateNotice _ bytes hrun)
      · exact taken_core (core_count _ _ _ s)
    · exact taken_classify p stamp bytes hrun

theorem taken_gateFrame {c : Option Instr} (p : Port) (stamp : Instant) (bytes : List Byte) (s : State)
    (hset : isRequest bytes = true → maySetTime c) : StepTaken c s (gateFrame p stamp bytes s) := by
  unfold gateFrame
  split
  · exact .plain .refl
  · exact taken_core (core_count _ _ _ s)
  · exact taken_core (core_count _ _ _ s)
  · next hrun => exact taken_firstStage p stamp bytes hset hrun
  · next hfault =>
    split
    · next hsp => exact taken_requestFrame p bytes (hset hsp.2) (.inr hfault)
    · exact taken_core (core_count _ _ _ s)

theorem taken_checkFrame {c : Option Instr} (p : Port) (stamp : Instant) (bytes : List Byte) (s : State)
    (hset : isRequest bytes = true → maySetTime c) : StepTaken c s (checkFrame p stamp bytes s) := by
  unfold checkFrame
  split
  · exact taken_core (core_count _ _ _ s)
  · split
    · exact taken_core (core_count _ _ _ s)
    · split
      · exact taken_core (core_count _ _ _ s)
      · exact taken_gateFrame p stamp bytes s hset

theorem taken_receptionEnds {c : Option Instr} (p : Port) (stamp : Instant) (bytes : List Byte) (s : State)
    (hset : isRequest bytes = true → maySetTime c) : StepTaken c s (receptionEnds p stamp bytes s) := by
  have hcleared : CoreSame s (s.setPort p { s.port p with rx := none }) := core_portRecord p _ s rfl
  unfold receptionEnds
  dsimp only
  split
  · exact taken_core hcleared
  · exact (taken_checkFrame p stamp bytes _ hset).before
      (deeds_core ((hcleared.trans (core_count _ _ _ _)).trans (core_count _ _ _ _)))

end Sys2Proof.Machine
end

section
/-!
SUPPORT. What one step does (O40, O50, O56 to O59): the deeds of its command, and then the departures that they call for.
-/

namespace Sys2Proof.Machine

/-- What a step does with the command it takes: deeds, and then departures. -/
def Stepped (c : Option Instr) (s t : State) : Prop := ∃ u, StepTaken c s u ∧ Traffic u t

theorem StepTaken.stepped {c : Option Instr} {s t : State} (h : StepTaken c s t) : Stepped c s t := ⟨t, h, Traffic.refl t⟩

theorem stepped_event {c : Option Instr} {f : State → State} {s : State} (h : StepTaken c s.begun (f s.begun)) :
    Stepped c s (event f s) := ⟨f s.begun, h.before (deeds_core (core_ev s noWork)), traffic_settle _⟩

/-- A row whose moment may not have come. -/
theorem stepped_if {c : Option Instr} {p : Bool} {f : State → State} {s t : State}
    (h : (if p then Host.Outcome.next (event f s) else .next s : Host.Outcome State Fault Refusal) = .next t)
    (hf : p = true → StepTaken c s.begun (f s.begun)) : Stepped c s t := by
  split at h
  · next hp =>
    cases h
    exact stepped_event (hf hp)
  · cases h
    exact StepTaken.stepped (.plain .refl)

theorem stepped_row {c : Option Instr} {h : Header} {kind code : Nat} {sel : Selector} {body : List Field} {op : Operation}
    {s t : State} (ht : Host.Outcome.next (rowRequest h kind code sel body op s) = (.next t : Host.Outcome State Fault Refusal))
    (hop : Operates c { kind, code, sel, body := some body } op) : Stepped c s t := by
  cases ht
  exact stepped_event (gateRequest_taken h true s.begun hop)

/-- The row of a request that is neither a READ nor a RESTART. -/
theorem operates_row {c : Option Instr} {kind code : Nat} {sel : Selector} {body : List Field} {op : Operation}
    (hkind : kind ≠ 1) (hcode : code ≠ 0x10E)
    (h : ∀ sel body s, s.startup.state = .running → Answers c s (op sel body s)) :
    Operates c { kind, code, sel, body := some body } op := by
  refine ⟨h, fun hallow => ?_⟩
  unfold faultAllows at hallow
  simp [hkind, hcode] at hallow

theorem operates_restart (c : Option Instr) (r : Request) : Operates c r fun _ => restartCommand :=
  ⟨fun _ body s _ => .inl (restartCommand_state body s), fun _ _ body s => restartCommand_state body s⟩

theorem stepped_reset {c : Option Instr} {p : Prop} [Decidable p] {k : ResetKind} {s t : State}
    (h : (if p then Host.Outcome.next (hardReset k s) else .next s : Host.Outcome State Fault Refusal) = .next t)
    (hk : k ≠ .powerOn) : Stepped c s t := by
  split at h
  · cases h
    exact StepTaken.stepped (.resets s k .refl (CoreSame.refl _) fun he => absurd he hk)
  · cases h
    exact StepTaken.stepped (.plain .refl)

/-! ## Frames, links and transmissions -/

theorem stepped_frame {p : Port} {bytes : List Byte} {s t : State} (h : execFrameReceived p bytes s = .next t) :
    Stepped (some (.frameReceived p bytes)) s t := by
  unfold execFrameReceived at h
  split at h
  · cases h
    exact stepped_event (taken_receptionEnds p _ bytes s.begun fun hreq => .inr ⟨p, bytes, rfl, hreq⟩)
  · cases h
    exact StepTaken.stepped (.plain .refl)

theorem stepped_linkUp {c : Option Instr} {p : Port} {s t : State} (h : execPortLinkUp p s = .next t) : Stepped c s t := by
  unfold execPortLinkUp at h
  split at h
  · cases h
    exact StepTaken.stepped (.plain .refl)
  · cases h
    exact stepped_event (taken_core (core_linkComesUp p s.begun))

theorem deeds_windowExpires {c : Option Instr} (s : State) : Deeds c s (windowExpires s) := by
  unfold windowExpires
  split
  · next w _ =>
    dsimp only
    refine deeds_then_recompute (deeds_core ?_)
    exact (core_tenants s (s.tenants.map (TenantUnit.measured w.lengthMs))).trans
      (core_share (s := { s with tenants := s.tenants.map (TenantUnit.measured w.lengthMs) }) rfl)
  · exact .refl

theorem groupDue_checking {s : State} (h : groupDue s = true) : s.startup.state = .checking := by
  unfold groupDue at h
  split at h
  · rw [Bool.and_eq_true, decide_eq_true_eq] at h
    exact h.1
  · cases h

theorem loadDue_loading {s : State} (h : loadDue s = true) : s.startup.state = .loading := by
  unfold loadDue at h
  split at h
  · rw [Bool.and_eq_true, decide_eq_true_eq] at h
    exact h.1
  · cases h

theorem releasable_reset {k : Release} {s : State} (h : releasable k s = true) : s.startup.state = .reset := by
  unfold releasable at h
  rw [Bool.and_eq_true, Bool.and_eq_true, decide_eq_true_eq] at h
  exact h.1.2

/-! ## Every command -/

theorem stepped_exec {i : Instr} {s t : State} (h : exec i s = .next t) : Stepped (some i) s t := by
  cases i with
  | frameReceptionBegins p =>
    cases h
    exact (taken_core (core_receptionBegins p s)).stepped
  | frameReceived p bytes => exact stepped_frame h
  | portWrite hd sel body =>
    exact stepped_row h (operates_row (by decide) (by decide) fun sel body s _ => answers_portClassWrite _ sel body s)
  | flowWrite hd sel body =>
    exact stepped_row h (operates_row (by decide) (by decide) fun sel body s _ => answers_flowClassWrite _ sel body s)
  | flowDelete hd sel body =>
    exact stepped_row h (operates_row (by decide) (by decide) fun sel body s _ => answers_flowClassDelete _ sel body s)
  | tenantWrite hd sel body =>
    exact stepped_row h (operates_row (by decide) (by decide) fun sel body s _ => answers_tenantClassWrite _ sel body s)
  | shareSetWrite hd sel body =>
    exact stepped_row h (operates_row (by decide) (by decide) fun sel body s _ => answers_shareClassWrite _ sel body s)
  | parametersWrite hd body =>
    exact stepped_row h (operates_row (by decide) (by decide) fun _ body s _ => answers_paramClassWrite _ body s)
  | linkWrite hd sel body =>
    exact stepped_row h (operates_row (by decide) (by decide) fun sel body s _ => answers_linkClassWrite _ sel body s)
  | profileWrite hd sel body =>
    exact stepped_row h (operates_row (by decide) (by decide) fun sel body s _ => answers_profileClassWrite _ sel body s)
  | stepWrite hd sel body =>
    exact stepped_row h (operates_row (by decide) (by decide) fun sel body s _ => answers_stepClassWrite _ sel body s)
  | scheduleWrite hd sel body =>
    exact stepped_row h (operates_row (by decide) (by decide) fun _ body s _ => answers_scheduleClassWrite _ body s)
  | scheduleDelete hd sel body =>
    exact stepped_row h (operates_row (by decide) (by decide) fun sel body s _ => answers_scheduleClassDelete _ sel body s)
  | timingWrite hd sel body =>
    exact stepped_row h (operates_row (by decide) (by decide) fun _ body s _ => answers_timingClassWrite _ body s)
  | pulseOutputWrite hd sel body =>
    exact stepped_row h (operates_row (by decide) (by decide) fun sel body s _ => answers_pulseClassWrite _ sel body s)
  | noticeConfigWrite hd sel body =>
    exact stepped_row h (operates_row (by decide) (by decide) fun _ body s _ => answers_noticeClassWrite _ body s)
  | activateSet hd sel body =>
    exact stepped_row h (operates_row (by decide) (by decide) fun _ body s _ => answers_activateCommand _ body s)
  | setTime hd sel body =>
    exact stepped_row h (operates_row (by decide) (by decide) fun _ body _ hrun =>
      answers_setTimeCommand body (.inl ⟨hd, sel, _, rfl⟩) hrun)
  | retest hd sel body =>
    exact stepped_row h (operates_row (by decide) (by decide) fun _ body _ hrun => answers_retestCommand body hrun)
  | admitLink hd sel body =>
    exact stepped_row h (operates_row (by decide) (by decide) fun _ body s _ => answers_admitCommand _ body s)
  | stopRun hd sel body =>
    exact stepped_row h (operates_row (by decide) (by decide) fun _ body s _ => answers_stopCommand _ body s)
  | clearConditions hd sel body =>
    exact stepped_row h (operates_row (by decide) (by decide) fun _ body s _ => answers_clearCommand _ body s)
  | clearResetCause hd sel body =>
    exact stepped_row h (operates_row (by decide) (by decide) fun _ body s _ => answers_clearCauseCommand _ body s)
  | eraseSlot hd sel body =>
    exact stepped_row h (operates_row (by decide) (by decide) fun _ body s _ => answers_eraseSlotCommand _ body s)
  | saveSlot hd sel body =>
    exact stepped_row h (operates_row (by decide) (by decide) fun _ body s _ => answers_saveSlotCommand _ body s)
  | loadSlot hd sel body =>
    exact stepped_row h (operates_row (by decide) (by decide) fun _ body _ hrun => answers_loadSlotCommand body hrun)
  | invalidateSlot hd sel body =>
    exact stepped_row h (operates_row (by decide) (by decide) fun _ body s _ => answers_invalidateCommand _ body s)
  | writeInfo hd sel body =>
    exact stepped_row h (operates_row (by decide) (by decide) fun _ body s _ => answers_writeInfoCommand _ body s)
  | eraseInfo hd sel body =>
    exact stepped_row h (operates_row (by decide) (by decide) fun _ body s _ => answers_eraseInfoCommand _ body s)
  | restartFull hd sel body => exact stepped_row h (operates_restart _ _)
  | restartTraffic hd sel body => exact stepped_row h (operates_restart _ _)
  | flowDown p => exact stepped_if h fun _ => .plain (deeds_linkGoesDown p _)
  | portLinkUp p => exact stepped_linkUp h
  | accessTransmissionEnd p => exact stepped_if h fun _ => .plain (deeds_finishTx p _)
  | backhaulTransmissionEnd l => exact stepped_if h fun _ => .plain (deeds_finishTx (.bh l) _)
  | creditReachesZero b => exact stepped_if h fun _ => taken_core (core_touch b _)
  | demandWindowExpiry => exact stepped_if h fun _ => .plain (deeds_windowExpires _)
  | supervisionExpiry l => exact stepped_if h fun _ => .plain (deeds_supervisionExpires l _)
  | pendingTimeout l => exact stepped_if h fun _ => .plain (deeds_pendingExpires l _)
  | holdOffExpiry l => exact stepped_if h fun _ => .plain (deeds_holdOffExpires l _)
  | ppsEdge n => exact stepped_if h fun _ => .plain (deeds_takeEdge _)
  | pulseMissingExpiry => exact stepped_if h fun _ => .plain (deeds_pulseLost _)
  | holdoverLimitExpiry => exact stepped_if h fun _ => .plain (deeds_holdoverExpires _)
  | slewEnd => exact stepped_if h fun _ => .plain (deeds_slewEnds _)
  | pulseOutputRise k =>
    cases h
    exact stepped_event (.plain (deeds_pulseRise k _))
  | pulseOutputFall k => exact stepped_if h fun _ => .plain (deeds_pulseFall k _)
  | scheduleFire => exact stepped_if h fun _ => .plain (deeds_fireEntries _)
  | siteSecondsWrap =>
    cases h
    exact stepped_event (.plain (deeds_wrapSeconds _))
  | phaseEnd l => exact stepped_if h fun _ => .plain (deeds_endPhases l _)
  | testFrameDue l => exact stepped_if h fun _ => taken_generateTest l _
  | noticeDue => exact stepped_if h fun _ => taken_core (core_noticeFallsDue _)
  | storeEraseEnd ok => exact stepped_if h fun _ => .plain (deeds_eraseEnds ok _)
  | storeBlockProgrammed ok => exact stepped_if h fun hdue => .plain (deeds_blockEnds ok (s := s.begun) hdue)
  | storeRecoveryEnd => exact stepped_if h fun _ => .plain (deeds_recoveryEnds _)
  | powerOnReset =>
    cases h
    exact StepTaken.stepped (.resets s .powerOn .refl (CoreSame.refl _) fun _ => rfl)
  | supplyLowReset n => exact stepped_reset h (by decide)
  | pinReset n => exact stepped_reset h (by decide)
  | resetRelease k straps =>
    exact stepped_if h fun hr => .plain (deeds_releaseReset _ straps (s := s.begun) (releasable_reset hr))
  | bufferGroupTested bad =>
    exact stepped_if h fun hd => .plain (deeds_groupEnds bad (s := s.begun) (groupDue_checking hd))
  | startupSlotLoaded => exact stepped_if h fun hd => .plain (deeds_startupRead (s := s.begun) (loadDue_loading hd))

/-- A state whose front command has been taken. -/
def State.popped (s : State) : State := { s with pending := s.pending.tail }

theorem stepped_step {s t : State} (h : step s = .next t) : Stepped s.pending.head? s.popped t := by
  unfold step at h
  split at h
  · next c rest hp =>
    have hpopped : s.popped = { s with pending := rest } := by
      unfold State.popped
      rw [hp] <;> rfl
    rw [hpopped, hp]
    exact stepped_exec h
  · next hp =>
    cases h
    have hpopped : s.popped = s := by
      unfold State.popped
      rw [hp]
      show ({ s with pending := [] } : State) = s
      rw [← hp]
    rw [hpopped, hp]
    exact StepTaken.stepped (.plain (deeds_idle hp))

end Sys2Proof.Machine
end

section
/-!
PROOF. The laws that every step keeps (R21, R30, R40, R65, R71 to R79, R103, R110, R132, R15 to R17): O56, O57, O58, O59.
-/

namespace Sys2Proof.Machine

/-! ## Classes, TEST entries and site time (O56) -/

theorem Stepped.classLaws {c : Option Instr} {s t : State} (h : Stepped c s t) (k : ClassLaws s) : ClassLaws t := by
  obtain ⟨u, hu, ht⟩ := h
  exact ht.toRecordsSame.classLaws (hu.classLaws k)

theorem Stepped.testLaw {c : Option Instr} {s t : State} (h : Stepped c s t) (hc : ClassLaws s) (k : TestLaw s) :
    TestLaw t := by
  obtain ⟨u, hu, ht⟩ := h
  exact (testLaw_iff t).2 (ht.toRecordsSame.runLaw (hu.runLaw hc ((testLaw_iff s).1 k)))

theorem Stepped.nanos {c : Option Instr} {s t : State} (h : Stepped c s t) (k : s.time.site.nanos < 1000000000) :
    t.time.site.nanos < 1000000000 := by
  obtain ⟨u, hu, ht⟩ := h
  exact ht.toRecordsSame.nanos (hu.nanos k)

theorem Stepped.early {c : Option Instr} {s t : State} (h : Stepped c s t) (k : ClockLaw s) : EarlyInvalid t := by
  obtain ⟨u, hu, ht⟩ := h
  exact ht.toRecordsSame.early (hu.clockLaw k).early

theorem Stepped.entriesAhead {c : Option Instr} {s t : State} (h : Stepped c s t) (hc : ClockLaw s) (k : EntriesAhead s) :
    EntriesAhead t := by
  obtain ⟨u, hu, ht⟩ := h
  exact ht.toRecordsSame.entriesAhead (hu.entriesAhead hc k)

/-- The firing taken from the queue fires what waited for it, or finds nothing due (R132). -/
theorem entriesAhead_fired {s t : State} (hlaw : scheduleLaw s.cfg.schedule) (h : exec .scheduleFire s = .next t) :
    EntriesAhead t := by
  change execScheduleFire s = .next t at h
  unfold execScheduleFire at h
  split at h
  · cases h
    exact (traffic_settle _).toRecordsSame.entriesAhead (entriesAhead_fireEntries (s := s.begun) hlaw)
  · next hno =>
    cases h
    intro hv
    refine .inl fun e he => Nat.lt_of_not_le fun hle => hno ?_
    exact fireDue_of_due hlaw hv ⟨e, he, hle⟩

/-- Taking another command than the firing leaves the firing in the queue. -/
theorem entriesAhead_popped {s : State} (hc : s.pending.head? ≠ some .scheduleFire) (k : EntriesAhead s) :
    EntriesAhead s.popped := by
  intro hv
  refine (k hv).imp id fun hmem => ?_
  show Instr.scheduleFire ∈ s.pending.tail
  cases hp : s.pending with
  | nil => rw [hp] at hmem; cases hmem
  | cons c rest =>
    rw [hp] at hmem hc
    exact (List.mem_cons.1 hmem).resolve_left fun heq => hc (by rw [heq] <;> rfl)

theorem scheduleAhead_step {s t : State} (hc : ClassLaws s) (hn : s.time.site.nanos < 1000000000) (k : ScheduleAhead s)
    (h : step s = .next t) : ScheduleAhead t := by
  obtain ⟨hearly, hahead⟩ := (scheduleAhead_iff s).1 k
  have hclock : ClockLaw s.popped := ⟨hc, hn, hearly⟩
  have hstep := stepped_step h
  refine (scheduleAhead_iff t).2 ⟨hstep.early hclock, ?_⟩
  by_cases hhead : s.pending.head? = some .scheduleFire
  · have hfire : exec .scheduleFire s.popped = .next t := by
      unfold step at h
      split at h
      · next c rest hp =>
        rw [hp] at hhead
        cases hhead
        unfold State.popped
        rw [hp]
        exact h
      · next hp =>
        rw [hp] at hhead
        cases hhead
    exact entriesAhead_fired (s := s.popped) hc.2.1 hfire
  · exact hstep.entriesAhead hclock (entriesAhead_popped hhead hahead)

/-- Settles O56: each law is kept by every deed that a step is made of, by a frame that joins a queue, by a load and by a
reset, and departures do not touch what the laws read. The seconds of a backward edge do not come into it. -/
theorem classLawsAreKept : Obligations.ClassLawsAreKept :=
  ⟨fun _ _ hc h => (stepped_step h).classLaws hc,
    fun _ _ hc ht h => (stepped_step h).testLaw hc ht,
    fun _ _ hc hn ha h _ => scheduleAhead_step hc hn ha h,
    fun _ _ hn h => (stepped_step h).nanos hn⟩

/-! ## The allocation table (O57) -/

theorem Stepped.allocationLaw {c : Option Instr} {s t : State} (h : Stepped c s t) (hs : shareSumLaw s)
    (k : allocationLaw s.share.table) : allocationLaw t.share.table := by
  obtain ⟨u, hu, ht⟩ := h
  rw [ht.table]
  exact (hu.tableLaws ⟨hs, k⟩).law

theorem Stepped.tableLaw {c : Option Instr} {s t : State} (h : Stepped c s t) (k : tableLaw s.share.table) :
    tableLaw t.share.table := by
  obtain ⟨u, hu, ht⟩ := h
  rw [ht.table]
  exact hu.tableLaw k

theorem Stepped.linksCounted {c : Option Instr} {s t : State} (h : Stepped c s t) (k : LinksCounted s) : LinksCounted t := by
  obtain ⟨u, hu, ht⟩ := h
  exact ht.toRecordsSame.linksCounted (hu.linksCounted k)

/-- Settles O57: a deed leaves the table and what it counts, or computes it afresh, and the sharing hands out exactly U. -/
theorem allocationLawIsKept : Obligations.AllocationLawIsKept :=
  ⟨fun _ _ hs k h => (stepped_step h).allocationLaw hs k,
    fun _ _ k h => (stepped_step h).tableLaw k,
    fun _ _ k h => (stepped_step h).linksCounted k,
    fun s i => computeTable_guarantee s i⟩

/-! ## The Time Unit (O58) -/

theorem Stepped.servoLaw {c : Option Instr} {s t : State} (h : Stepped c s t) (k : servoLaw s) : servoLaw t := by
  obtain ⟨u, hu, ht⟩ := h
  exact ht.toRecordsSame.servoLaw (hu.servoLaw k)

theorem Stepped.becomesValid {c : Option Instr} {s t : State} (h : Stepped c s t) (hs : s.time.valid = false)
    (ht : t.time.valid = true) : maySetTime c := by
  obtain ⟨u, hu, hd⟩ := h
  rw [hd.time] at ht
  exact hu.becomesValid hs ht

theorem Stepped.becomesInvalid {c : Option Instr} {s t : State} (h : Stepped c s t) (hs : s.time.valid = true)
    (ht : t.time.valid = false) : t.startup.state = .reset ∧ t.time.elapsed = 0 := by
  obtain ⟨u, hu, hd⟩ := h
  rw [hd.time] at ht ⊢
  rw [hd.startup]
  exact hu.becomesInvalid hs ht

theorem head_cons {s : State} {i : Instr} (h : s.pending.head? = some i) : s.pending = i :: s.pending.tail :=
  (List.cons_head?_tail h).symm

/-- Settles O58: only the deeds of the pulse input change the adjustment, within its limits, and only SET_TIME and a reset
write the flag. -/
theorem timeUnitLawsAreKept : Obligations.TimeUnitLawsAreKept := by
  intro s t h
  have hstep := stepped_step h
  refine ⟨fun k => hstep.servoLaw k, fun hs ht => ?_, fun hs ht => hstep.becomesInvalid hs ht⟩
  rcases hstep.becomesValid hs ht with ⟨hd, sel, body, hc⟩ | ⟨p, bytes, hc, hreq⟩
  · exact .inl ⟨hd, sel, body, _, head_cons hc⟩
  · exact .inr ⟨p, bytes, _, head_cons hc, hreq⟩

/-! ## The pool, the local stores and the queues (O59) -/

theorem Stepped.retiredLaw {c : Option Instr} {s t : State} (h : Stepped c s t) (k : retiredLaw s.pool) :
    retiredLaw t.pool := by
  obtain ⟨u, hu, ht⟩ := h
  exact (retiredOnly_of ht.retired).1 (hu.retiredLaw k)

theorem Stepped.staysRetired {c : Option Instr} {s t : State} (h : Stepped c s t) (hc : c ≠ some .powerOnReset) {g : Nat}
    (hg : g ∈ s.pool.retired) : g ∈ t.pool.retired := by
  obtain ⟨u, hu, ht⟩ := h
  exact (retiredOnly_of ht.retired).2 g (hu.staysRetired hc hg)

theorem Stepped.poolLaw {c : Option Instr} {s t : State} (h : Stepped c s t) (hr : RunsRunning s) (k : PoolLaw s) :
    PoolLaw t := by
  obtain ⟨u, hu, ht⟩ := h
  exact (poolLaw_iff t).2 (ht.poolCounts (hu.poolCounts hr ((poolLaw_iff s).1 k)))

theorem Stepped.localLaw {c : Option Instr} {s t : State} (h : Stepped c s t) (k : LocalLaw s) : LocalLaw t := by
  obtain ⟨u, hu, ht⟩ := h
  exact ht.localLaw (hu.localLaw k)

theorem Stepped.fifos {c : Option Instr} {s t : State} (h : Stepped c s t) : Fifos s t := by
  obtain ⟨u, hu, ht⟩ := h
  exact hu.fifos.shrinks ht.shrinks

/-- Settles O59: deeds and departures keep each cell in one hand and let frames leave a queue from its head only, and one
frame joins one queue at most. -/
theorem retiredGroupsStayRetired : Obligations.RetiredGroupsStayRetired := by
  refine ⟨fun s t h => ⟨fun k => (stepped_step h).retiredLaw k, fun hno g hg => ?_⟩,
    fun s t hr k h => (stepped_step h).poolLaw (s := s.popped) ((testLaw_iff s).1 hr).running k,
    fun s t k h => (stepped_step h).localLaw k, fun s t h => ?_⟩
  · exact (stepped_step h).staysRetired (fun hc => hno _ (head_cons hc)) hg
  · have hf := (stepped_step h).fifos
    exact ⟨hf.tenant, hf.timing, hf.test, hf.down⟩

end Sys2Proof.Machine
end

section
/-!
PROOF. A credit that reaches 0 calls the arbiters, and what may start in a step (R12, R90 to R93): O40.
-/

namespace Sys2Proof.Machine

/-! ## The state in which a called arbiter makes its pass -/

/-- Buckets were brought up to date and free values taken: nothing that a pass reads has changed. -/
structure Refreshed (s v : State) : Prop where
  shape : ∃ d e n, v = { s with sched := d, ev := e, freeCount := n } ∧ e.outbox = s.ev.outbox
    ∧ d.pointer = s.sched.pointer
  bucket : ∀ b, (v.bucket b).refresh s.nowNs = (s.bucket b).refresh s.nowNs

theorem Refreshed.refl (s : State) : Refreshed s s := ⟨⟨_, _, _, rfl, rfl, rfl⟩, fun _ => rfl⟩

theorem Refreshed.trans {s t u : State} (h : Refreshed s t) (k : Refreshed t u) : Refreshed s u := by
  obtain ⟨⟨d, e, n, rfl, ho, hp⟩, hb⟩ := h
  obtain ⟨⟨d', e', n', rfl, ho', hp'⟩, hb'⟩ := k
  exact ⟨⟨_, _, _, rfl, ho'.trans ho, hp'.trans hp⟩, fun b => (hb' b).trans (hb b)⟩

theorem refreshed_touch (b : BucketId) (s : State) : Refreshed s (touch b s) := by
  obtain ⟨d, e, h, ho, hp, hb⟩ := touch_spec b s
  refine ⟨⟨d, e, s.freeCount, by rw [h], ho, hp⟩, fun c => ?_⟩
  rw [hb]
  split
  · next hc => rw [hc, refresh_refresh]
  · rfl

theorem Refreshed.outbox {s v : State} (h : Refreshed s v) : v.ev.outbox = s.ev.outbox := by
  obtain ⟨⟨_, _, _, rfl, ho, _⟩, _⟩ := h
  exact ho

theorem Refreshed.readyNow {s v : State} (h : Refreshed s v) (l : Link) : ReadyNow l v ↔ ReadyNow l s := by
  obtain ⟨⟨d, e, n, rfl, _, _⟩, hb⟩ := h
  show _ ∧ _ ∧ 0 ≤ (Bucket.refresh s.nowNs _).credit ↔ _
  rw [hb]
  rfl

theorem Refreshed.passTakes {s v : State} (h : Refreshed s v) (l : Link) : passTakes l v = passTakes l s := by
  obtain ⟨⟨d, e, n, rfl, _, hp⟩, hb⟩ := h
  have ht : timingGoes l { s with sched := d, ev := e, freeCount := n } = timingGoes l s := by
    funext x
    show (_ && decide (0 ≤ (Bucket.refresh s.nowNs _).credit)) = _
    rw [hb]
    rfl
  have hg : tenantGoes l { s with sched := d, ev := e, freeCount := n } = tenantGoes l s := by
    funext i
    show (_ && (match freshQ s i with
      | [] => false
      | x :: _ => eligible s x.pref l && decide (0 ≤ (Bucket.refresh s.nowNs _).credit))) = _
    rw [hb]
    rfl
  have hserved : tenantServed l { s with sched := d, ev := e, freeCount := n } = tenantServed l s := by
    unfold tenantServed
    rw [hg]
    show (walkOrder (d.pointer.get l)).find? _ = _
    rw [hp]
  unfold Sys2Proof.Machine.passTakes
  rw [ht, hserved] <;> rfl

/-! ## The rounds until a called port makes its pass (R91, R97) -/

/-- The work that is left in an event: the arbiter of l is called, and no port's but a backhaul port's. -/
structure Calls (l : Link) (v : State) : Prop where
  outbox : v.ev.outbox = []
  called : v.ev.kick.get (.bh l) = true
  access : ∀ p, (∀ k, p ≠ .bh k) → v.ev.kick.get p = false

/-- The pacing credit of a link has been counted: bringing it up to date calls nothing. -/
def PacingCounted (l : Link) (v : State) : Prop :=
  crossesZero (v.bucket (.pacing l)) ((v.bucket (.pacing l)).refresh v.nowNs) = false

/-- Of two arbiters called, a free value decides which is served first (R97). -/
theorem Calls.nextServed {l : Link} {v : State} (h : Calls l v) :
    (∃ n, nextServed v = (some (.bh l), { v with freeCount := n }))
      ∨ v.ev.kick.get (.bh l.other) = true ∧ ∃ n, nextServed v = (some (.bh l.other), { v with freeCount := n }) := by
  have haccess : (Port.list.filter fun p => !decide (roleOf p = .backhaul)).find? (fun p => v.ev.kick.get p) = none := by
    refine List.find?_eq_none.2 fun p hp hk => ?_
    obtain ⟨_, hrole⟩ := List.mem_filter.1 hp
    rw [h.access p fun k hk => by subst hk; exact nomatch hrole] at hk
    exact nomatch hk
  have hcalled := h.called
  unfold Sys2Proof.Machine.nextServed
  rw [haccess]
  cases l with
  | l0 =>
    have h0 : v.ev.kick.bh.l0 = true := hcalled
    cases h1 : v.ev.kick.bh.l1 with
    | false => exact .inl ⟨v.freeCount, by simp [h0]⟩
    | true =>
      cases hf : Config.firstArbiterIsBh1 v.freeCount with
      | false => exact .inl ⟨v.freeCount + 1, by simp [h0, takeFree, hf]⟩
      | true => exact .inr ⟨h1, v.freeCount + 1, by simp [h0, takeFree, hf, Link.other]⟩
  | l1 =>
    have h1 : v.ev.kick.bh.l1 = true := hcalled
    cases h0 : v.ev.kick.bh.l0 with
    | false => exact .inl ⟨v.freeCount, by simp [h1]⟩
    | true =>
      cases hf : Config.firstArbiterIsBh1 v.freeCount with
      | false => exact .inr ⟨h0, v.freeCount + 1, by simp [h1, takeFree, hf, Link.other]⟩
      | true => exact .inl ⟨v.freeCount + 1, by simp [h1, takeFree, hf]⟩

/-- A round of an event serves one port. -/
theorem settleRounds_serve {v u : State} {p : Port} (n : Nat) (ho : v.ev.outbox = []) (hn : nextServed v = (some p, u)) :
    settleRounds (n + 1) v = settleRounds n (serve p u) := by
  rw [settleRounds, ho, hn]
  rfl

theorem touch_pacing_ev (l : Link) (v : State) :
    (touch (.pacing l) v).ev
      = if crossesZero (v.bucket (.pacing l)) ((v.bucket (.pacing l)).refresh v.nowNs)
        then { v.ev with kick := v.ev.kick.set (.bh l) true } else v.ev := by
  unfold touch
  dsimp only
  split <;> rfl

theorem pacingCounted_touch (l : Link) (v : State) : PacingCounted l (touch (.pacing l) v) := by
  obtain ⟨d, e, h, _, _, hb⟩ := touch_spec (.pacing l) v
  have hn : (touch (.pacing l) v).nowNs = v.nowNs := by rw [h]; rfl
  unfold PacingCounted crossesZero
  rw [hb, if_pos rfl, hn, refresh_refresh]
  exact decide_eq_false fun hx => by omega

/-- One round: the called port, which is ready, starts what its pass takes; or the other one, which is not, is served
before it, and is called again only by its own credit. -/
theorem Calls.round {l : Link} {s v : State} {item : TxItem} (h : Calls l v) (hs : Refreshed s v) (hr : ReadyNow l s)
    (ht : Sys2Proof.Machine.passTakes l s = some item) (ho : v.ev.kick.get (.bh l.other) = true → ¬ReadyNow l.other s) (n : Nat) :
    sends (settleRounds (n + 1) v) (.bh l) item
      ∨ v.ev.kick.get (.bh l.other) = true ∧ ∃ w, settleRounds (n + 1) v = settleRounds n w ∧ Calls l w ∧ Refreshed s w
          ∧ PacingCounted l.other w ∧ (PacingCounted l.other v → w.ev.kick.get (.bh l.other) = false) := by
  have hserved : ∀ (p : Port) (k : Nat),
      Refreshed s { v with freeCount := k, ev := { v.ev with kick := v.ev.kick.set p false } } := fun p k =>
    hs.trans ⟨⟨_, _, _, rfl, rfl, rfl⟩, fun b => by cases b <;> rfl⟩
  rcases h.nextServed with ⟨k, hn⟩ | ⟨hk, k, hn⟩
  · left
    rw [settleRounds_serve n h.outbox hn]
    have hu := hserved (.bh l) k
    obtain ⟨x, hx, hi⟩ := serveBackhaul_sends ((hu.readyNow l).2 hr) ((hu.passTakes l).trans ht)
    exact ⟨x, (settleRounds_departs n _).2.going _ x hx, hi⟩
  · right
    have hu := hserved (.bh l.other) k
    have hserve : serve (.bh l.other) { v with freeCount := k }
        = touch (.pacing l.other) { v with freeCount := k, ev := { v.ev with kick := v.ev.kick.set (.bh l.other) false } } :=
      serveBackhaul_unready fun hx => ho hk ((hu.readyNow _).1 hx)
    refine ⟨hk, _, (settleRounds_serve n h.outbox hn).trans (by rw [hserve]), ?_⟩
    have hw := hu.trans (refreshed_touch (.pacing l.other) _)
    have hev := touch_pacing_ev l.other
      { v with freeCount := k, ev := { v.ev with kick := v.ev.kick.set (.bh l.other) false } }
    have hne : (Port.bh l) ≠ .bh l.other := fun hx => by cases l <;> exact nomatch hx
    refine ⟨⟨?_, ?_, fun p hp => ?_⟩, hw, pacingCounted_touch _ _, fun hc => ?_⟩
    · rw [hw.outbox, ← hs.outbox]; exact h.outbox
    · rw [hev]
      split
      · show ((v.ev.kick.set (.bh l.other) false).set (.bh l.other) true).get (.bh l) = true
        rw [PerPort.get_set, if_neg hne, PerPort.get_set, if_neg hne]
        exact h.called
      · show (v.ev.kick.set (.bh l.other) false).get (.bh l) = true
        rw [PerPort.get_set, if_neg hne]
        exact h.called
    · rw [hev]
      split
      · show ((v.ev.kick.set (.bh l.other) false).set (.bh l.other) true).get p = false
        rw [PerPort.get_set, if_neg (hp _), PerPort.get_set, if_neg (hp _)]
        exact h.access p hp
      · show (v.ev.kick.set (.bh l.other) false).get p = false
        rw [PerPort.get_set, if_neg (hp _)]
        exact h.access p hp
    · have hstill : crossesZero (v.bucket (.pacing l.other)) ((v.bucket (.pacing l.other)).refresh v.nowNs) = false := hc
      rw [hev]
      split
      · next hx => exact nomatch hstill.symm.trans hx
      · show (v.ev.kick.set (.bh l.other) false).get (.bh l.other) = false
        rw [PerPort.get_set, if_pos rfl]

/-- A called port that is ready starts what its pass takes: one that is not ready is served before it at most twice. -/
theorem Calls.sends {l : Link} {s v : State} {item : TxItem} (h : Calls l v) (hs : Refreshed s v) (hr : ReadyNow l s)
    (ht : Sys2Proof.Machine.passTakes l s = some item) (ho : v.ev.kick.get (.bh l.other) = true → ¬ReadyNow l.other s) :
    Sys2Proof.Machine.sends (settle v) (.bh l) item := by
  suffices hrounds : Sys2Proof.Machine.sends (settleRounds 64 v) (.bh l) item by
    obtain ⟨x, hx, hi⟩ := hrounds
    exact ⟨x, hx, hi⟩
  rcases h.round hs hr ht ho 63 with hx | ⟨hk, w, he, hw, hsw, hc, _⟩
  · exact hx
  rw [he]
  rcases hw.round hsw hr ht (fun _ => ho hk) 62 with hx | ⟨_, x, he', hx, hsx, _, hquiet⟩
  · exact hx
  rw [he']
  rcases hx.round hsx hr ht (fun _ => ho hk) 61 with hy | ⟨hk', _⟩
  · exact hy
  · rw [hquiet hc] at hk'; exact nomatch hk'

/-! ## A credit that reaches 0 -/

theorem creditDue_iff {b : BucketId} {s : State} (hb : b.awaited = true) :
    creditDue b s = true ↔ (s.bucket b).credit < 0 ∧ 0 ≤ ((s.bucket b).refresh s.nowNs).credit := by
  unfold creditDue crossesZero
  rw [hb, Bool.true_and, decide_eq_true_eq]

theorem creditReachesZero_due {b : BucketId} {s : State} (hb : b.awaited = true) (hneg : (s.bucket b).credit < 0)
    (hpos : 0 ≤ ((s.bucket b).refresh s.nowNs).credit) : exec (.creditReachesZero b) s = .next (event (touch b) s) :=
  if_pos ((creditDue_iff hb).2 ⟨hneg, hpos⟩)

/-- An awaited bucket brought up to date writes nothing but credits. -/
theorem touch_steady {b : BucketId} (hb : b.awaited = true) (s : State) : Steady [] s (touch b s) := by
  obtain ⟨d, e, h, hrates⟩ := touch_shape b s
  have hreflect : (touch b s).sched.reflect = s.sched.reflect := touch_reflect b s fun l hl => by subst hl; exact nomatch hb
  have hs : Steady [.rates, .reflect] s (touch b s) := by
    rw [h]
    exact sched_steady' s d e
  refine hs.drop fun a ha _ => ?_
  simp only [List.mem_cons, List.not_mem_nil, or_false] at ha
  rcases ha with rfl | rfl
  · exact hrates
  · exact hreflect

/-- Its credit reaching 0 calls the link's own arbiter, or both (R91). -/
theorem touch_calls {b : BucketId} {l : Link} {s : State} (hneg : (s.bucket b).credit < 0)
    (hpos : 0 ≤ ((s.bucket b).refresh s.nowNs).credit) (hb : b = .pacing l ∨ isShared b = true) :
    Calls l (touch b s.begun) ∧ (b = .pacing l → (touch b s.begun).ev.kick.get (.bh l.other) = false) := by
  have hcross : crossesZero (s.begun.bucket b) ((s.begun.bucket b).refresh s.begun.nowNs) = true := by
    have hbucket : s.begun.bucket b = s.bucket b := by cases b <;> rfl
    unfold crossesZero
    rw [hbucket]
    exact decide_eq_true ⟨hneg, hpos⟩
  have htouch : touch b s.begun = kickForBucket b (s.begun.setBucket b ((s.begun.bucket b).refresh s.begun.nowNs)) := by
    unfold touch
    dsimp only
    rw [hcross]
    rfl
  rw [htouch]
  rcases hb with rfl | hb
  · refine ⟨⟨rfl, ?_, fun p hp => ?_⟩, fun _ => by cases l <;> rfl⟩
    · cases l <;> rfl
    · cases p with
      | ap i => exact Vector.getElem_replicate ..
      | sp => rfl
      | bh k => exact absurd rfl (hp k)
  · have hev : (kickForBucket b (s.begun.setBucket b ((s.begun.bucket b).refresh s.begun.nowNs))).ev
        = { noWork with kick := (noWork.kick.set (.bh .l0) true).set (.bh .l1) true } := by
      cases b with
      | tenant _ => rfl
      | timing => rfl
      | pacing _ => exact nomatch hb
      | reflect _ => exact nomatch hb
    refine ⟨⟨by rw [hev]; rfl, by rw [hev]; cases l <;> rfl, fun p hp => ?_⟩, fun hx => by rw [hx] at hb; exact nomatch hb⟩
    rw [hev, PerPort.get_set, if_neg (hp _), PerPort.get_set, if_neg (hp _)]
    cases p with
    | ap i => exact Vector.getElem_replicate ..
    | sp => rfl
    | bh k => exact absurd rfl (hp k)

theorem creditReachesZero_sends {b : BucketId} {l : Link} {s : State} {item : TxItem} (hb : b.awaited = true)
    (hneg : (s.bucket b).credit < 0) (hpos : 0 ≤ ((s.bucket b).refresh s.nowNs).credit)
    (hcall : b = .pacing l ∨ isShared b = true ∧ ¬ReadyNow l.other s) (hr : ReadyNow l s)
    (ht : passTakes l s = some item) : ∃ t, exec (.creditReachesZero b) s = .next t ∧ sends t (.bh l) item := by
  refine ⟨_, creditReachesZero_due hb hneg hpos, ?_⟩
  obtain ⟨hcalls, halone⟩ := touch_calls hneg hpos (hcall.imp_right And.left)
  refine hcalls.sends (refreshed_touch b s.begun) hr ht fun hk => ?_
  rcases hcall with hl | ⟨_, ho⟩
  · rw [halone hl] at hk; exact nomatch hk
  · exact ho

/-! ## What may start in a step (R12, R93) -/

/-- The frame that a step leaves under transmission was under way before it, or has started on a link in service, or
comes from a test queue. -/
theorem Stepped.starts {c : Option Instr} {s t : State} (h : Stepped c s t) (k : TestQueues s) {l : Link} {x : Transmission}
    {d : Descriptor} (hx : (t.port (.bh l)).tx = some x) (hd : x.item = .pool d)
    (hcls : d.cls = .tenant ∨ d.cls = .timing) : (s.port (.bh l)).tx = some x ∨ t.inService l = true := by
  obtain ⟨u, hu, ht⟩ := h
  rcases ht.starts l x d hx hd with hgoing | hserv | htest
  · left
    rcases hu.tx (.bh l) with hsame | hnone
    · exact hsame ▸ hgoing
    · rw [hnone] at hgoing; exact nomatch hgoing
  · exact .inr ((ht.toRecordsSame.inService l).trans hserv)
  · have hclass := hu.testQueues k l d htest
    rcases hcls with hc | hc <;> rw [hc] at hclass <;> exact hclass.elim nofun nofun

/-- Settles O40. The local frame of the first clause is what a pass of its ready port takes. -/
theorem creditStartsTheArbiter : Obligations.CreditStartsTheArbiter := by
  refine ⟨fun b s hb => ⟨fun h => if_neg fun hd => h ((creditDue_iff hb).1 hd), fun ⟨hneg, hpos⟩ => ?_⟩,
    fun b l s item hb hneg hpos hcall hr ht => creditReachesZero_sends hb hneg hpos hcall hr ht,
    fun s t k h => ?_⟩
  · refine ⟨_, creditReachesZero_due hb hneg hpos, (touch_steady hb s.begun).event (told_touch b s.begun) (by decide),
      fun l f rest hl hup htx hq => ?_⟩
    have hready : ReadyNow l s := ⟨hup, htx, by rw [← hl]; exact hpos⟩
    have htakes : passTakes l s = some (.store f) := by unfold passTakes; rw [hq]
    obtain ⟨t, he, hsends⟩ := creditReachesZero_sends hb hneg hpos (.inl hl) hready htakes
    rw [creditReachesZero_due hb hneg hpos] at he
    cases he
    exact hsends
  · have hstep := stepped_step h
    obtain ⟨u, hu, ht⟩ := hstep
    exact ⟨ht.shrinks.testQueues (hu.testQueues (s := s.popped) k),
      fun l x d hx hd hcls => Stepped.starts (s := s.popped) ⟨u, hu, ht⟩ k hx hd hcls⟩

end Sys2Proof.Machine
end

section
/-!
PROOF. The phases of the store's operations (R168 to R171, R173): O50.
-/

namespace Sys2Proof.Machine

/-- What an event of control operations leaves. -/
theorem controls_settled {w : List Part} {ls : List Cond} {bs : List BucketId} {f : State → State} {s u : State}
    (hop : f s.begun = u) (hc : Controls w ls bs s.begun u) (hw : Part.linkUp ∈ w → Part.traffic ∈ w := by decide) :
    Kept w s (event f s) ∧ LatchesKept ls s (event f s) ∧ Departs u (event f s) := by
  subst hop
  have hdep := event_departs f s
  exact ⟨hc.steady.event hc.told hw, latchesKept_of (s := s.begun) hc hdep, hdep⟩

/-- Departures raise none of a class of conditions. -/
theorem Departs.latch {s t : State} (h : Departs s t) {c : Cond} (hc : c.ofDeparture = false) : t.latch c = s.latch c :=
  (h.1 .latches rfl : ∀ c : Cond, _) c hc

/-! ## The bytes that a phase leaves -/

/-- Images changed, none of another slot than the job's; free values were taken. -/
def ImagesWritten (job : StoreJob) (s u : State) : Prop :=
  ∃ slots info n, u = { s with store := { s.store with slots, info }, freeCount := n }
    ∧ ∀ k, jobSlot job ≠ some k → tget slots k = tget s.store.slots k

theorem ImagesWritten.same (job : StoreJob) (s : State) (n : Nat) : ImagesWritten job s { s with freeCount := n } :=
  ⟨_, _, _, rfl, fun _ _ => rfl⟩

theorem written_updSlot {job : StoreJob} {k : Fin 4} (hk : jobSlot job = some k) (f : SlotImage → SlotImage) (s : State)
    (n : Nat) : ImagesWritten job s (updSlot k f { s with freeCount := n }) := by
  refine ⟨_, s.store.info, n, rfl, fun j hj => ?_⟩
  show tget (tset s.store.slots k _) j = _
  rw [tget_tset, if_neg fun h : j = k => hj (h ▸ hk)]

theorem written_updInfo (job : StoreJob) (f : InfoImage → InfoImage) (s : State) (n : Nat) :
    ImagesWritten job s (updInfo f { s with freeCount := n }) := ⟨s.store.slots, _, n, rfl, fun _ _ => rfl⟩

theorem written_erasedBy (job : StoreJob) (s : State) : ImagesWritten job s (erasedBy job s) := by
  cases job with
  | eraseSlot k => exact written_updSlot (job := .eraseSlot k) rfl (fun _ => erasedSlot) s s.freeCount
  | eraseInfo => exact written_updInfo .eraseInfo (fun _ => erasedInfo) s s.freeCount
  | saveSlot k b c => exact .same _ s s.freeCount
  | invalidateSlot k => exact .same _ s s.freeCount
  | writeInfo a b => exact .same _ s s.freeCount

theorem written_failedErase (job : StoreJob) (s : State) : ImagesWritten job s (failedErase job s) := by
  unfold failedErase takeFree
  cases job with
  | eraseSlot k => exact written_updSlot (job := .eraseSlot k) rfl _ s (s.freeCount + 1 + 1)
  | eraseInfo => exact written_updInfo .eraseInfo _ s (s.freeCount + 1 + 1)
  | saveSlot k b c => exact .same _ s s.freeCount
  | invalidateSlot k => exact .same _ s s.freeCount
  | writeInfo a b => exact .same _ s s.freeCount

theorem written_cutProgram (job : StoreJob) (total m : Nat) (s : State) : ImagesWritten job s (cutProgram job total m s) := by
  unfold cutProgram takeFree
  cases job with
  | eraseSlot k => exact .same _ s s.freeCount
  | eraseInfo => exact .same _ s s.freeCount
  | saveSlot k b c => exact written_updSlot (job := .saveSlot k b c) rfl _ s (s.freeCount + 1)
  | invalidateSlot k => exact written_updSlot (job := .invalidateSlot k) rfl _ s (s.freeCount + 1)
  | writeInfo a b => exact written_updInfo _ _ s (s.freeCount + 1)

theorem written_programmedBy (job : StoreJob) (total m : Nat) (s : State) : ImagesWritten job s (programmedBy job total m s) := by
  cases job with
  | eraseSlot k => exact .same _ s s.freeCount
  | eraseInfo => exact .same _ s s.freeCount
  | saveSlot k b c =>
    have hslot : ∀ f, ImagesWritten (.saveSlot k b c) s (updSlot k f s) := fun f =>
      written_updSlot (job := .saveSlot k b c) rfl f s s.freeCount
    unfold programmedBy
    dsimp only
    split
    · exact hslot _
    · split
      · exact hslot _
      · split <;> exact hslot _
  | invalidateSlot k =>
    unfold programmedBy
    exact written_updSlot (job := .invalidateSlot k) rfl _ s s.freeCount
  | writeInfo a b =>
    unfold programmedBy
    dsimp only
    split <;> exact written_updInfo _ _ s s.freeCount

/-! ## Phases within an event -/

theorem storeDue_of {o : StoreOp} {s : State} (ho : s.store.op = some o) (hr : reached s.now o.ends = true) :
    storeDue s o.phase = true := by
  unfold storeDue
  rw [ho]
  simp [hr]

theorem storeDue_early {o : StoreOp} {s : State} (ho : s.store.op = some o) (hr : reached s.now o.ends = false)
    (phase : StorePhase) : storeDue s phase = false := by
  unfold storeDue
  rw [ho]
  simp [hr]

theorem controls_store (s : State) (x : Store) (n : Nat) : Controls [.store] [] [] s { s with store := x, freeCount := n } :=
  .plain ((store_steady s x).trans ((freeCount_steady { s with store := x } n).mono (by simp))) rfl rfl rfl rfl

/-- An operation that goes on in another phase, or ends, after its bytes have changed: nothing but the store is
written. -/
theorem store_event {f : State → State} {x : Store} {n : Nat} {s : State}
    (hop : f s.begun = { s.begun with store := x, freeCount := n }) :
    Kept [.store] s (event f s) ∧ (event f s).store = x := by
  obtain ⟨hkept, _, hdep⟩ := controls_settled hop (controls_store s.begun x n)
  exact ⟨hkept, hdep.1 .store rfl⟩

/-- The same, with a condition raised last. -/
theorem storeRaised_event {f : State → State} {x : Store} {n : Nat} {c : Cond} {s : State} (hc : c.ofDeparture = false)
    (hop : f s.begun = raise c none { s.begun with store := x, freeCount := n }) :
    Kept [.store, .latches] s (event f s) ∧ (event f s).store = x ∧ LatchesKept [c] s (event f s)
      ∧ (event f s).latch c = (s.latch c).occur s.nowNs none := by
  have hctl : Controls [.store, .latches] [c] [] s.begun (raise c none { s.begun with store := x, freeCount := n }) :=
    ((controls_store s.begun x n).mono (by simp) (by simp) (by simp)).trans
      ((controls_raise c none _).mono (by simp) (by simp) (by simp))
  obtain ⟨hkept, hlatches, hdep⟩ := controls_settled hop hctl
  refine ⟨hkept, (hdep.1 .store rfl).trans ?_, hlatches, (hdep.latch hc).trans (raise_latch_same _ _ _)⟩
  obtain ⟨y, e, h⟩ := raise_shape c none { s.begun with store := x, freeCount := n }
  rw [h]

/-- A read-back that differs ends the operation (R169). -/
theorem failOp_event {f : State → State} {o : StoreOp} {s u : State} (hw : ImagesWritten o.job s.begun u)
    (hop : f s.begun = failOp o u) :
    Kept [.store, .latches] s (event f s) ∧ (event f s).store.op = none
      ∧ (event f s).store.last = some { done := false, op := jobName o.job, slot := jobSlot o.job }
      ∧ (event f s).store.slots = u.store.slots
      ∧ (∀ k, jobSlot o.job ≠ some k → tget (event f s).store.slots k = tget s.store.slots k)
      ∧ (event f s).latch .storeFailed = (s.latch .storeFailed).occur s.nowNs none
      ∧ LatchesKept [.storeFailed] s (event f s) := by
  obtain ⟨slots, info, n, rfl, hslots⟩ := hw
  obtain ⟨hkept, hstore, hlatches, hlatch⟩ := storeRaised_event (f := f) (n := n) (c := .storeFailed)
    (x := { s.store with slots, info, op := none, last := some { done := false, op := jobName o.job, slot := jobSlot o.job } })
    rfl hop
  exact ⟨hkept, by rw [hstore], by rw [hstore], by rw [hstore], by rw [hstore]; exact hslots, hlatch, hlatches⟩

/-- The operation goes on in another phase (R169). -/
theorem nextStorePhase_event {f : State → State} {o : StoreOp} {phase : StorePhase} {done ms : Nat} {s u : State}
    (hw : ImagesWritten o.job s.begun u) (hop : f s.begun = nextStorePhase phase done ms o u) :
    Kept [.store] s (event f s)
      ∧ (event f s).store = { s.store with
          op := some { o with phase, done, ends := afterMs o.ends ms }
          slots := u.store.slots, info := u.store.info }
      ∧ ∀ k, jobSlot o.job ≠ some k → tget u.store.slots k = tget s.store.slots k := by
  obtain ⟨slots, info, n, rfl, hslots⟩ := hw
  obtain ⟨hkept, hstore⟩ := store_event (f := f) (n := n)
    (x := { s.store with slots, info, op := some { o with phase, done, ends := afterMs o.ends ms } }) hop
  exact ⟨hkept, hstore, hslots⟩

/-! ## Erases that end (R169, R170, R173) -/

/-- What an erase that reads back as ones leaves of the bytes. -/
theorem erasedBy_images (job : StoreJob) (s : State) :
    (∀ k, tget (erasedBy job s).store.slots k
        = if job = .eraseSlot k then { erased := true, body := none, header := none, marker := 0xFF#8 }
          else tget s.store.slots k)
      ∧ (erasedBy job s).store.info
        = if job = .eraseInfo then { erased := true, content := none, marker := 0xFF#8 } else s.store.info := by
  cases job with
  | eraseSlot j =>
    refine ⟨fun k => ?_, rfl⟩
    show tget (tset s.store.slots j erasedSlot) k = _
    rw [tget_tset]
    by_cases hk : k = j
    · subst hk; rw [if_pos rfl, if_pos rfl]; rfl
    · rw [if_neg hk, if_neg fun h => hk (StoreJob.eraseSlot.inj h).symm]
  | eraseInfo => exact ⟨fun k => rfl, rfl⟩
  | saveSlot j b c => exact ⟨fun k => rfl, rfl⟩
  | invalidateSlot j => exact ⟨fun k => rfl, rfl⟩
  | writeInfo a b => exact ⟨fun k => rfl, rfl⟩

theorem storeEraseEnd_done {s : State} {o : StoreOp} (ho : s.store.op = some o) (hr : reached s.now o.ends = true)
    (hp : o.phase = .erase) :
    ∃ t, exec (.storeEraseEnd true) s = .next t ∧ Kept [.store] s t
      ∧ t.store = { s.store with
          op := some { o with phase := .recovery, ends := afterMs o.ends s.store.times.recovery }
          slots := t.store.slots, info := t.store.info }
      ∧ (∀ k, tget t.store.slots k = if o.job = .eraseSlot k then
          { erased := true, body := none, header := none, marker := 0xFF#8 } else tget s.store.slots k)
      ∧ t.store.info = (if o.job = .eraseInfo then { erased := true, content := none, marker := 0xFF#8 }
          else s.store.info) := by
  have hop : eraseEnds true s.begun
      = nextStorePhase .recovery o.done s.store.times.recovery o (erasedBy o.job s.begun) := by
    unfold eraseEnds
    rw [show s.begun.store.op = some o from ho]
    rfl
  obtain ⟨hkept, hstore, _⟩ := nextStorePhase_event (written_erasedBy o.job s.begun) hop
  obtain ⟨hslots, hinfo⟩ := erasedBy_images o.job s.begun
  refine ⟨_, if_pos (hp ▸ storeDue_of ho hr), hkept, ?_, fun k => ?_, ?_⟩
  · rw [hstore]
  · rw [hstore]; exact hslots k
  · rw [hstore]; exact hinfo

theorem storeEraseEnd_failed {s : State} {o : StoreOp} (ho : s.store.op = some o) (hr : reached s.now o.ends = true)
    (hp : o.phase = .erase) :
    ∃ t, exec (.storeEraseEnd false) s = .next t ∧ Kept [.store, .latches] s t ∧ t.store.op = none
      ∧ t.store.last = some { done := false, op := jobName o.job, slot := jobSlot o.job }
      ∧ (∀ k, o.job = .eraseSlot k → slotReport t.store k = .invalid)
      ∧ t.latch .storeFailed = (s.latch .storeFailed).occur s.nowNs none ∧ LatchesKept [.storeFailed] s t := by
  have hop : eraseEnds false s.begun = failOp o (failedErase o.job s.begun) := by
    unfold eraseEnds
    rw [show s.begun.store.op = some o from ho]
    rfl
  obtain ⟨hkept, hnone, hlast, hslots, _, hlatch, hlatches⟩ := failOp_event (written_failedErase o.job s.begun) hop
  refine ⟨_, if_pos (hp ▸ storeDue_of ho hr), hkept, hnone, hlast, fun k hk => ?_, hlatch, hlatches⟩
  unfold slotReport
  rw [hnone, hslots, hk]
  show imageReport (tget (tset s.store.slots k _) k) = .invalid
  rw [tget_tset_same]
  rfl

/-! ## Block programs that end (R170, R171, R173) -/

/-- What a block programmed as intended leaves of the bytes. -/
theorem programmedBy_images (job : StoreJob) (total n : Nat) (s : State) :
    (∀ k b c, job = .saveSlot k b c →
        (n + 1 = total → tget (programmedBy job total (n + 1) s).store.slots k
            = { tget s.store.slots k with erased := false, marker := 0x5A#8 })
        ∧ (n + 2 = total → tget (programmedBy job total (n + 1) s).store.slots k
            = { tget s.store.slots k with erased := false, header := some { check := checkOf b, saveCount := c } })
        ∧ (n + 3 = total → tget (programmedBy job total (n + 1) s).store.slots k
            = { tget s.store.slots k with erased := false, body := some b }))
      ∧ (∀ k, job = .invalidateSlot k → tget (programmedBy job total (n + 1) s).store.slots k
            = { tget s.store.slots k with erased := false, marker := 0x00#8 })
      ∧ (∀ a b, job = .writeInfo a b → (programmedBy job total (n + 1) s).store.info
            = if n + 1 = total then { s.store.info with erased := false, marker := 0x5A#8 }
              else { s.store.info with erased := false, content := some (a, b) }) := by
  refine ⟨fun k b c hj => ⟨fun h => ?_, fun h => ?_, fun h => ?_⟩, fun k hj => ?_, fun a b hj => ?_⟩
  · subst hj
    unfold programmedBy
    dsimp only
    rw [if_pos h]
    exact tget_tset_same _ _ _
  · subst hj
    unfold programmedBy
    dsimp only
    rw [if_neg (by omega), if_pos (by omega)]
    exact tget_tset_same _ _ _
  · subst hj
    unfold programmedBy
    dsimp only
    rw [if_neg (by omega), if_neg (by omega), if_pos (by omega)]
    exact tget_tset_same _ _ _
  · subst hj
    exact tget_tset_same _ _ _
  · subst hj
    unfold programmedBy
    dsimp only
    split <;> rfl

theorem storeBlock_programmed {s : State} {o : StoreOp} (ho : s.store.op = some o) (hr : reached s.now o.ends = true)
    (hp : o.phase = .program) (ok : Bool) (hok : ok = true ∨ jobName o.job = .invalidateSlot) :
    ∃ t, exec (.storeBlockProgrammed ok) s = .next t ∧ Kept [.store] s t
      ∧ t.store = { s.store with
          op := some { o with
            done := o.done + 1
            phase := if o.done + 1 < o.total then .program else .recovery
            ends := afterMs o.ends (if o.done + 1 < o.total then s.store.times.program else s.store.times.recovery) }
          slots := (programmedBy o.job o.total (o.done + 1) s.begun).store.slots
          info := (programmedBy o.job o.total (o.done + 1) s.begun).store.info }
      ∧ (∀ k, jobSlot o.job ≠ some k → tget t.store.slots k = tget s.store.slots k) := by
  have hop : blockEnds ok s.begun
      = nextStorePhase (if o.done + 1 < o.total then .program else .recovery) (o.done + 1)
          (if o.done + 1 < o.total then s.store.times.program else s.store.times.recovery) o
          (programmedBy o.job o.total (o.done + 1) s.begun) := by
    have hintended : (ok || decide (jobName o.job = .invalidateSlot)) = true := by
      rcases hok with h | h
      · rw [h]; rfl
      · rw [decide_eq_true h]; exact Bool.or_true _
    unfold blockEnds
    rw [show s.begun.store.op = some o from ho]
    dsimp only
    rw [if_pos hintended]
    split <;> rfl
  obtain ⟨hkept, hstore, hslots⟩ := nextStorePhase_event (written_programmedBy o.job o.total (o.done + 1) s.begun) hop
  exact ⟨_, if_pos (hp ▸ storeDue_of ho hr), hkept, hstore, fun k hk => by rw [hstore]; exact hslots k hk⟩

theorem storeBlock_failed {s : State} {o : StoreOp} (ho : s.store.op = some o) (hr : reached s.now o.ends = true)
    (hp : o.phase = .program) (hname : jobName o.job ≠ .invalidateSlot) :
    ∃ t, exec (.storeBlockProgrammed false) s = .next t ∧ Kept [.store, .latches] s t ∧ t.store.op = none
      ∧ t.store.last = some { done := false, op := jobName o.job, slot := jobSlot o.job }
      ∧ (∀ k, jobSlot o.job ≠ some k → tget t.store.slots k = tget s.store.slots k)
      ∧ t.latch .storeFailed = (s.latch .storeFailed).occur s.nowNs none ∧ LatchesKept [.storeFailed] s t := by
  have hop : blockEnds false s.begun = failOp o (cutProgram o.job o.total (o.done + 1) s.begun) := by
    unfold blockEnds
    rw [show s.begun.store.op = some o from ho]
    dsimp only
    rw [decide_eq_false hname]
    rfl
  obtain ⟨hkept, hnone, hlast, _, hslots, hlatch, hlatches⟩ :=
    failOp_event (written_cutProgram o.job o.total (o.done + 1) s.begun) hop
  exact ⟨_, if_pos (hp ▸ storeDue_of ho hr), hkept, hnone, hlast, hslots, hlatch, hlatches⟩

/-! ## Recoveries that end (R169, R173) -/

/-- The store after an operation is done. -/
def storeDone (o : StoreOp) (x : Store) : Store :=
  { x with
    op := none, last := some { done := true, op := jobName o.job, slot := jobSlot o.job }
    runAddr := match o.job with
      | .writeInfo a _ => a
      | _ => x.runAddr
    runLabel := match o.job with
      | .writeInfo _ b => b
      | _ => x.runLabel }

theorem endOp_done (o : StoreOp) (s : State) :
    endOp true o (takeCopy o.job s) = { s with store := storeDone o s.store } := by
  unfold endOp takeCopy storeDone
  cases o.job <;> rfl

theorem storeRecovery_done {s : State} {o : StoreOp} (ho : s.store.op = some o) (hr : reached s.now o.ends = true)
    (hp : o.phase = .recovery) :
    ∃ t, exec .storeRecoveryEnd s = .next t ∧ t.store = storeDone o s.store
      ∧ t.latch .storeDone = (if jobName o.job = .invalidateSlot then s.latch .storeDone
          else (s.latch .storeDone).occur s.nowNs none)
      ∧ LatchesKept [.storeDone] s t ∧ Kept [.store, .latches] s t := by
  refine ⟨_, if_pos (hp ▸ storeDue_of ho hr), ?_⟩
  by_cases hname : jobName o.job = .invalidateSlot
  · have hop : recoveryEnds s.begun = { s.begun with store := storeDone o s.store, freeCount := s.freeCount } := by
      unfold recoveryEnds
      rw [show s.begun.store.op = some o from ho]
      dsimp only
      rw [if_pos hname, endOp_done]
    obtain ⟨hkept, hlatches, hdep⟩ := controls_settled hop (controls_store s.begun _ _)
    exact ⟨hdep.1 .store rfl, (hdep.latch rfl).trans (if_pos hname).symm, fun c _ hc => hlatches c (by simp) hc,
      fun a ha => hkept a fun h => ha (by simp_all)⟩
  · have hop : recoveryEnds s.begun
        = raise .storeDone none { s.begun with store := storeDone o s.store, freeCount := s.freeCount } := by
      unfold recoveryEnds
      rw [show s.begun.store.op = some o from ho]
      dsimp only
      rw [if_neg hname, endOp_done]
    obtain ⟨hkept, hstore, hlatches, hlatch⟩ := storeRaised_event rfl hop
    exact ⟨hstore, hlatch.trans (if_neg hname).symm, hlatches, hkept⟩

/-! ## The law of the store in every step (R168) -/

theorem storeLaw_step {s t : State} (k : StoreLaw s.store) (h : step s = .next t) : StoreLaw t.store := by
  obtain ⟨u, hu, ht⟩ := stepped_step h
  rw [ht.store]
  exact hu.storeLaw (s := s.popped) k

/-- Settles O50, phase by phase. -/
theorem storePhasesEnd : Obligations.StorePhasesEnd := by
  refine ⟨fun s t k h => storeLaw_step k h, fun s o ho => ⟨fun hr ok => ⟨?_, ?_, ?_⟩, fun hr hp => ⟨?_, ?_⟩,
    fun hr hp ok hok => ?_, fun hr hp hn => storeBlock_failed ho hr hp hn, fun hr hp => storeRecovery_done ho hr hp⟩⟩
  · exact if_neg (by rw [storeDue_early ho hr]; simp)
  · exact if_neg (by rw [storeDue_early ho hr]; simp)
  · exact if_neg (by rw [storeDue_early ho hr]; simp)
  · exact storeEraseEnd_done ho hr hp
  · exact storeEraseEnd_failed ho hr hp
  · obtain ⟨t, he, hkept, hstore, hothers⟩ := storeBlock_programmed ho hr hp ok hok
    obtain ⟨hsave, hinvalidate, hinfo⟩ := programmedBy_images o.job o.total o.done s.begun
    have hslots : t.store.slots = (programmedBy o.job o.total (o.done + 1) s.begun).store.slots := by rw [hstore]
    have hpage : t.store.info = (programmedBy o.job o.total (o.done + 1) s.begun).store.info := by rw [hstore]
    refine ⟨t, he, hkept, ?_, ?_, ?_, hothers, ?_⟩
    · rw [hslots, hpage]; exact hstore
    · rw [hslots]; exact hsave
    · rw [hslots]; exact hinvalidate
    · rw [hpage]; exact hinfo

end Sys2Proof.Machine
end

section
/-!
PROOF. Start-up: the release of a reset and the tests of the buffer groups (R16, R174 to R176): for O52.
-/

namespace Sys2Proof.Machine

/-! ## The groups in order (R174) -/

/-- The first group from n on that is not retired. -/
theorem nextGroup_some {n g : Nat} {retired : List Nat} (hn : n ≤ g) (hg : g < 32) (hr : g ∉ retired)
    (hfirst : ∀ m, n ≤ m → m < g → m ∈ retired) : nextGroup n retired = some g := by
  unfold nextGroup
  rw [List.find?_range_eq_some]
  refine ⟨by simp [hn, hr], List.mem_range.2 hg, fun m hm => ?_⟩
  by_cases h : n ≤ m
  · simp [hfirst m h hm]
  · simp [h]

/-- With every group from n on retired there is none. -/
theorem nextGroup_none {n : Nat} {retired : List Nat} (h : ∀ m, n ≤ m → m < 32 → m ∈ retired) :
    nextGroup n retired = none := by
  unfold nextGroup
  rw [List.find?_eq_none]
  intro m hm
  by_cases hn : n ≤ m
  · simp [h m hn (List.mem_range.1 hm)]
  · simp [hn]

theorem checkFrom_next {n g : Nat} {e : Instant} {s : State} (h : nextGroup n s.pool.retired = some g) :
    checkFrom n e s = { s with startup := { s.startup with group := some (g, afterNs e 250000) } } := by
  unfold checkFrom
  rw [h]
  rfl

theorem checkFrom_end {n : Nat} {e : Instant} {s : State} (h : nextGroup n s.pool.retired = none) :
    checkFrom n e s = endCheck s := by
  unfold checkFrom
  rw [h]

/-! ## The release of a reset (R174, R176) -/

theorem releasable_of {k : Release} {s : State} (hheld : resetOf k ∈ s.startup.held) (hstate : s.startup.state = .reset)
    (hpower : ∀ n, k = .powerOn n → 50000 ≤ n)
    (hfull : k = .restartFull → ∀ x, s.startup.restartEnds = some x → reached s.now x = true) : releasable k s = true := by
  have hready : releaseReady k s = true := by
    cases k with
    | powerOn n => exact decide_eq_true (hpower n rfl)
    | supplyLow => rfl
    | pin => rfl
    | restartFull =>
      unfold releaseReady
      dsimp only
      split
      · rfl
      · next x hx => exact hfull rfl x hx
  unfold releasable
  rw [hready, hstate]
  simpa using hheld

theorem controls_startup (s : State) (x : Startup) : Controls [.startup] [] [] s { s with startup := x } :=
  .plain (startup_steady s x) rfl rfl rfl rfl

/-- A reset that is not the last leaves RESET as it is (R176). -/
theorem resetRelease_held {k : Release} {p : Straps} {s : State} (hrel : releasable k s = true) {h : ResetKind}
    (hh : h ∈ s.startup.held) (hne : h ≠ resetOf k) :
    ∃ t, exec (.resetRelease k p) s = .next t ∧ Kept [.startup] s t
      ∧ t.startup = { s.startup with held := s.startup.held.filter (fun h => h != resetOf k), pins := p } := by
  have hop : releaseReset (resetOf k) p s.begun
      = { s.begun with startup := { s.startup with held := s.startup.held.filter (fun h => h != resetOf k), pins := p } } := by
    refine if_neg fun hempty => ?_
    have hnil := List.isEmpty_iff.1 hempty
    have hmem : h ∈ s.startup.held.filter (fun h => h != resetOf k) := List.mem_filter.2 ⟨hh, by simpa using hne⟩
    rw [show s.startup.held.filter (fun h => h != resetOf k) = [] from hnil] at hmem
    exact absurd hmem List.not_mem_nil
  obtain ⟨hkept, _, hdep⟩ := controls_settled hop (controls_startup s.begun _)
  exact ⟨_, if_pos hrel, hkept, hdep.1 .startup rfl⟩

/-- The Store Controller after the page is read (R168). -/
def pageRead (x : Store) : Store :=
  match x.info.content with
  | some (addr, label) =>
    if x.info.marker = markerValid then { x with runAddr := addr, runLabel := label }
    else { x with runAddr := defaultAddress, runLabel := emptyLabel }
  | none => { x with runAddr := defaultAddress, runLabel := emptyLabel }

theorem pageRead_some {x : Store} {addr : Mac} {label : List Byte} (h : x.info.content = some (addr, label)) :
    pageRead x = if x.info.marker = 0x5A#8 then { x with runAddr := addr, runLabel := label }
      else { x with runAddr := defaultAddress, runLabel := emptyLabel } := by
  unfold pageRead
  rw [h]
  rfl

theorem pageRead_none {x : Store} (h : x.info.content = none) :
    pageRead x = { x with runAddr := defaultAddress, runLabel := emptyLabel } := by
  unfold pageRead
  rw [h]

/-- The last release latches the straps, reads the page and begins CHECKING (R174). -/
theorem resetRelease_last {k : Release} {p : Straps} {s : State} (hrel : releasable k s = true)
    (hlast : ∀ h, h ∈ s.startup.held → h = resetOf k) {g : Nat} (hg : g < 32) (hr : g ∉ s.pool.retired)
    (hfirst : ∀ m, m < g → m ∈ s.pool.retired) :
    ∃ t, exec (.resetRelease k p) s = .next t ∧ Kept [.startup, .store] s t
      ∧ t.startup = { s.startup with
          state := .checking, held := [], straps := p, pins := p, restartEnds := none
          group := some (g, afterNs s.now 250000) }
      ∧ t.store = pageRead s.store := by
  have hnil : s.startup.held.filter (fun h => h != resetOf k) = [] := by
    rw [List.filter_eq_nil_iff]
    intro h hh
    simp [hlast h hh]
  have hop : releaseReset (resetOf k) p s.begun = { s.begun with
      store := pageRead s.store
      startup := { s.startup with
        state := .checking, held := [], straps := p, pins := p, restartEnds := none
        group := some (g, afterNs s.now 250000) } } := by
    have hempty : (s.startup.held.filter (fun h => h != resetOf k)).isEmpty = true := by rw [hnil]; rfl
    let w : State := { s.begun with
      store := pageRead s.store
      startup := { s.startup with
        state := .checking, held := s.startup.held.filter (fun h => h != resetOf k), straps := p, pins := p
        restartEnds := none } }
    have hcheck : releaseReset (resetOf k) p s.begun = checkFrom 0 s.now w := if_pos hempty
    have hnext : nextGroup 0 w.pool.retired = some g := nextGroup_some (Nat.zero_le g) hg hr fun m _ => hfirst m
    rw [hcheck, checkFrom_next hnext]
    simp only [w, hnil]
  have hctl : Controls [.startup, .store] [] [] s.begun { s.begun with
      store := pageRead s.store
      startup := { s.startup with
        state := .checking, held := [], straps := p, pins := p, restartEnds := none
        group := some (g, afterNs s.now 250000) } } :=
    .plain (((store_steady s.begun _).mono (by simp)).trans
      ((startup_steady { s.begun with store := pageRead s.store } _).mono (by simp))) rfl rfl rfl rfl
  obtain ⟨hkept, _, hdep⟩ := controls_settled hop hctl
  exact ⟨_, if_pos hrel, hkept, hdep.1 .startup rfl, hdep.1 .store rfl⟩

/-! ## A group's test (R16, R174) -/

/-- The state after the test of a group: a bad one is retired. -/
def tested (g : Nat) (bad : Bool) (s : State) : State := if bad then retireGroup g s else s

/-- What the retiring of a group in CHECKING writes. -/
theorem tested_shape (g : Nat) (bad : Bool) {s : State} (hst : s.startup.state = .checking) :
    ∃ pool latches, tested g bad s = { s with pool, mgmt := { latches, notice := flagged .bufferRetired bad s } }
      ∧ pool.retired = (if bad then insertGroup g s.pool.retired else s.pool.retired)
      ∧ pool.free = (if bad then s.pool.free.filter (fun c => c / 256 != g) else s.pool.free)
      ∧ (∀ c, c ≠ .bufferRetired → tget latches c.idx = s.latch c)
      ∧ tget latches Cond.bufferRetired.idx
          = (if bad = true then (s.latch .bufferRetired).occur s.nowNs (some g) else s.latch .bufferRetired) := by
  cases bad with
  | false =>
    refine ⟨s.pool, s.mgmt.latches, ?_, rfl, rfl, fun _ _ => rfl, rfl⟩
    unfold flagged
    rw [if_neg (by simp)]
    rfl
  | true =>
    let v : State := { s with
      pool := { free := s.pool.free.filter (fun c => c / 256 != g), retired := insertGroup g s.pool.retired } }
    refine ⟨v.pool, tset s.mgmt.latches Cond.bufferRetired.idx ((s.latch .bufferRetired).occur s.nowNs (some g)), ?_, rfl, rfl,
      fun c hc => ?_, ?_⟩
    · show raise .bufferRetired (some g) v = _
      by_cases hnew : (s.latch .bufferRetired).latched = false ∧ 1 ≤ s.level .bufferRetired
      · rw [raise_judges (s := v) (some g) hnew.1 hnew.2,
          judgeLatching_starting (s := latchSet .bufferRetired (some g) v) (.inl hst)]
        unfold flagged
        rw [if_pos ⟨rfl, hnew⟩]
        rfl
      · rw [raise_silent (s := v) (some g) (by
          rw [not_and_or] at hnew
          exact hnew.imp (fun h => Bool.eq_true_of_not_eq_false h) fun h => Nat.lt_one_iff.1 (Nat.lt_of_not_le h))]
        unfold flagged
        rw [if_neg fun h => hnew h.2]
        rfl
    · rw [tget_tset, if_neg fun h => hc (Cond.idx_inj h)]
      rfl
    · rw [tget_tset_same, if_pos rfl]

end Sys2Proof.Machine
end

section
/-!
PROOF. Start-up: the end of a group's test, and the end of the check (R16, R165, R174, R175): for O52.
-/

namespace Sys2Proof.Machine

/-! ## What a group's test leaves -/

/-- Nothing of traffic, time, links, runs or configuration has changed. -/
def StartupMoved (s u : State) : Prop :=
  ∃ pool mgmt startup e n, u = { s with pool, mgmt, startup, ev := e, freeCount := n }

theorem StartupMoved.refl (s : State) : StartupMoved s s := ⟨_, _, _, _, _, rfl⟩

theorem StartupMoved.trans {s t u : State} (h : StartupMoved s t) (k : StartupMoved t u) : StartupMoved s u := by
  obtain ⟨_, _, _, _, _, rfl⟩ := h
  obtain ⟨_, _, _, _, _, rfl⟩ := k
  exact ⟨_, _, _, _, _, rfl⟩

theorem StartupMoved.writes {s u : State} (h : StartupMoved s u) :
    ∀ a : Part, a ∉ [Part.startup, .retired, .traffic, .latches, .notice, .locals] → a.kept s u := by
  obtain ⟨pool, mgmt, startup, e, n, rfl⟩ := h
  intro a ha
  cases a <;> first
    | rfl
    | exact absurd (by decide) ha
    | exact fun _ => rfl
    | exact fun _ _ => rfl
    | exact fun _ _ _ => rfl
    | exact fun _ => ⟨rfl, rfl⟩
    | exact fun _ => ⟨rfl, rfl, rfl⟩

theorem StartupMoved.traffic {s u t : State} (h : StartupMoved s u) (k : TrafficKept u t) :
    TrafficKept { s with pool := t.pool } t := by
  obtain ⟨pool, mgmt, startup, e, n, rfl⟩ := h
  exact ⟨k.going, k.tenant, k.tenantLeft, k.timing, k.timingLeft, k.test, k.testLeft, k.down, k.downLeft, k.localLeft,
    fun _ hc => hc, k.silent⟩

/-- What every end of a group's test has in common, whatever follows it. -/
theorem groupTested_common {s u t : State} (hm : StartupMoved s u) (hdep : Departs u t) :
    TrafficKept { s with pool := t.pool } t
      ∧ Kept [.startup, .retired, .traffic, .latches, .notice, .locals] s t := by
  refine ⟨hm.traffic hdep.2, fun a ha => ?_⟩
  have hmoves : a.moves = false := by
    revert ha
    cases a <;> simp [Part.moves]
  exact Part.kept_trans hmoves (hm.writes a ha) (hdep.1 a hmoves)

/-! ## The notice that start-up left pending (R165, R174, R175) -/

/-- An entry that calls no arbiter: a pending notice falls due, and nothing else becomes of the notice state. -/
theorem noticeAtEntry_settle {s v : State} {n : NoticeState} (hev : v.ev = noWork) (hn : v.mgmt.notice = n)
    (hnow : v.nowNs = s.nowNs)
    (hnotice : n.built = s.mgmt.notice.built ∧ n.refused = s.mgmt.notice.refused ∧ n.last = s.mgmt.notice.last)
    (hroom : ∀ p, localRoom v p = (decide (s.placesTaken p + 0 < 16) && (s.port p).linkUp)) :
    NoticeAtEntry n s (settle (noticeAtEntry v)) := by
  unfold NoticeAtEntry noticeAtEntry
  rw [hn]
  split
  · obtain ⟨x, o, he⟩ := noticeFallsDue_shape v
    have hlocal : LocalOnly (noticeFallsDue v) := by
      rw [he]
      exact localOnly_uncalled (by rw [← congrArg EventWork.kick hev])
    exact (fallsDue_settle (answers := fun _ => 0) (s := s) (v := v) hlocal (by rw [he]; exact ⟨rfl, rfl, rfl, rfl, rfl⟩) rfl rfl
      (by rw [hev]; rfl) hnow (by rw [hn]; exact hnotice) fun p => by rw [he]; exact hroom p).1
  · rw [settle_idle hev]
    exact hn

/-! ## The end of a group's test (R174) -/

theorem flagged_counts (c : Cond) (raised : Bool) (s : State) :
    (flagged c raised s).built = s.mgmt.notice.built ∧ (flagged c raised s).refused = s.mgmt.notice.refused
      ∧ (flagged c raised s).last = s.mgmt.notice.last := by
  unfold flagged
  split <;> exact ⟨rfl, rfl, rfl⟩

/-- A group under test has reached its end. -/
structure GroupTested (g : Nat) (x : Instant) (s : State) : Prop where
  checking : s.startup.state = .checking
  group : s.startup.group = some (g, x)
  due : reached s.now x = true

theorem GroupTested.exec {g : Nat} {x : Instant} {s : State} (h : GroupTested g x s) (bad : Bool) :
    exec (.bufferGroupTested bad) s = .next (settle (checkFrom (g + 1) x (tested g bad s.begun))) := by
  have hdue : groupDue s = true := by
    unfold groupDue
    rw [h.group]
    dsimp only
    rw [h.checking, h.due]
    rfl
  have hop : groupEnds bad s.begun = checkFrom (g + 1) x (tested g bad s.begun) := by
    unfold groupEnds
    rw [show s.begun.startup.group = some (g, x) from h.group]
    rfl
  refine (if_pos hdue).trans ?_
  rw [← hop]
  rfl

/-- With another group to test, its test begins at the end of this one; with none, the check ends. -/
inductive GroupFollows (g : Nat) (x : Instant) (bad : Bool) (s u : State) : Prop
  | next (n : Nat) (hn : nextGroup (g + 1) (tested g bad s.begun).pool.retired = some n)
      (h : u = { tested g bad s.begun with
        startup := { (tested g bad s.begun).startup with group := some (n, afterNs x 250000) } })
  | fault (hn : nextGroup (g + 1) (tested g bad s.begun).pool.retired = none)
      (hbad : 4 < (tested g bad s.begun).pool.retired.length)
      (h : u = enterFault { tested g bad s.begun with
        pool := { (tested g bad s.begun).pool with free := cellsWithout (tested g bad s.begun).pool.retired } })
  | loading (hn : nextGroup (g + 1) (tested g bad s.begun).pool.retired = none)
      (hgood : ¬4 < (tested g bad s.begun).pool.retired.length)
      (h : u = enterLoading { tested g bad s.begun with
        pool := { (tested g bad s.begun).pool with free := cellsWithout (tested g bad s.begun).pool.retired } })

theorem groupFollows (g : Nat) (x : Instant) (bad : Bool) (s : State) :
    GroupFollows g x bad s (checkFrom (g + 1) x (tested g bad s.begun)) := by
  cases hn : nextGroup (g + 1) (tested g bad s.begun).pool.retired with
  | some n => exact .next n hn (checkFrom_next hn)
  | none =>
    have hend := checkFrom_end (e := x) hn
    unfold endCheck at hend
    dsimp only at hend
    split at hend
    · next hlt => exact .fault hn hlt hend
    · next hlt => exact .loading hn hlt hend

theorem enterLoading_shape (s : State) :
    ∃ e n, enterLoading s = { s with
        startup := { s.startup with state := .loading, group := none, loadEnds := some e }, freeCount := n }
      ∧ ∀ b, (tget s.store.slots s.startup.straps.slotSel).body = some b →
          e = afterNs s.now ((24 + (16 * b.flows.length + 255) / 256 + 2) * 50000) := by
  refine ⟨_, _, rfl, fun b hb => ?_⟩
  show afterNs s.now (readBlocks (tget s.store.slots s.startup.straps.slotSel) _ * blockReadNs) = _
  unfold readBlocks
  rw [hb]
  rfl

/-- The entry adds to the notice state and to the notices built at most one of this moment. -/
theorem noticeAtEntry_shape (v : State) :
    ∃ n o, noticeAtEntry v = { v with mgmt := { v.mgmt with notice := n }, ev := { v.ev with outbox := o } }
      ∧ ∀ y, y ∈ o → y ∈ v.ev.outbox ∨ y.elapsed = v.nowNs := by
  unfold noticeAtEntry
  split
  · rcases noticeFallsDue_cases v with ⟨_, he⟩ | ⟨_, he⟩ <;> rw [he]
    · refine ⟨_, v.ev.outbox ++ [noticeNow (v.setNotice (noticeCleared v.mgmt.notice))], rfl, fun y hy => ?_⟩
      rcases List.mem_append.1 hy with hold | hnew
      · exact .inl hold
      · rw [List.mem_singleton.1 hnew]
        exact .inr rfl
    · exact ⟨_, v.ev.outbox, rfl, fun _ => .inl⟩
  · exact ⟨v.mgmt.notice, v.ev.outbox, rfl, fun _ => .inl⟩

theorem enterFault_shape (s : State) :
    ∃ n o, enterFault s = { s with
        startup := { s.startup with state := .fault, resetOut := false, group := none }
        mgmt := { s.mgmt with notice := n }, ev := { s.ev with outbox := o } }
      ∧ ∀ y, y ∈ o → y ∈ s.ev.outbox ∨ y.elapsed = s.nowNs :=
  noticeAtEntry_shape (updStartup (fun x => { x with state := .fault, resetOut := false, group := none }) s)

/-- What the test of a group leaves in every case: the retired groups, the condition, and nothing of the rest. -/
theorem GroupFollows.common {g : Nat} {x : Instant} {bad : Bool} {s u t : State} (hst : s.startup.state = .checking)
    (h : GroupFollows g x bad s u) (hdep : Departs u t) :
    (∀ y, y ∈ t.pool.retired ↔ y ∈ s.pool.retired ∨ (bad = true ∧ y = g))
      ∧ t.latch .bufferRetired
          = (if bad = true then (s.latch .bufferRetired).occur s.nowNs (some g) else s.latch .bufferRetired)
      ∧ LatchesKept [.bufferRetired] s t
      ∧ TrafficKept { s with pool := t.pool } t
      ∧ Kept [.startup, .retired, .traffic, .latches, .notice, .locals] s t := by
  obtain ⟨pool, latches, he, hret, _, hother, hbuf⟩ := tested_shape g bad (s := s.begun) hst
  have hmoved : StartupMoved s (tested g bad s.begun) := ⟨_, _, _, _, _, he⟩
  have hu : StartupMoved s u ∧ u.pool.retired = pool.retired ∧ u.mgmt.latches = latches := by
    cases h with
    | next n _ h =>
      rw [h, he]
      exact ⟨⟨_, _, _, _, _, rfl⟩, rfl, rfl⟩
    | loading _ _ h =>
      obtain ⟨e, n, hv, _⟩ := enterLoading_shape { tested g bad s.begun with
        pool := { (tested g bad s.begun).pool with free := cellsWithout (tested g bad s.begun).pool.retired } }
      rw [h, hv, he]
      exact ⟨⟨_, _, _, _, _, rfl⟩, rfl, rfl⟩
    | fault _ _ h =>
      obtain ⟨n, o, hv, _⟩ := enterFault_shape { tested g bad s.begun with
        pool := { (tested g bad s.begun).pool with free := cellsWithout (tested g bad s.begun).pool.retired } }
      rw [h, hv, he]
      exact ⟨⟨_, _, _, _, _, rfl⟩, rfl, rfl⟩
  obtain ⟨hmu, hru, hlu⟩ := hu
  obtain ⟨htraffic, hkept⟩ := groupTested_common hmu hdep
  have hlatch : ∀ c : Cond, c.ofDeparture = false → t.latch c = tget latches c.idx := fun c hc => by
    rw [hdep.latch hc, ← hlu]
    rfl
  refine ⟨fun y => ?_, (hlatch _ rfl).trans hbuf, fun c hc hd => (hlatch c hd).trans (hother c (by simpa using hc)), htraffic, hkept⟩
  rw [show t.pool.retired = u.pool.retired from hdep.1 .retired rfl, hru, hret]
  cases bad with
  | true =>
    refine (insertGroup_mem g s.pool.retired y).trans ?_
    simp [or_comm]
  | false =>
    show y ∈ s.pool.retired ↔ _
    simp

/-- Without a call and without a notice an event is its own step, and offers nothing. -/
theorem localsAre_same {cause : Prop} {s t : State} (hq : t.queues = s.queues) (hp : t.ports = s.ports) :
    LocalsAre cause (fun _ => []) s t := fun p => by
  refine ⟨[], fun _ h => absurd h List.not_mem_nil, fun h => absurd rfl h, ?_, fun f hf => .inl ?_⟩
  · unfold State.localQ
    rw [hq]
    simp
  · unfold sends State.port at hf ⊢
    rw [hp] at hf
    exact hf

/-- The test of the next group that is not retired begins (R174). -/
theorem groupTested_next {g n : Nat} {x : Instant} {bad : Bool} {s u : State} (hst : s.startup.state = .checking)
    (hu : u = { tested g bad s.begun with
      startup := { (tested g bad s.begun).startup with group := some (n, afterNs x 250000) } }) :
    settle u = u ∧ u.startup = { s.startup with group := some (n, afterNs x 250000) }
      ∧ (∀ y, y ∈ u.pool.free ↔ y ∈ s.pool.free ∧ (bad = true → y / 256 ≠ g))
      ∧ u.mgmt.notice = flagged .bufferRetired bad s ∧ LocalsAre (u.startup.state = .fault) (fun _ => []) s u := by
  obtain ⟨pool, latches, he, _, hfree, _, _⟩ := tested_shape g bad (s := s.begun) hst
  rw [he] at hu
  subst hu
  refine ⟨settle_idle rfl, rfl, fun y => ?_, rfl, localsAre_same rfl rfl⟩
  show y ∈ pool.free ↔ _
  rw [hfree]
  cases bad with
  | true =>
    show y ∈ s.pool.free.filter (fun c => c / 256 != g) ↔ _
    simp
  | false =>
    show y ∈ s.pool.free ↔ _
    simp

/-- LOADING begins with every cell of the groups that are not retired, for the blocks of the strapped slot (R15,
R174). -/
theorem groupTested_loading {g : Nat} {bad : Bool} {s u : State} (hst : s.startup.state = .checking)
    (hu : u = enterLoading { tested g bad s.begun with
      pool := { (tested g bad s.begun).pool with free := cellsWithout (tested g bad s.begun).pool.retired } }) :
    settle u = u ∧ u.pool.free = cellsWithout u.pool.retired ∧ u.pool.retired = (tested g bad s.begun).pool.retired
      ∧ (∃ e, u.startup = { s.startup with state := .loading, group := none, loadEnds := some e }
          ∧ ∀ b, (tget s.store.slots s.startup.straps.slotSel).body = some b →
              e = afterNs s.now ((24 + (16 * b.flows.length + 255) / 256 + 2) * 50000))
      ∧ u.mgmt.notice = flagged .bufferRetired bad s ∧ LocalsAre (u.startup.state = .fault) (fun _ => []) s u := by
  obtain ⟨pool, latches, he, _, _, _, _⟩ := tested_shape g bad (s := s.begun) hst
  rw [he] at hu ⊢
  dsimp only at hu ⊢
  generalize hfree : cellsWithout pool.retired = free at hu
  obtain ⟨e, n, hv, hlasts⟩ := enterLoading_shape { s.begun with
    pool := { pool with free }, mgmt := { latches, notice := flagged .bufferRetired bad s.begun } }
  rw [show u = _ from hu.trans hv]
  exact ⟨settle_idle rfl, hfree.symm, rfl, ⟨e, rfl, hlasts⟩, rfl, localsAre_same rfl rfl⟩

/-- More than 4 retired groups mean FAULT (R175). -/
theorem groupTested_fault {g : Nat} {bad : Bool} {s u : State} (hst : s.startup.state = .checking)
    (hu : u = enterFault { tested g bad s.begun with
      pool := { (tested g bad s.begun).pool with free := cellsWithout (tested g bad s.begun).pool.retired } }) :
    u.startup = { s.startup with state := .fault, resetOut := false, group := none }
      ∧ u.pool.free = cellsWithout u.pool.retired ∧ u.pool.retired = (tested g bad s.begun).pool.retired
      ∧ NoticeAtEntry (flagged .bufferRetired bad s) s (settle u) ∧ LocalsAre True (fun _ => []) s (settle u) := by
  obtain ⟨pool, latches, he, _, _, _, _⟩ := tested_shape g bad (s := s.begun) hst
  rw [he] at hu ⊢
  dsimp only at hu ⊢
  generalize hfree : cellsWithout pool.retired = free at hu
  let w : State := { s.begun with
    pool := { pool with free }, mgmt := { latches, notice := flagged .bufferRetired bad s } }
  have hw : u = enterFault w := hu
  have hentry : NoticeAtEntry (flagged .bufferRetired bad s) s (settle (enterFault w)) :=
    noticeAtEntry_settle (v := updStartup (fun x => { x with state := .fault, resetOut := false, group := none }) w) rfl rfl
      rfl (flagged_counts _ _ _) fun _ => rfl
  obtain ⟨n, o, hn, ho⟩ := enterFault_shape w
  rw [← hw] at hentry
  have hlocals : LocalsAre True (fun _ => []) s (settle u) := by
    rw [show u = _ from hw.trans hn]
    exact localsAre_settle rfl (fun p => (List.append_nil _).symm) (fun _ => rfl)
      fun y hy => (ho y hy).resolve_left List.not_mem_nil
  refine ⟨?_, ?_, ?_, hentry, hlocals⟩
  · rw [show u = _ from hw.trans hn]
  · rw [show u = _ from hw.trans hn]
    exact hfree.symm
  · rw [show u = _ from hw.trans hn]

/-- The clause of O52 on a group's test: by what follows it. -/
theorem bufferGroupTested_due {g : Nat} {x : Instant} {s : State} (h : GroupTested g x s) (bad : Bool) :
    ∃ t, exec (.bufferGroupTested bad) s = .next t
      ∧ (∀ y, y ∈ t.pool.retired ↔ y ∈ s.pool.retired ∨ (bad = true ∧ y = g))
      ∧ t.latch .bufferRetired
          = (if bad = true then (s.latch .bufferRetired).occur s.nowNs (some g) else s.latch .bufferRetired)
      ∧ LatchesKept [.bufferRetired] s t
      ∧ (∀ n, g < n → n < 32 → n ∉ s.pool.retired → (∀ m, g < m → m < n → m ∈ s.pool.retired) →
          t.startup = { s.startup with group := some (n, afterNs x 250000) }
          ∧ (∀ y, y ∈ t.pool.free ↔ y ∈ s.pool.free ∧ (bad = true → y / 256 ≠ g))
          ∧ t.mgmt.notice = flagged .bufferRetired bad s)
      ∧ ((∀ n, g < n → n < 32 → n ∈ s.pool.retired) →
          (∀ y, y < 8192 → y / 256 ∉ t.pool.retired → y ∈ t.pool.free)
          ∧ (if 4 < t.pool.retired.length then
              t.startup = { s.startup with state := .fault, resetOut := false, group := none }
              ∧ NoticeAtEntry (flagged .bufferRetired bad s) s t
             else
              (∃ e, t.startup = { s.startup with state := .loading, group := none, loadEnds := some e }
                ∧ ∀ b, (tget s.store.slots s.startup.straps.slotSel).body = some b →
                    e = afterNs s.now ((24 + (16 * b.flows.length + 255) / 256 + 2) * 50000))
              ∧ (∀ y, y ∈ t.pool.free → y < 8192 ∧ y / 256 ∉ t.pool.retired)
              ∧ t.mgmt.notice = flagged .bufferRetired bad s))
      ∧ TrafficKept { s with pool := t.pool } t
      ∧ LocalsAre (t.startup.state = .fault) (fun _ => []) s t
      ∧ Kept [.startup, .retired, .traffic, .latches, .notice, .locals] s t := by
  have hfollows := groupFollows g x bad s
  obtain ⟨hret, hlatch, hlatches, htraffic, hkept⟩ := hfollows.common h.checking (settle_departs _)
  have hretired : ∀ y, y ∈ (tested g bad s.begun).pool.retired ↔ y ∈ s.pool.retired ∨ (bad = true ∧ y = g) := by
    obtain ⟨pool, latches, he, hr, _⟩ := tested_shape g bad (s := s.begun) h.checking
    intro y
    rw [he]
    show y ∈ pool.retired ↔ _
    rw [hr]
    cases bad with
    | true =>
      refine (insertGroup_mem g s.pool.retired y).trans ?_
      simp [or_comm]
    | false =>
      show y ∈ s.pool.retired ↔ _
      simp
  have hnext : ∀ n, g < n → n < 32 → n ∉ s.pool.retired → (∀ m, g < m → m < n → m ∈ s.pool.retired) →
      nextGroup (g + 1) (tested g bad s.begun).pool.retired = some n := fun n hg hn hr hfirst =>
    nextGroup_some hg hn (fun hm => ((hretired n).1 hm).elim hr fun ⟨_, he⟩ => by omega)
      fun m h1 h2 => (hretired m).2 (.inl (hfirst m h1 h2))
  have hnone : (∀ n, g < n → n < 32 → n ∈ s.pool.retired) →
      nextGroup (g + 1) (tested g bad s.begun).pool.retired = none := fun hall =>
    nextGroup_none fun m h1 h2 => (hretired m).2 (.inl (hall m h1 h2))
  refine ⟨_, h.exec bad, hret, hlatch, hlatches, ?_⟩
  generalize checkFrom (g + 1) x (tested g bad s.begun) = u at hfollows htraffic hkept
  cases hfollows with
  | next n hn hu =>
    obtain ⟨hsame, hstart, hfree, hnotice, hlocals⟩ := groupTested_next h.checking hu
    rw [hsame] at htraffic hkept ⊢
    refine ⟨fun k h1 h2 h3 h4 => ?_, fun hall => ?_, htraffic, hlocals, hkept⟩
    · rw [hnext k h1 h2 h3 h4] at hn
      cases hn
      exact ⟨hstart, hfree, hnotice⟩
    · rw [hnone hall] at hn
      cases hn
  | fault hn hbad hu =>
    obtain ⟨hstart, hfree, hsame, hentry, hlocals⟩ := groupTested_fault h.checking hu
    have hdep := settle_departs u
    have hst : (settle u).startup = u.startup := hdep.1 .startup rfl
    have hrt : (settle u).pool.retired = u.pool.retired := hdep.1 .retired rfl
    refine ⟨fun k h1 h2 h3 h4 => ?_, fun _ => ⟨fun y hy hr => ?_, ?_⟩, htraffic, fun p => ?_, hkept⟩
    · rw [hnext k h1 h2 h3 h4] at hn
      cases hn
    · refine hdep.2.free y ?_
      rw [hfree]
      exact (mem_cellsWithout _ _).2 ⟨hy, by rw [← hrt]; exact hr⟩
    · rw [if_pos (by rw [hrt, hsame]; exact hbad)]
      exact ⟨hst.trans hstart, hentry⟩
    · obtain ⟨ns, h1, _, h3, h4⟩ := hlocals p
      exact ⟨ns, h1, fun _ => by rw [hst, hstart], h3, h4⟩
  | loading hn hgood hu =>
    obtain ⟨hsettled, hfree, hsame, hstart, hnotice, hlocals⟩ := groupTested_loading h.checking hu
    rw [hsettled] at htraffic hkept ⊢
    refine ⟨fun k h1 h2 h3 h4 => ?_, fun _ => ⟨fun y hy hr => ?_, ?_⟩, htraffic, hlocals, hkept⟩
    · rw [hnext k h1 h2 h3 h4] at hn
      cases hn
    · rw [hfree]
      exact (mem_cellsWithout _ _).2 ⟨hy, hr⟩
    · rw [if_neg (by rw [hsame]; exact hgood)]
      exact ⟨hstart, fun y hy => (mem_cellsWithout _ _).1 (hfree ▸ hy), hnotice⟩

end Sys2Proof.Machine
end

section
/-!
PROOF. Start-up: the entry into RUNNING (R82, R165, R172, R174): O52.
-/

namespace Sys2Proof.Machine

/-! ## A notice built in an event that calls arbiters (R165, R166) -/

/-- Offers of copies touch the local queues, the calls and the count of refusals. -/
theorem foldl_offerCopy_notice (n : Notice) (ps : List Port) (s : State) :
    (ps.foldl (offerCopy n) s).mgmt = { s.mgmt with notice := { s.mgmt.notice with
        refused := (ps.foldl (offerCopy n) s).mgmt.notice.refused } }
      ∧ (ps.foldl (offerCopy n) s).ev.outbox = s.ev.outbox := by
  induction ps generalizing s with
  | nil => exact ⟨rfl, rfl⟩
  | cons p ps ih =>
    have hone : (offerCopy n s p).mgmt = { s.mgmt with notice := { s.mgmt.notice with
          refused := (offerCopy n s p).mgmt.notice.refused } }
        ∧ (offerCopy n s p).ev.outbox = s.ev.outbox := by
      unfold offerCopy offerLocal
      split
      · split
        · next h =>
          split at h
          · cases h; exact ⟨rfl, rfl⟩
          · cases h
        · next h =>
          split at h
          · cases h
          · cases h; exact ⟨rfl, rfl⟩
      · exact ⟨rfl, rfl⟩
    obtain ⟨h1, h2⟩ := hone
    obtain ⟨k1, k2⟩ := ih (offerCopy n s p)
    rw [List.foldl_cons]
    refine ⟨?_, k2.trans h2⟩
    rw [k1]
    rw [h1]

/-- The end of an event that built one notice, and after which no condition has newly latched: each destination with
room has its copy, every other refusal is counted, and no other notice is built. -/
theorem settle_offers {u : State} {n : Notice} (ho : u.ev.outbox = [n]) (hq : ¬newlyLatched u (settle u)) :
    (settle u).mgmt.notice = { u.mgmt.notice with
        refused := u.mgmt.notice.refused + BitVec.ofNat 32 (Port.list.filter (refusesCopy u)).length }
      ∧ ∀ p, (u.cfg.ports.get p).noticeDest = true → localRoom u p = true →
          LocalFrame.notice n ∈ (settle u).localQ p ∨ sends (settle u) p (.store (.notice n)) := by
  have hoffer : offerNotices u = offerCopies n { u with ev := { u.ev with outbox := [] } } := by
    unfold offerNotices; rw [ho, List.foldl_cons, List.foldl_nil]
  obtain ⟨hcopies, hrefused⟩ := offerCopies_shape n { u with ev := { u.ev with outbox := [] } }
  obtain ⟨hmgmt, hbox⟩ := foldl_offerCopy_notice n Port.list { u with ev := { u.ev with outbox := [] } }
  rw [← offerCopies_eq, ← hoffer] at hmgmt hbox
  rw [← hoffer] at hcopies hrefused
  have hround : settleRounds 64 u = settleRounds 63 (offerNotices u) := settleRounds_offer 63 (by rw [ho]; rfl)
  have htold := told_settleRounds 63 (offerNotices u)
  have hdep := settleRounds_departs 63 (offerNotices u)
  rw [← hround] at htold hdep
  have hquiet : ¬newlyLatched (offerNotices u) (settleRounds 64 u) := fun ⟨c, h1, h2⟩ => hq ⟨c, by
    unfold State.latch at h1 ⊢
    rw [hmgmt] at h1
    exact h1, h2⟩
  refine ⟨?_, fun p hd hr => hdep.answered (hcopies p hd hr)⟩
  show (settleRounds 64 u).mgmt.notice = _
  rw [(htold.notice hquiet hbox).1, hmgmt]
  dsimp only
  rw [hrefused]
  rfl

/-- A notice that falls due as the last act of an event's own step, where no latch changes after it (R165). -/
theorem fallsDue_calls {s r : State} (ho : r.ev.outbox = []) (hnow : r.nowNs = s.nowNs)
    (hcounts : r.mgmt.notice.built = s.mgmt.notice.built ∧ r.mgmt.notice.refused = s.mgmt.notice.refused
      ∧ r.mgmt.notice.last = s.mgmt.notice.last)
    (hroom : ∀ p, localRoom r p = (decide (s.placesTaken p + 0 < 16) && (s.port p).linkUp))
    (hlatch : ∀ c, (settle (noticeFallsDue r)).latch c = r.latch c) :
    FallsDue (fun _ => 0) s (settle (noticeFallsDue r)) := by
  obtain ⟨hbuilt, hrefused, hlast⟩ := hcounts
  obtain ⟨x, o, he⟩ := noticeFallsDue_shape r
  have hdep := settle_departs (noticeFallsDue r)
  have htold : Told (noticeFallsDue r) (settleRounds 64 (noticeFallsDue r)) := told_settleRounds 64 _
  have hulatch : ∀ c, (noticeFallsDue r).latch c = r.latch c := fun c => by rw [he]; rfl
  have hquiet : ¬newlyLatched (noticeFallsDue r) (settle (noticeFallsDue r)) := fun ⟨c, h1, h2⟩ => by
    rw [hulatch] at h1
    rw [hlatch, h1] at h2
    exact nomatch h2
  have hcfg : (settle (noticeFallsDue r)).cfg = r.cfg := (hdep.1 .config rfl : _ = _).trans (by rw [he])
  have hlevel : ∀ c, (settle (noticeFallsDue r)).level c = r.level c := fun c => by unfold State.level; rw [hcfg]
  rcases noticeFallsDue_cases r with ⟨⟨c, h1, h2, h3⟩, hu⟩ | ⟨hnone, hu⟩
  · refine ⟨fun _ => ?_, fun hall => ?_⟩
    · have hbox : (noticeFallsDue r).ev.outbox = [noticeNow (r.setNotice (noticeCleared r.mgmt.notice))] := by
        rw [hu]
        show r.ev.outbox ++ [_] = _
        rw [ho]; rfl
      obtain ⟨hnotice, hcopies⟩ := settle_offers hbox hquiet
      have hucfg : (noticeFallsDue r).cfg = r.cfg := by rw [he]
      have huroom : ∀ p, localRoom (noticeFallsDue r) p = (decide (s.placesTaken p + 0 < 16) && (s.port p).linkUp) :=
        fun p => by rw [he]; exact hroom p
      have hstore : (settle (noticeFallsDue r)).store = r.store := (hdep.1 .store rfl : _ = _).trans (by rw [he])
      have htime : (settle (noticeFallsDue r)).time = r.time := (hdep.1 .time rfl : _ = _).trans (by rw [he])
      have hlinks : (settle (noticeFallsDue r)).links = r.links := (hdep.1 .links rfl : _ = _).trans (by rw [he])
      have hshare : (settle (noticeFallsDue r)).share = r.share := (hdep.1 .share rfl : _ = _).trans (by rw [he])
      rw [hucfg] at hcopies
      refine ⟨noticeNow (r.setNotice (noticeCleared r.mgmt.notice)), ?_, ?_, ?_, ?_, hnow, ?_, fun l => ?_, fun k => ?_,
        reportable_sorted _, fun p hd hup hp => ?_, ?_⟩
      · rw [hcfg]; rfl
      · rw [hstore]; rfl
      · rw [hstore]; rfl
      · rw [htime]; rfl
      · rw [hshare]; rfl
      · unfold State.link
        rw [hlinks]
        cases l <;> exact ⟨rfl, rfl, rfl, rfl⟩
      · have hrec := latchRecord_mem_reportable (r.setNotice (noticeCleared r.mgmt.notice)) k
        rw [hlatch, hlevel]
        exact hrec
      · rw [hcfg] at hd
        exact hcopies p hd (by rw [huroom, hup, decide_eq_true hp]; rfl)
      · have hrefuse : refusesCopy (noticeFallsDue r) = fun p => (r.cfg.ports.get p).noticeDest
            && !(decide (s.placesTaken p + 0 < 16) && (s.port p).linkUp) :=
          funext fun p => by unfold refusesCopy; rw [huroom, hucfg]
        rw [hnotice, hrefuse, hcfg, hu]
        show NoticeState.mk (some r.nowNs) false none (r.mgmt.notice.built + 1) (r.mgmt.notice.refused + _) = _
        rw [hnow, hbuilt, hrefused]
    · have h0 := hall c (by rw [hlatch]; exact h1)
      rw [hlevel] at h0
      omega
  · refine ⟨fun ⟨c, h1, h2, h3⟩ => ?_, fun _ => ?_⟩
    · rw [hlatch] at h1
      rw [hlevel] at h2 h3
      exact absurd h3 (hnone c h1 h2)
    · have hbox : (noticeFallsDue r).ev.outbox = [] := by rw [hu]; exact ho
      show (settleRounds 64 (noticeFallsDue r)).mgmt.notice = _
      rw [(htold.notice hquiet hbox).1, hu]
      show NoticeState.mk r.mgmt.notice.last false none r.mgmt.notice.built r.mgmt.notice.refused = _
      rw [hbuilt, hrefused, hlast]
      rfl

/-! ## The entry into RUNNING (R174) -/

/-- The state in which the notice of the entry into RUNNING is judged. -/
def computedEntry (v : State) : State :=
  startWindow (recompute (updStartup (fun x => { x with state := .running, resetOut := false, loadEnds := none }) v))

theorem enterRunning_eq (v : State) : enterRunning v = noticeAtEntry (computedEntry v) := rfl

/-- What the entry computes and starts. -/
theorem computedEntry_controls (v : State) :
    Controls (computed ++ [.startup]) [.capacityChanged] [] v (computedEntry v) := by
  let w := updStartup (fun x => { x with state := .running, resetOut := false, loadEnds := none }) v
  have hw : Controls (computed ++ [.startup]) [.capacityChanged] [] v w :=
    (controls_startup v _).mono (by simp) (by simp) (by simp)
  have hr : Controls (computed ++ [.startup]) [.capacityChanged] [] w (recompute w) :=
    (controls_recompute w).mono (by simp +contextual) (by simp) (by simp)
  have hs : Controls [.share] [] [] (recompute w) (startWindow (recompute w)) :=
    .plain (share_steady (recompute w) _) rfl rfl rfl rfl
  exact (hw.trans hr).trans (hs.mono (by simp [computed]) (by simp) (by simp))

theorem computedEntry_shape (v : State) :
    ∃ d e x tenants table, computedEntry v = { v with
        startup := { v.startup with state := .running, resetOut := false, loadEnds := none }
        share := { v.share with
          table, window := some { lengthMs := v.cfg.params.windowMs, ends := afterMs v.now v.cfg.params.windowMs } }
        tenants, sched := d, ev := e, mgmt := x } := by
  obtain ⟨d, e, x, h, _⟩ := recompute_shape
    (updStartup (fun x => { x with state := .running, resetOut := false, loadEnds := none }) v)
  exact ⟨d, e, x, _, _, (congrArg startWindow h).trans rfl⟩

theorem computedEntry_computed (v : State) : Computed (computedEntry v) := by
  unfold computedEntry
  generalize updStartup (fun x => { x with state := .running, resetOut := false, loadEnds := none }) v = w
  exact (recompute_computed w).of_kept (share_steady (recompute w) _) (.plain rfl rfl rfl) ⟨rfl, rfl⟩ rfl

/-- With the U that the table held there is no new latching. -/
theorem computedEntry_latch {v : State} (h : (computedEntry v).share.table.u = v.share.table.u) (c : Cond) :
    (computedEntry v).latch c = v.latch c := by
  let w := updStartup (fun x => { x with state := .running, resetOut := false, loadEnds := none }) v
  obtain ⟨d, e, x, hshape, _, _, _, _, hother, hcap⟩ := recompute_shape w
  have htable : (computedEntry v).share.table = computeTable w := by
    show (recompute w).share.table = _
    rw [hshape]
  show (recompute w).latch c = _
  by_cases hc : c = .capacityChanged
  · subst hc
    rw [hcap, if_pos (by rw [← htable]; exact h)]
    rfl
  · exact hother c hc

/-- The state in which start-up enters RUNNING: nothing was told or moved but a new latching's flag. -/
structure Entering (s v : State) : Prop where
  told : Told s.begun v
  outbox : v.ev.outbox = []
  counts : v.mgmt.notice.built = s.mgmt.notice.built ∧ v.mgmt.notice.refused = s.mgmt.notice.refused
    ∧ v.mgmt.notice.last = s.mgmt.notice.last
  startup : v.startup = s.startup
  time : v.time = s.time
  queues : v.queues = s.queues
  ports : v.ports = s.ports
  table : v.share.table = s.share.table
  departures : ∀ c : Cond, c.ofDeparture = true → v.latch c = s.latch c

theorem noticeAtEntry_steady (v : State) : Steady [] v (noticeAtEntry v) := by
  unfold noticeAtEntry
  split
  · exact noticeFallsDue_steady v
  · exact Steady.refl _ _

/-- The notices that the entry builds, or a condition newly latched in its event, are what it tells (R17, R166). -/
theorem enterRunning_locals {s v : State} (h : Entering s v) :
    LocalsAre (newlyLatched s (settle (enterRunning v)) ∨ s.mgmt.notice.pending = true) (fun _ => []) s
      (settle (enterRunning v)) := by
  have hentry := computedEntry_controls v
  have htold : Told s.begun (computedEntry v) := h.told.trans hentry.told
  obtain ⟨d, e, x, tenants, table, hshape⟩ := computedEntry_shape v
  obtain ⟨n, o, hu, ho⟩ := noticeAtEntry_shape (computedEntry v)
  have hlatch : ∀ c, (enterRunning v).latch c = (computedEntry v).latch c := fun c => by
    rw [enterRunning_eq, hu]
    rfl
  have hrounds := told_settleRounds 64 (enterRunning v)
  have hbefore : newlyLatched s (computedEntry v) → newlyLatched s (settle (enterRunning v)) := fun ⟨c, hno, hyes⟩ =>
    ⟨c, hno, hrounds.up c (by rw [hlatch]; exact hyes)⟩
  have hafter : newlyLatched (enterRunning v) (settle (enterRunning v)) → newlyLatched s (settle (enterRunning v)) :=
    fun ⟨c, hno, hyes⟩ => newlyLatched.right (s := s.begun) htold ⟨c, by rw [← hlatch]; exact hno, hyes⟩
  have hsilent : ¬(newlyLatched s (settle (enterRunning v)) ∨ s.mgmt.notice.pending = true) →
      (enterRunning v).ev.outbox = [] := fun hno => by
    obtain ⟨hnotice, hbox⟩ := htold.notice (fun hnew => hno (.inl (hbefore hnew))) rfl
    have hpending : ¬(computedEntry v).mgmt.notice.pending = true := fun hp => hno (.inr (by rw [hnotice] at hp; exact hp))
    rw [enterRunning_eq, show noticeAtEntry (computedEntry v) = computedEntry v from if_neg hpending]
    exact hbox
  intro p
  obtain ⟨ns, hnew, hcause, hsuffix, hsends⟩ := hrounds.frames p
  have hlocalQ : (enterRunning v).localQ p = s.localQ p := by
    rw [enterRunning_eq, hu, hshape]
    show v.queues.locals.get p = _
    rw [h.queues]
    rfl
  have htx : ∀ f, sends (enterRunning v) p (.store f) → sends s p (.store f) := fun f hf => by
    rw [enterRunning_eq, hu, hshape] at hf
    obtain ⟨y, hy, hi⟩ := hf
    refine ⟨y, ?_, hi⟩
    change (v.ports.get p).tx = some y at hy
    rw [h.ports] at hy
    exact hy
  have hnow : (computedEntry v).nowNs = s.nowNs := htold.now
  rw [hlocalQ] at hsuffix hsends
  refine ⟨ns, fun n hn => ?_, fun hne => ?_, by rw [List.append_nil]; exact hsuffix, fun f hf => ?_⟩
  · rcases hnew n hn with hmem | hnow'
    · rw [enterRunning_eq, hu] at hmem
      rcases ho n hmem with hold | hbuilt
      · exact (htold.outbox n hold).resolve_left List.not_mem_nil
      · exact hbuilt.trans hnow
    · rw [hnow', enterRunning_eq, hu]
      exact hnow
  · by_contra hno
    rcases hcause hne with hl | hbox
    · exact hno (.inl (hafter hl))
    · exact hbox (hsilent hno)
  · rcases hsends f hf with hs | hm
    · exact .inl (htx f hs)
    · exact .inr (by simpa using hm)

/-- What the event of the entry leaves, of a state in which it enters. -/
theorem enterRunning_settled {w : List Part} {ls : List Cond} {s v : State} (h : Entering s v) (hs : Steady w s.begun v)
    (hl : ∀ c, c ∉ ls → v.latch c = s.latch c) (hup : Part.linkUp ∉ w := by decide) :
    let t := settle (enterRunning v)
    t.startup = { s.startup with state := .running, resetOut := false, loadEnds := none } ∧ Computed t
      ∧ t.share = { v.share with
          table := t.share.table
          window := some { lengthMs := t.cfg.params.windowMs, ends := afterMs s.now t.cfg.params.windowMs } }
      ∧ t.cfg = v.cfg ∧ t.links = v.links ∧ t.flows.map withoutLastLink = v.flows.map withoutLastLink
      ∧ (∀ l, (t.bucket (.pacing l)).rate = (v.bucket (.pacing l)).rate)
      ∧ (∀ c : Cond, c.ofDeparture = false → c ≠ .capacityChanged → t.latch c = v.latch c)
      ∧ LatchesKept (.capacityChanged :: ls) s t
      ∧ (t.share.table.u = s.share.table.u → (∀ c : Cond, c.ofDeparture = true → t.latch c = s.latch c) →
          NoticeAtEntry v.mgmt.notice s t)
      ∧ Kept (computed ++ ([.startup, .notice, .locals] ++ w)) s t := by
  intro t
  have hctl := computedEntry_controls v
  have hsteady := noticeAtEntry_steady (computedEntry v)
  have hdep : Departs (enterRunning v) t := settle_departs _
  obtain ⟨d, e, x, tenants, table, hshape⟩ := computedEntry_shape v
  obtain ⟨n, o, hu, _⟩ := noticeAtEntry_shape (computedEntry v)
  have hstate : enterRunning v = { v with
      startup := { v.startup with state := .running, resetOut := false, loadEnds := none }
      share := { v.share with
        table, window := some { lengthMs := v.cfg.params.windowMs, ends := afterMs v.now v.cfg.params.windowMs } }
      tenants, sched := d, ev := { e with outbox := o }, mgmt := { x with notice := n } } := by
    rw [enterRunning_eq, hu, hshape]
  have hcfg : t.cfg = v.cfg := (hdep.1 .config rfl : _ = _).trans (by rw [hstate])
  have hshare : t.share = (enterRunning v).share := hdep.1 .share rfl
  have hlatch : ∀ c, (enterRunning v).latch c = (computedEntry v).latch c := fun c => by
    rw [enterRunning_eq, hu]
    rfl
  have hown : ∀ c : Cond, c.ofDeparture = false → c ≠ .capacityChanged → t.latch c = v.latch c := fun c hc hne =>
    (hdep.latch hc).trans ((hlatch c).trans (hctl.latches c (by simpa using hne)))
  refine ⟨?_, ?_, ?_, hcfg, ?_, ?_, fun l => ?_, hown, fun c hc hd => ?_, fun hsame hquiet => ?_, ?_⟩
  · rw [show t.startup = _ from hdep.1 .startup rfl, hstate, ← h.startup]
  · refine Computed.departs ?_ hdep
    rw [enterRunning_eq]
    exact (computedEntry_computed v).of_kept hsteady (by rw [hu]; exact .plain rfl rfl rfl) (by rw [hu]; exact ⟨rfl, rfl⟩)
      (by rw [hu])
  · have hnow : v.now = s.now := congrArg TimeUnit.elapsed h.time
    rw [hcfg, hshare, hstate, hnow]
  · exact (hdep.1 .links rfl : _ = _).trans (by rw [hstate])
  · exact (hdep.1 .flows rfl : _ = _).trans (by rw [hstate])
  · refine ((hdep.1 .rates rfl : ∀ b, _) (.pacing l)).1.trans ?_
    rw [enterRunning_eq]
    refine ((hsteady.kept .rates (by decide) rfl : ∀ b, _) (.pacing l)).1.trans ?_
    exact hctl.rates _ rfl (by simp)
  · rw [List.mem_cons, not_or] at hc
    exact (hown c hd hc.1).trans (hl c hc.2)
  · have htable : (computedEntry v).share.table.u = v.share.table.u := by
      rw [h.table, ← hsame, hshare, enterRunning_eq, hu]
    have hsteadylatch := computedEntry_latch htable
    have hall : ∀ c, t.latch c = (computedEntry v).latch c := fun c => by
      cases hc : c.ofDeparture with
      | false => exact (hdep.latch hc).trans (hlatch c)
      | true => rw [hquiet c hc, hsteadylatch, h.departures c hc]
    have hquietEntry : ¬newlyLatched v (computedEntry v) := fun ⟨c, hno, hyes⟩ => by
      rw [hsteadylatch, hno] at hyes
      exact nomatch hyes
    obtain ⟨hnotice, hbox⟩ := hctl.told.notice hquietEntry h.outbox
    have hnow : (computedEntry v).nowNs = s.nowNs := (h.told.trans hctl.told).now
    have hroom : ∀ p, localRoom (computedEntry v) p = (decide (s.placesTaken p + 0 < 16) && (s.port p).linkUp) := fun p => by
      rw [hshape]
      unfold localRoom State.placesTaken State.sendingPlace State.localQ State.port
      rw [h.queues, h.ports, Nat.add_zero]
    have hpending : (computedEntry v).mgmt.notice.pending = v.mgmt.notice.pending := by rw [hnotice]
    unfold NoticeAtEntry
    by_cases hp : v.mgmt.notice.pending = true
    · rw [if_pos hp]
      have hfalls : enterRunning v = noticeFallsDue (computedEntry v) := if_pos (hpending.trans hp)
      have hall' : ∀ c, (settle (noticeFallsDue (computedEntry v))).latch c = (computedEntry v).latch c := by
        rw [← hfalls]
        exact hall
      show FallsDue (fun _ => 0) s (settle (enterRunning v))
      rw [hfalls]
      exact fallsDue_calls hbox hnow (by rw [hnotice]; exact h.counts) hroom hall'
    · rw [if_neg hp]
      have hstays : enterRunning v = computedEntry v := if_neg fun hx => hp (hpending.symm.trans hx)
      have hrounds : Told (computedEntry v) (settleRounds 64 (computedEntry v)) := told_settleRounds 64 _
      show (settle (enterRunning v)).mgmt.notice = _
      have hall' : ∀ c, (settle (computedEntry v)).latch c = (computedEntry v).latch c := fun c =>
        (congrArg (fun u => (settle u).latch c) hstays).symm.trans (hall c)
      rw [hstays, ← hnotice]
      refine (hrounds.notice (fun ⟨c, hno, hyes⟩ => ?_) hbox).1
      rw [show (settleRounds 64 (computedEntry v)).latch c = (computedEntry v).latch c from hall' c, hno] at hyes
      exact nomatch hyes
  · have hall : Steady (computed ++ [.startup] ++ w) s (enterRunning v) := by
      rw [enterRunning_eq]
      exact (((ev_steady s noWork).mono (by simp)).trans (hs.mono (by simp +contextual))).trans
        ((hctl.steady.mono (by
          intro a ha
          exact List.mem_append_left _ ha)).trans (hsteady.mono (by simp)))
    have hkept := hall.departs hdep (by simp [computed, hup])
    exact hkept.mono (by
      intro a ha
      simp only [List.mem_cons, List.mem_append, List.not_mem_nil, or_false] at ha ⊢
      tauto)

/-! ## The classes of the strapped slot (R88, R172, R174) -/

/-- What start-up makes of a slot that it loads. -/
theorem startupLoad_spec (b : SlotBody) (s : State) :
    let v := startupLoad b s.begun
    Entering s v ∧ Steady [.config, .flows, .rates, .reflect, .share] s.begun v ∧ v.cfg = b.classes
      ∧ v.flows = loadedFlows b.flows ∧ v.mgmt = s.mgmt
      ∧ (∀ l, v.share.reflectPresent.get l = shown l v.flows)
      ∧ ∀ l, (v.bucket (.pacing l)).rate = v.el l := by
  intro v
  have hr := replaced_classes b s.begun
  obtain ⟨d, e, hshape⟩ := hr.shape
  let r := replaceClasses b s.begun
  obtain ⟨d0, e0, h0, hrate0, _⟩ := setRate_shape (.pacing .l0) (r.el .l0) r
  let r0 := setRate (.pacing .l0) (r.el .l0) r
  obtain ⟨d1, e1, h1, hrate1, _⟩ := setRate_shape (.pacing .l1) (r.el .l1) r0
  let r1 := setRate (.pacing .l1) (r.el .l1) r0
  have hr1 : r1 = { s.begun with cfg := b.classes, flows := loadedFlows b.flows, sched := d1, ev := e1 } := by
    rw [show r1 = _ from h1, show r0 = _ from h0, show r = _ from hshape]
  have hv : v = { r1 with share := { r1.share with
      reflectPresent := ⟨decide (0 < reflectCount .l0 r1.flows), decide (0 < reflectCount .l1 r1.flows)⟩ } } := rfl
  have htold : Told s.begun v := by
    have hshare : Told r1 v := told_quiet rfl rfl rfl rfl rfl
    exact ((hr.told.trans (told_setRate _ _ _)).trans (told_setRate _ _ _)).trans hshare
  have hsteady : Steady [.config, .flows, .rates, .reflect, .share] s.begun v :=
    (((hr.steady.mono (by simp +contextual)).trans ((setRate_steady' _ _ _).mono (by simp))).trans
      ((setRate_steady' _ _ _).mono (by simp))).trans ((share_steady r1 _).mono (by simp))
  have hmgmt : v.mgmt = s.mgmt := by rw [hv, hr1]
  have hel : ∀ l, v.el l = r.el l := fun l =>
    (el_congr (by rw [hv, hr1, show r = _ from hshape]) (by rw [hv, hr1, show r = _ from hshape]) l).1
  refine ⟨⟨htold, ?_, by rw [hmgmt]; exact ⟨rfl, rfl, rfl⟩, by rw [hv, hr1], by rw [hv, hr1], by rw [hv, hr1], by rw [hv, hr1],
    by rw [hv, hr1], fun c _ => by unfold State.latch; rw [hmgmt]⟩, hsteady, by rw [hv, hr1], by rw [hv, hr1], hmgmt,
    fun l => by cases l <;> rfl, fun l => ?_⟩
  · refine (htold.notice (fun ⟨c, hno, hyes⟩ => ?_) rfl).2
    unfold State.latch at hno hyes
    rw [hmgmt] at hyes
    rw [show (tget s.mgmt.latches c.idx).latched = _ from hno] at hyes
    exact nomatch hyes
  · rw [hel]
    show (r1.bucket (.pacing l)).rate = _
    cases l with
    | l0 => rw [hrate1, if_neg (by simp)]; exact (hrate0 _).trans (if_pos rfl)
    | l1 => exact (hrate1 _).trans (if_pos rfl)

/-- A slot that does not load raises STORE_INVALID in LOADING, where a new latching sets the pending flag (R165, R172). -/
theorem storeInvalid_spec {s : State} (hst : s.startup.state = .loading) :
    let v := raise .storeInvalid none s.begun
    Entering s v ∧ Steady [.latches] s.begun v ∧ v.mgmt.notice = flagged .storeInvalid true s := by
  intro v
  have hnotice : v.mgmt.notice = flagged .storeInvalid true s ∧ v.ev = noWork := by
    unfold flagged
    by_cases hnew : (s.latch .storeInvalid).latched = false ∧ 1 ≤ s.level .storeInvalid
    · rw [if_pos ⟨rfl, hnew⟩]
      have hv := (raise_judges (s := s.begun) none hnew.1 hnew.2).trans
        (judgeLatching_starting (s := latchSet .storeInvalid none s.begun) (.inr hst))
      rw [show v = _ from hv]
      exact ⟨rfl, rfl⟩
    · rw [if_neg fun h => hnew h.2]
      have hsilent := raise_silent (s := s.begun) (c := .storeInvalid) none (by
        rw [not_and_or] at hnew
        exact hnew.imp (fun h => Bool.eq_true_of_not_eq_false h) fun h => Nat.lt_one_iff.1 (Nat.lt_of_not_le h))
      rw [show v = _ from hsilent]
      exact ⟨rfl, rfl⟩
  obtain ⟨hnotice, hev⟩ := hnotice
  obtain ⟨x, e, hshape⟩ := raise_shape .storeInvalid none s.begun
  refine ⟨⟨told_raise _ _ _, by rw [hev]; rfl, by rw [hnotice]; exact flagged_counts _ _ _, ?_, ?_, ?_, ?_, ?_, fun c hc =>
    raise_latch_other _ c none s.begun (by rintro rfl; exact nomatch hc)⟩, raise_steady _ _ _, hnotice⟩
  all_goals rw [show v = _ from hshape] <;> rfl

/-! ## The end of LOADING (R174) -/

/-- A slot loads when it is VALID and its body keeps the share-sum law (R172). -/
theorem loadable_iff {s : State} {k : Fin 4} {b : SlotBody} :
    loadable s k = some b ↔ slotReport s.store k = .valid ∧ (tget s.store.slots k).body = some b
      ∧ shareLaw b.classes.tenants b.classes.sets = true := by
  unfold loadable
  constructor
  · intro h
    split at h
    · next hvalid =>
      split at h
      · next b' hbody =>
        split at h
        · next hlaw => cases h; exact ⟨hvalid, hbody, hlaw⟩
        · cases h
      · cases h
    · cases h
  · rintro ⟨hvalid, hbody, hlaw⟩
    rw [if_pos hvalid, hbody]
    exact if_pos hlaw

/-- The clause of O52 on the end of LOADING: a slot that loads, and one that does not. -/
theorem startupSlotLoaded_due {s : State} {x : Instant} (hst : s.startup.state = .loading)
    (hx : s.startup.loadEnds = some x) (hr : reached s.now x = true) :
    ∃ t, exec .startupSlotLoaded s = .next t
      ∧ t.startup = { s.startup with state := .running, resetOut := false, loadEnds := none } ∧ Computed t
      ∧ LocalsAre (newlyLatched s t ∨ s.mgmt.notice.pending = true) (fun _ => []) s t
      ∧ t.share.window = some { lengthMs := t.cfg.params.windowMs, ends := afterMs s.now t.cfg.params.windowMs }
      ∧ ((∀ b, slotReport s.store s.startup.straps.slotSel = .valid →
            (tget s.store.slots s.startup.straps.slotSel).body = some b →
            shareLaw b.classes.tenants b.classes.sets = true →
            t.cfg = b.classes
            ∧ t.flows.map withoutLastLink = b.flows.map (fun y => (y.1, newEntry y.2 .management))
            ∧ (∀ l, t.share.reflectPresent.get l = decide (0 < reflectCount l t.flows))
            ∧ (∀ l, (t.bucket (.pacing l)).rate = t.el l)
            ∧ (t.share.table.u = s.share.table.u → (∀ c : Cond, c.ofDeparture = true → t.latch c = s.latch c) →
                NoticeAtEntry s.mgmt.notice s t)
            ∧ LatchesKept [.capacityChanged] s t
            ∧ Kept (computed ++ [.config, .flows, .reflect, .startup, .notice, .locals]) s t)
        ∧ ((∀ b, slotReport s.store s.startup.straps.slotSel = .valid →
              (tget s.store.slots s.startup.straps.slotSel).body = some b →
              shareLaw b.classes.tenants b.classes.sets = false) →
            t.latch .storeInvalid = (s.latch .storeInvalid).occur s.nowNs none
            ∧ (t.share.table.u = s.share.table.u → (∀ c : Cond, c.ofDeparture = true → t.latch c = s.latch c) →
                NoticeAtEntry (flagged .storeInvalid true s) s t)
            ∧ LatchesKept [.capacityChanged, .storeInvalid] s t
            ∧ Kept (computed ++ [.startup, .notice, .locals]) s t)) := by
  have hdue : loadDue s = true := by
    unfold loadDue
    rw [hx]
    dsimp only
    rw [hst, hr]
    rfl
  have hexec : exec .startupSlotLoaded s = .next (settle (startupRead s.begun)) := if_pos hdue
  have hiff : ∀ b, loadable s.begun s.startup.straps.slotSel = some b ↔ slotReport s.store s.startup.straps.slotSel = .valid
      ∧ (tget s.store.slots s.startup.straps.slotSel).body = some b
      ∧ shareLaw b.classes.tenants b.classes.sets = true := fun b => loadable_iff
  cases hload : loadable s.begun s.startup.straps.slotSel with
  | some b =>
    have hop : startupRead s.begun = enterRunning (startupLoad b s.begun) := by
      unfold startupRead
      rw [show loadable s.begun s.begun.startup.straps.slotSel = some b from hload]
    rw [hop] at hexec
    obtain ⟨hentering, hsteady, hcfg, hflows, hmgmt, hpresent, hrate⟩ := startupLoad_spec b s
    obtain ⟨hstart, hcomp, hshare, htcfg, hlinks, htflows, hpacing, _, hlatches, hnotice, hkept⟩ :=
      enterRunning_settled (ls := []) hentering hsteady fun c _ => by unfold State.latch; rw [hmgmt]
    refine ⟨_, hexec, hstart, hcomp, enterRunning_locals hentering, by rw [hshare], fun b' hvalid hbody hlaw => ?_, fun hno => ?_⟩
    · have hb : b' = b := by
        have hsome := (hiff b').2 ⟨hvalid, hbody, hlaw⟩
        rw [hload] at hsome
        exact (Option.some.inj hsome).symm
      subst hb
      refine ⟨htcfg.trans hcfg, ?_, fun l => ?_, fun l => ?_, ?_, hlatches, hkept.mono (by decide)⟩
      · rw [htflows, hflows]
        exact loadedFlows_withoutLastLink _
      · have hshown := hpresent l
        rw [← shown_congr htflows] at hshown
        rw [hshare]
        exact hshown
      · rw [hpacing, hrate]
        exact (el_congr htcfg hlinks l).1.symm
      · rw [← hmgmt]
        exact hnotice
    · obtain ⟨hvalid, hbody, hlaw⟩ := (hiff b).1 hload
      rw [hno b hvalid hbody] at hlaw
      exact nomatch hlaw
  | none =>
    have hop : startupRead s.begun = enterRunning (raise .storeInvalid none s.begun) := by
      unfold startupRead
      rw [show loadable s.begun s.begun.startup.straps.slotSel = none from hload]
    rw [hop] at hexec
    obtain ⟨hentering, hsteady, hflagged⟩ := storeInvalid_spec hst
    obtain ⟨hstart, hcomp, hshare, _, _, _, _, hown, hlatches, hnotice, hkept⟩ :=
      enterRunning_settled (ls := [.storeInvalid]) hentering hsteady fun c hc =>
        raise_latch_other _ c none s.begun (by simpa using hc)
    refine ⟨_, hexec, hstart, hcomp, enterRunning_locals hentering, by rw [hshare], fun b hvalid hbody hlaw => ?_, fun _ => ?_⟩
    · rw [(hiff b).2 ⟨hvalid, hbody, hlaw⟩] at hload
      exact nomatch hload
    · refine ⟨(hown .storeInvalid rfl (by simp)).trans (raise_latch_same _ _ _), ?_, hlatches, hkept.mono (by decide)⟩
      rw [← hflagged]
      exact hnotice

/-- Settles O52, row by row. -/
theorem startUpRunsInOrder : Obligations.StartUpRunsInOrder := by
  refine ⟨fun p n s hn => if_neg ?_, fun k p s hheld hst hpower hfull => ⟨fun ⟨h, hh, hne⟩ => ?_, fun hlast g hg hr hfirst => ?_⟩,
    fun bad s g x hst hg => ⟨fun hr => if_neg ?_, fun hr => bufferGroupTested_due ⟨hst, hg, hr⟩ bad⟩,
    fun s x hst hx => ⟨fun hr => if_neg ?_, fun hr => startupSlotLoaded_due hst hx hr⟩⟩
  · unfold releasable releaseReady
    have hshort : decide (monitorDelayNs ≤ n) = false := decide_eq_false (Nat.not_le.2 hn)
    simp [hshort]
  · exact resetRelease_held (releasable_of hheld hst hpower hfull) hh hne
  · obtain ⟨t, he, hkept, hstart, hstore⟩ :=
      resetRelease_last (p := p) (releasable_of hheld hst hpower hfull) hlast hg hr hfirst
    refine ⟨t, he, hkept, hstart, ?_⟩
    split
    · next addr label hpage =>
      split
      · next hm => exact hstore.trans ((pageRead_some hpage).trans (if_pos hm))
      · next hm => exact hstore.trans ((pageRead_some hpage).trans (if_neg hm))
    · next hpage => exact hstore.trans (pageRead_none hpage)
  · simp [groupDue, hg, hr]
  · simp [loadDue, hx, hr]

end Sys2Proof.Machine
end
